-- ==== Sys2Proof/Word.lean ====
section
/-!
DEFINITION. Word.lean: bytes, byte strings, little-endian fields (R8) and association lists in one canonical form.
-/
namespace Sys2Proof

abbrev Byte := BitVec 8
abbrev Bytes := List Byte
/-- A 32-bit register value of the control window (R337). -/
abbrev Word := BitVec 32

/-- Entries of an association list by ascending key. -/
abbrev AList (α : Type) := List (Nat × α)

namespace AList
variable {α : Type}

def get? : AList α → Nat → Option α
  | [], _ => none
  | (k, v) :: t, x => if k = x then some v else get? t x

def getD (l : AList α) (x : Nat) (d : α) : α := (get? l x).getD d

/-- Puts a value at a key and keeps the keys rising. -/
def set : AList α → Nat → α → AList α
  | [], x, v => [(x, v)]
  | (k, w) :: t, x, v =>
    if x < k then (x, v) :: (k, w) :: t
    else if x = k then (x, v) :: t
    else (k, w) :: set t x v

def erase (l : AList α) (x : Nat) : AList α := l.filter (fun p => p.1 != x)

/-- Changes the value at a key that is listed. -/
def upd : AList α → Nat → (α → α) → AList α
  | [], _, _ => []
  | (k, w) :: t, x, f => if k = x then (k, f w) :: t else (k, w) :: upd t x f

def keys (l : AList α) : List Nat := l.map (·.1)
def vals (l : AList α) : List α := l.map (·.2)
def has (l : AList α) (x : Nat) : Bool := (get? l x).isSome

/-- The lowest key at or above `lo` and below `hi` that is not listed. -/
def firstFree (l : AList α) (lo hi : Nat) : Option Nat :=
  ((List.range (l.length + 1)).map (· + lo)).find? (fun k => decide (k < hi) && !(l.has k))

end AList

/-- Reads `n` bytes at `off` as one little-endian number (R8); bytes past the end count as zero. -/
def leAt (b : Bytes) (off : Nat) : Nat → Nat
  | 0 => 0
  | n + 1 => (b.getD off 0#8).toNat + 256 * leAt b (off + 1) n

/-- The bits `[hi:lo]` of a number (R8). -/
def bitsOf (x hi lo : Nat) : Nat := (x / 2 ^ lo) % 2 ^ (hi + 1 - lo)

def bit? (x i : Nat) : Bool := x.testBit i

/-- A number as `n` little-endian bytes. -/
def toLe (x : Nat) : Nat → Bytes
  | 0 => []
  | n + 1 => BitVec.ofNat 8 x :: toLe (x / 256) n

/-- A number as `n` big-endian bytes. -/
def toBe (x n : Nat) : Bytes := (toLe x n).reverse

/-- A byte string made exactly `n` bytes long, with zeros added. -/
def fixLen (n : Nat) (b : Bytes) : Bytes := b.take n ++ List.replicate (n - b.length) 0#8

def allZero (b : Bytes) : Bool := b.all (· == 0#8)

def b2n (b : Bool) : Nat := if b then 1 else 0

/-- Division rounded up. -/
def cdiv (a b : Nat) : Nat := (a + b - 1) / b

/-- A counter that saturates at its largest value (R479). -/
def satInc (maxv n : Nat) : Nat := if n < maxv then n + 1 else maxv

def satAdd (maxv n k : Nat) : Nat := min maxv (n + k)

/-- Places field values at their bit offsets: the pairs are (low bit, value). -/
def packBits (l : List (Nat × Nat)) : Nat := l.foldl (fun a p => a + p.2 * 2 ^ p.1) 0

end Sys2Proof
end

