-- ==== Sys2Proof/Syntax.lean ====
section
/-!
DEFINITION. Syntax.lean: the commands and events of spec/opcode_table.json, one constructor per row, in the table's order. The
operands are what the environment brings to the event: a function number, an address, the host bytes that a DMA read finds, a sensor
reading, an error pattern, an outcome that the silicon decides (notes/assumptions/7.md). `flips` lists, for each of the 8 codewords of a flash
page, the bits that the sense reads wrong (R312); `bad` lists the codewords of a tile or a block that fail the whole read ladder, each with its
page (R313, R314).
-/
namespace Sys2Proof

/-- What a tile-issued host read brings: its bytes, or the way it failed (R358). -/
inductive HostRead where
  | ok (b : Bytes)
  | expired
  | poisoned
  deriving DecidableEq, Repr

/-- A scratchpad error that a descriptor meets when it reads: the logical core whose scratchpad holds the row (another core than the
descriptor's for a MOVE that reads a PEER), the row, and whether the error is uncorrectable (R105, R110). -/
structure RowError where
  core : Nat
  row : Nat
  uncorrectable : Bool
  deriving DecidableEq, Repr

/-- For whom a page is programmed (R311, R320): an installation, a relocation of model data or of spill data, a demotion, or the tile's own
firmware, configuration and journal. -/
inductive Programmer where
  | install
  | modelCopy
  | spillCopy
  | demotion
  | system
  deriving DecidableEq, Repr

/-- Rope channels (R112). -/
inductive Chan where
  | req | rsp | col
  deriving DecidableEq, Repr

/-- What makes a channel due for retraining (R286): a temperature change, oscillator drift, errors, the period. -/
inductive DueCause where
  | temperature (celsius : Int)
  | drift (perMille : Nat)
  | errors
  | period
  deriving DecidableEq, Repr

/-- For whom a DRAM request is made (R277, R298): the step that runs on a core, a context, or a firmware service. -/
inductive Requester where
  | step (core : Nat)
  | ctx (ctx : Nat)
  | firmware
  deriving DecidableEq, Repr

/-- The commands and events. A `fid` names a fetched command by its place in the fetch order. -/
inductive Instr where
  -- power, reset and boot
  | powerOn
  | sidebandReset
  | bootRomStart
  | bootComplete (fspOk : BitVec 3) (rate : BitVec 3) (csPasses : Bool)
  | fwRecoveryGo (image : HostRead)
  | brownoutWarning
  | thermalTrip
  | bivouacRequest
  | bivouacEntryComplete
  | wake
  | wakeComplete
  | functionLevelReset (func : Nat)
  | vfDisable (func : Nat)
  -- link and SPDM
  | laneFailure (module : Bool)
  | moduleRetrainDone (module : Bool) (lanes : Nat) (rate : BitVec 3)
  | ideIntegrityFail
  | spdmGetCertificate (request : Bytes)
  | spdmChallenge (request : Bytes)
  | spdmGetMeasurements (request : Bytes)
  | spdmKeyExchange (request : Bytes)
  | spdmPskExchange (request : Bytes)
  | ideKm (message : Bytes)
  -- host accesses
  | unsupportedRequest (func addr : Nat)
  | doorbellSqTail (func off size : Nat) (data : BitVec 64)
  | doorbellCqHead (func off size : Nat) (data : BitVec 64)
  | controlWindowWrite (func off size : Nat) (data : BitVec 64)
  | controlWindowRead (func off size : Nat)
  -- drained register writes
  | registerWrite
  | adminSqTail
  | adminCqHead
  | adminQueueEnable
  | adminQueueDisable
  | spareSwitchRequest
  | dramTrainRequest
  | dramRetireRequest
  -- fetch and commands
  | commandFetch (entry : HostRead)
  | invalidOpcode (fid : Nat)
  | commandTakesEffect (fid : Nat)
  | submitStep (fid : Nat) (tokens : HostRead)
  | schedLoad (fid : Nat) (image : HostRead)
  | schedUnload (fid : Nat)
  | streamOpen (fid : Nat)
  | streamPause (fid : Nat)
  | streamResume (fid : Nat)
  | streamReset (fid : Nat)
  | streamClose (fid : Nat)
  | streamQuery (fid : Nat)
  | kvPoolCreate (fid : Nat)
  | kvPoolDestroy (fid : Nat)
  | kvSeqOpen (fid : Nat)
  | kvSeqFork (fid : Nat)
  | kvSeqTruncate (fid : Nat)
  | kvSeqClose (fid : Nat)
  | kvSeqQuery (fid : Nat)
  | segMap (fid : Nat)
  | segUnmap (fid : Nat)
  | segAttr (fid : Nat)
  | segQuery (fid : Nat)
  | modelInstall (fid : Nat) (container : HostRead)
  | modelAttach (fid : Nat)
  | modelDetach (fid : Nat)
  | modelRemove (fid : Nat)
  | modelQuery (fid : Nat)
  | windowOpen (fid : Nat)
  | windowClose (fid : Nat)
  | ctxCreate (fid : Nat)
  | ctxReset (fid : Nat)
  | ctxDestroy (fid : Nat)
  | qpCreate (fid : Nat)
  | qpDelete (fid : Nat)
  | attest (fid : Nat)
  | sessionOpen (fid : Nat) (key : HostRead)
  | identityGet (fid : Nat)
  | checkSet (fid : Nat)
  | residentRef (fid : Nat)
  | residentAck (fid : Nat)
  | replayStart (fid : Nat)
  | replayStop (fid : Nat)
  | replayStatus (fid : Nat)
  | checkQuery (fid : Nat)
  | fwUpdate (fid : Nat) (image : HostRead)
  | fwActivate (fid : Nat)
  | fwSvnCommit (fid : Nat)
  | cfgUpdate (fid : Nat) (record : HostRead)
  | cfgWrite (fid : Nat) (records : HostRead)
  | logRingSet (fid : Nat)
  | cairnSet (fid : Nat)
  -- dispatch and descriptors
  | stepDispatch (step : Nat) (paced : Bool)
  | startTokenPost (step : Nat)
  | matmul (core : Nat) (errors : List RowError)
  | scan (core : Nat) (errors : List RowError)
  | attn (core : Nat) (errors : List RowError)
  | vec (core : Nat) (errors : List RowError)
  | move (core : Nat) (errors : List RowError)
  | reduceAllReduce (core : Nat) (errors : List RowError)
  | reduceAllGather (core : Nat) (errors : List RowError)
  | reduceBroadcast (core : Nat) (errors : List RowError)
  | checkCompare (core : Nat) (errors : List RowError)
  | checkSend (core : Nat) (errors : List RowError)
  | checkReceive (core : Nat) (errors : List RowError)
  | checkShadow (core : Nat) (errors : List RowError)
  | belayPost (core : Nat)
  | belayWait (core : Nat)
  | belayIncrement (core : Nat) (token : Nat)
  | digestSlotFill (core : Nat) (slot : Nat)
  | descriptorComplete (core : Nat) (index : Nat)
  -- Rope and collectives
  | ropeFlitTransfer (station : Nat) (ascending ringB : Bool) (chan : Chan)
  | ropeCreditReturn (station : Nat) (ascending ringB : Bool) (chan : Chan)
  | collectiveContribution (core : Nat) (corrupt : Bool)
  | collectiveDelivery (core : Nat) (corrupt : Bool)
  | collectiveCheckReport (core : Nat)
  | collectiveDone (core : Nat)
  | stepDoneReport (core : Nat)
  -- commit, faults, self-test and sparing
  | stepCommit (step : Nat)
  | faultReport (core : Nat)
  | coreStopTimeout (core : Nat)
  | katPeriodExpiry (pcore : Nat)
  | katComplete (pcore : Nat) (passes : Bool)
  | spareSwitch (core : Nat)
  | spareCopyComplete (core : Nat) (lost : List Nat)
  -- periodic checks and tiers
  | digestComparePeriod (corrupt : List (Nat × Nat × Nat))
  | residentScanPeriod
  | scrubWrite (pcore row : Nat)
  | promotionComplete (ctx seg tile : Nat) (bad : List (Nat × Nat))
  | evictAhead (ctx : Nat)
  | demotionComplete (ctx seg tile : Nat)
  | frameZeroed (frame : Nat)
  | hostReadCompletion (tag : Nat) (data : Bytes)
  | dmaReadTimeout (tag : Nat) (poisoned : Bool)
  -- DRAM
  | dramReadRequest (frame block : Nat) (who : Requester) (tag : Nat)
  | dramWriteRequest (frame block : Nat) (who : Requester) (data : Bytes)
  | dramReadIssue (chan : Nat) (aged : Bool)
  | dramReadData (chan : Nat) (error : List (Nat × Nat))
  | writeDrainBurst (chan : Nat) (aged : Nat) (readsIdle : Bool)
  | pageIdleClose (chan bank : Nat)
  | refresh (chan bank : Nat) (rfm : Bool)
  | mr4Poll (chan : Nat) (rate0 rate1 : BitVec 4)
  | neighbourRefresh (chan bank row : Nat)
  | patrolScrub (error : List (Nat × Nat))
  | retrainDue (chan : Nat) (cause : DueCause)
  | retrainSliceStart (chan : Nat)
  | retrainSliceEnd (chan : Nat) (passes : Bool)
  | rankRetire (chan : Nat) (rank : Bool)
  | migrationFrameCopied (group : Nat) (bad : List Nat)
  | setPointChange (target : BitVec 2)
  | channelSwitchDone (chan : Nat)
  | quadPowerDown (chan rank quad : Nat)
  | quadOffAck (chan rank quad : Nat)
  | quadPowerUp (chan rank quad : Nat)
  | quadPowerUpDone (chan rank quad : Nat)
  -- flash
  | flashReadIssue (die page tag : Nat)
  | flashReadDone (die plane : Nat) (flips : List (List Nat))
  | flashRetrySenseDone (die plane : Nat) (flips : List (List Nat))
  | calStatisticsFull (die level bin : Nat)
  | flashProgramIssue (page : Nat) (who : Programmer) (data : Bytes)
  | flashPulseEnd (die plane : Nat)
  | flashProgramDone (die plane : Nat) (passes : Bool)
  | flashEraseIssue (block : Nat)
  | flashEraseDone (die plane : Nat) (passes : Bool)
  | relocation (block : Nat) (bad : List (Nat × Nat))
  | garbageCollection (die plane : Nat) (bad : List (Nat × Nat))
  | staticWearLevelling (bad : List (Nat × Nat))
  | journalCheckpoint
  -- firmware
  | watchdogExpiry (core : Nat)
  | fwCoreRestart (core : Nat)
  | fwActivateConfirm
  | cfgRecordApply (subsystem : Nat)
  | logEntryDelivery
  | cairnRecordDelivery (core : Nat)
  -- power
  | governorTick (power : Nat) (tj : Int)
  | powerSurgeSample (power : Nat)
  | throttleUpdate
  | stepTimeMeasure (times : List (BitVec 16))
  | regulatorTelemetry (milliamps : Nat)
  | droopHold (region : Nat)
  | droopRelease (region : Nat)
  | droopTimeout (region : Nat)
  | dramThermalDerate (celsius : Int)
  | dramThermalRestore (celsius : Int)
  | flashThermalPause (celsius : Int)
  | flashThermalResume (celsius : Int)
  | coreGate (pcore : Nat)
  | coreGateDone (pcore : Nat)
  | coreUngate (pcore : Nat)
  | coreUngateDone (pcore : Nat)
  | powerOff
  | msixTableWrite (func off size : Nat) (data : BitVec 64)
  deriving DecidableEq, Repr

end Sys2Proof
end

