-- ==== Sys2Proof/Decode.lean ====
section
/-!
DEFINITION. Decode.lean: the command that a word spells by the table's bits. No row of spec/opcode_table.json gives bits (every row's
fields are empty), so no word spells a command (notes/assumptions/8.md).
-/
namespace Sys2Proof

def decodeTableWord (_nbits _w : Nat) : Option Instr := none

end Sys2Proof
end

