-- ==== Sys2Proof/Config.lean ====
section
/-!
DEFINITION. Config.lean: what an implementation fixes and the free values: constants and functions with no body, so that
no proof can see what they are (notes/assumptions/6.md).
-/
namespace Sys2Proof.Config

/-- STEPPING of DEV_ID, fixed at manufacture (R361). -/
opaque stepping : BitVec 4
/-- The boot-ROM measurement, fixed in the ROM (R366). -/
opaque romDigest : List (BitVec 8)
/-- Draw number n of the entropy source (R284, R364). -/
opaque entropy : Nat → List (BitVec 8)
/-- SHA-384 over a byte string (R133, R366, R397). -/
opaque sha384 : List (BitVec 8) → List (BitVec 8)
/-- HKDF-SHA-384 of (input key, salt, info, length) (R364). -/
opaque hkdf : List (BitVec 8) → List (BitVec 8) → List (BitVec 8) → Nat → List (BitVec 8)
/-- ECDSA with SHA-384 on Brainpool P-384: signature of a message under a private key, r then s (R362). -/
opaque ecdsaSign : List (BitVec 8) → List (BitVec 8) → List (BitVec 8)
/-- ECDSA verification of (public key, message, r, s) (R397). -/
opaque ecdsaVerify : List (BitVec 8) → List (BitVec 8) → List (BitVec 8) → List (BitVec 8) → Bool
/-- The public key of a private key drawn from the entropy source (R367). -/
opaque ecPublic : List (BitVec 8) → List (BitVec 8)
/-- Whether a 97-byte string is a point of the curve other than infinity (R364). -/
opaque ecValid : List (BitVec 8) → Bool
/-- The ECDH secret of (private key, peer point) (R364). -/
opaque ecdh : List (BitVec 8) → List (BitVec 8) → List (BitVec 8)
/-- AES-256-GCM sealing of (key, nonce, additional data, plaintext): ciphertext and tag (R377). -/
opaque gcmSeal : List (BitVec 8) → List (BitVec 8) → List (BitVec 8) → List (BitVec 8) →
  List (BitVec 8) × List (BitVec 8)
/-- AES-256-GCM opening of (key, nonce, additional data, ciphertext, tag); none when the tag fails (R379). -/
opaque gcmOpen : List (BitVec 8) → List (BitVec 8) → List (BitVec 8) → List (BitVec 8) →
  List (BitVec 8) → Option (List (BitVec 8))
/-- The Daxtis root certificate and this tile's leaf certificate, DER-encoded (R365). -/
opaque rootCert : List (BitVec 8)
opaque leafCert : List (BitVec 8)
/-- The public key that a DER-encoded X.509 certificate certifies (R365). -/
opaque certKey : List (BitVec 8) → List (BitVec 8)
/-- The body of an SPDM response by request code and request bytes, as SPDM 1.2 defines it (R365). -/
opaque spdmBody : Nat → List (BitVec 8) → List (BitVec 8)
/-- AES-256-XTS on a sector of 512 bytes, by key pair and tweak: encryption, with decryption as its inverse (R383). -/
opaque xts : List (BitVec 8) → Nat → (BitVec 4096 ≃ BitVec 4096)
/-- AES-256-CMAC of a message under a key (R383). -/
opaque cmac : List (BitVec 8) → List (BitVec 8) → List (BitVec 8)

/-- The bits past the last element that an engine writes into the last row of a result, by descriptor and row: the spec
names no value for them (R66, R104; notes/assumptions/10.md). -/
opaque rowPad : Nat → Nat → BitVec 4096

/-- What a block of a bank quad holds after a power-up, by power-up and block, until it is written (R299). -/
opaque dramWild : Nat → Nat → List (BitVec 8)

/-- The 256 parity bytes of the 2 KiB of a codeword: the spec names an LDPC code of rate 8/9 and no more of it (R312). -/
opaque ldpcParity : List (BitVec 8) → List (BitVec 8)
/-- What a page holds whose program was cut short, by page address and the bytes it was given (R324). -/
opaque tornPage : Nat → List (BitVec 8) → List (BitVec 8)

/-- STEPS of a Cairn record by its SEQ: engine steps since the start token, which the model does not count (R423). -/
opaque cairnSteps : Nat → BitVec 32

/-- SEVERITY of a log entry by its event code: the spec gives the field (R420) and no value for an event. -/
opaque logSeverity : Nat → BitVec 2

end Sys2Proof.Config
end

