-- ==== Sys2Proof/Machine/Flags.lean ====
section
/-!
DEFINITION. Machine/Flags.lean: the numeric flag word of R59, its collection over a step (R60) and the check policy on it (R428).
-/
namespace Sys2Proof.Machine

/-- The numeric flag word (R59). -/
abbrev Flags := BitVec 8

def Flags.nanSeen : Flags := 0x01#8
def Flags.nanMapped : Flags := 0x02#8
def Flags.sat : Flags := 0x04#8
def Flags.infSeen : Flags := 0x08#8
def Flags.intSat : Flags := 0x10#8
def Flags.scaleNan : Flags := 0x20#8
def Flags.range : Flags := 0x40#8

/-- The flag word of a step: the OR over its cores (R60, R126). -/
def Flags.ofCores (l : List Flags) : Flags := l.foldl (fun a f => a ||| f) 0#8

/-- The part of a flag word that the mask in force selects (R428). -/
def Flags.masked (f : Flags) (mask : Nat) : Flags := f &&& BitVec.ofNat 8 mask

/-- Whether the policy faults the step (R428). -/
def Flags.policyFault (f : Flags) (mask : Nat) : Bool := Flags.masked f mask != 0#8

end Sys2Proof.Machine
end

