-- ==== Sys2Proof/Machine/Num.lean ====
section
/-!
DEFINITION. Machine/Num.lean: the number formats of R32 to R48 and R484: exact values, rounding to nearest even,
conversion between formats.
-/
namespace Sys2Proof.Machine


/-- An exact value: NaN, an infinity, or (-1)^neg × m × 2^e. A zero keeps its sign (R48). -/
inductive FVal where
  | nan
  | inf (neg : Bool)
  | fin (neg : Bool) (m : Nat) (e : Int)
  deriving DecidableEq, Repr

def FVal.zero : FVal := .fin false 0 0
def FVal.negZero : FVal := .fin true 0 0
def FVal.one : FVal := .fin false 1 0

def FVal.isNan : FVal → Bool | .nan => true | _ => false
def FVal.isInf : FVal → Bool | .inf _ => true | _ => false
def FVal.isZero : FVal → Bool | .fin _ m _ => m == 0 | _ => false
def FVal.isNeg : FVal → Bool | .fin n _ _ => n | .inf n => n | .nan => false

/-- The number of bits of a natural number, at most `fuel`. -/
def bitLenAux : Nat → Nat → Nat
  | 0, _ => 0
  | fuel + 1, n => if n = 0 then 0 else bitLenAux fuel (n / 2) + 1

/-- The bit length of n, by halving blocks of bits first. -/
def bitLen (n : Nat) : Nat :=
  let rec go : Nat → Nat → Nat → Nat
    | 0, _, acc => acc
    | fuel + 1, x, acc => if x < 2 ^ 64 then acc + bitLenAux 64 x else go fuel (x / 2 ^ 64) (acc + 64)
  go (n.log2 / 64 + 1) n 0

/-- A floating-point layout (R34): mantissa width, exponent width, bias. -/
structure FLayout where
  mbits : Nat
  ebits : Nat
  bias : Nat
  deriving DecidableEq, Repr

/-- The layout of a floating-point format code (R34). -/
def layoutOf : Nat → Option FLayout
  | 0x0 => some ⟨23, 8, 127⟩
  | 0x1 => some ⟨10, 5, 15⟩
  | 0x2 => some ⟨7, 8, 127⟩
  | 0x3 => some ⟨3, 4, 7⟩
  | 0x4 => some ⟨2, 5, 15⟩
  | 0x5 => some ⟨2, 3, 3⟩
  | 0x6 => some ⟨3, 2, 1⟩
  | 0x7 => some ⟨1, 2, 1⟩
  | _ => none

/-- The bit pattern, without sign, of the largest finite value of a floating-point code (R34). -/
def maxFiniteBits : Nat → Nat
  | 0x0 => 0x7F7FFFFF | 0x1 => 0x7BFF | 0x2 => 0x7F7F | 0x3 => 0x7E | 0x4 => 0x7B
  | 0x5 => 0x1F | 0x6 => 0x1F | 0x7 => 0x7 | _ => 0

/-- The width of a format code in bits (R32); Ridge-16 counts as the BF16 it expands to (R58, R68). -/
def fmtWidth : Nat → Nat
  | 0x0 => 32 | 0x1 => 16 | 0x2 => 16 | 0x3 => 8 | 0x4 => 8 | 0x5 => 6 | 0x6 => 6 | 0x7 => 4
  | 0x8 => 32 | 0x9 => 16 | 0xA => 8 | 0xB => 8 | 0xC => 4 | 0xD => 16 | 0xE => 8 | _ => 8

/-- Elements per 512-byte row (R39). -/
def elemsPerRow (fmt : Nat) : Nat :=
  match fmtWidth fmt with
  | 32 => 128 | 16 => 256 | 8 => 512 | 6 => 672 | 4 => 1024 | _ => 512

def isIntFmt (fmt : Nat) : Bool := decide (0x8 ≤ fmt ∧ fmt ≤ 0xC)

/-- The range of an integer format (R38). -/
def intRange : Nat → Int × Int
  | 0x8 => (-2147483648, 2147483647)
  | 0x9 => (-32768, 32767)
  | 0xA => (-128, 127)
  | 0xB => (0, 255)
  | 0xC => (-8, 7)
  | _ => (0, 0)

/-- The value of an integer element's bits (R38). -/
def decodeInt (fmt bits : Nat) : Int :=
  let w := fmtWidth fmt
  let b := bits % 2 ^ w
  if fmt = 0xB then (b : Int) else if b ≥ 2 ^ (w - 1) then (b : Int) - (2 ^ w : Nat) else (b : Int)

def encodeInt (fmt : Nat) (v : Int) : Nat := (v % ((2 ^ fmtWidth fmt : Nat) : Int)).toNat

def FVal.ofInt (i : Int) : FVal := .fin (decide (i < 0)) i.natAbs 0

/-- The exact value of a floating-point pattern (R34, R35). -/
def decodeFloat (fmt : Nat) (l : FLayout) (bits : Nat) : FVal :=
  let m := bits % 2 ^ l.mbits
  let e := (bits / 2 ^ l.mbits) % 2 ^ l.ebits
  let s := decide ((bits / 2 ^ (l.mbits + l.ebits)) % 2 = 1)
  let top := e = 2 ^ l.ebits - 1
  if (fmt = 0 ∨ fmt = 1 ∨ fmt = 2 ∨ fmt = 4) ∧ top then
    if m = 0 then .inf s else .nan
  else if fmt = 3 ∧ top ∧ m = 7 then .nan
  else if e = 0 then .fin s m (1 - (l.bias : Int) - (l.mbits : Int))
  else .fin s (2 ^ l.mbits + m) ((e : Int) - (l.bias : Int) - (l.mbits : Int))

/-- The exact value of an element (R34, R38, R58, R484); code 0xD is read as BF16. -/
def decodeElem (fmt bits : Nat) : FVal :=
  if fmt = 0xD then decodeFloat 2 ⟨7, 8, 127⟩ bits
  else if fmt = 0xE then
    if bits % 256 = 0xFF then .nan else .fin false 1 (((bits % 256 : Nat) : Int) - 127)
  else if isIntFmt fmt then FVal.ofInt (decodeInt fmt bits)
  else match layoutOf fmt with
    | some l => decodeFloat fmt l bits
    | none => .nan

/-- Rounds m × 2^e to a multiple of 2^q, to nearest, ties to even: the multiple. -/
def rneAt (m : Nat) (e q : Int) : Nat :=
  if q ≤ e then m * 2 ^ (e - q).toNat
  else
    let k := (q - e).toNat
    let t := m / 2 ^ k
    let r := m % 2 ^ k
    let half := 2 ^ (k - 1)
    if r > half ∨ (r = half ∧ t % 2 = 1) then t + 1 else t

/-- The exponent of the last place to which m × 2^e rounds in a layout, with the subnormal range honoured and the exponent
range unbounded above (R46). -/
def lastPlace (l : FLayout) (m : Nat) (e : Int) : Int :=
  max (e + (bitLen m : Int) - (l.mbits : Int) - 1) (1 - (l.bias : Int) - (l.mbits : Int))

/-- The bit pattern, without sign, of r × 2^q, where q is a last place of the layout and r has at most mbits + 1 bits, or is the
next power of two. -/
def encodeMag (l : FLayout) (r : Nat) (q : Int) : Nat :=
  let r' := if r = 2 ^ (l.mbits + 1) then r / 2 else r
  let q' := if r = 2 ^ (l.mbits + 1) then q + 1 else q
  if r' < 2 ^ l.mbits then r'
  else (q' + (l.bias : Int) + (l.mbits : Int)).toNat * 2 ^ l.mbits + (r' - 2 ^ l.mbits)

def signBit (l : FLayout) (neg : Bool) : Nat := b2n neg * 2 ^ (l.mbits + l.ebits)

/-- Compares two magnitudes m1 × 2^e1 ≤ m2 × 2^e2. -/
def magLe (m1 : Nat) (e1 : Int) (m2 : Nat) (e2 : Int) : Bool :=
  let q := min e1 e2
  decide (m1 * 2 ^ (e1 - q).toNat ≤ m2 * 2 ^ (e2 - q).toNat)

def FVal.toFin (v : FVal) : Nat × Int := match v with | .fin _ m e => (m, e) | _ => (0, 0)

/-- Rounds a finite exact value to a floating-point code under R46, with saturation. -/
def roundFloat (fmt : Nat) (l : FLayout) (neg : Bool) (m : Nat) (e : Int) : Nat × Flags :=
  if m = 0 then (signBit l neg, 0#8)
  else
    let q := lastPlace l m e
    let r := rneAt m e q
    let mx := (decodeFloat fmt l (maxFiniteBits fmt)).toFin
    if magLe r q mx.1 mx.2 then (signBit l neg + encodeMag l r q, 0#8)
    else (signBit l neg + maxFiniteBits fmt, Flags.sat)

/-- The integer nearest to an exact value, ties to even (R46, R47). -/
def roundInt (neg : Bool) (m : Nat) (e : Int) : Int :=
  let r : Int := ((rneAt m e 0 : Nat) : Int)
  if neg then -r else r

/-- The code E8M0 of an FP32 result (R484). -/
def encodeE8M0 : FVal → Nat × Flags
  | .nan => (0xFF, Flags.nanSeen)
  | .inf _ => (0xFE, Flags.infSeen ||| Flags.sat)
  | .fin _ m e =>
    if m = 0 then (0, 0#8)
    else
      let x := e + (bitLen m : Int) - 1
      if x < -127 then (0, 0#8) else ((min (x + 127) 0xFE).toNat, 0#8)

/-- Conversion of an exact value to a format (R47, R36, R484). `sat` selects the saturating mode of E4M3. -/
def convert (fmt : Nat) (sat : Bool) (v : FVal) : Nat × Flags :=
  if fmt = 0xE then encodeE8M0 v
  else if isIntFmt fmt then
    let rg := intRange fmt
    match v with
    | .nan => (0, Flags.nanSeen)
    | .inf n => (encodeInt fmt (if n then rg.1 else rg.2), Flags.infSeen ||| Flags.intSat)
    | .fin n m e =>
      let i := roundInt n m e
      if i < rg.1 then (encodeInt fmt rg.1, Flags.intSat)
      else if rg.2 < i then (encodeInt fmt rg.2, Flags.intSat)
      else (encodeInt fmt i, 0#8)
  else match layoutOf fmt with
    | none => (0, 0#8)
    | some l =>
      match v with
      | .nan =>
        if fmt = 0 then (0x7FC00000, Flags.nanSeen)
        else if fmt = 1 then (0x7E00, Flags.nanSeen)
        else if fmt = 2 then (0x7FC0, Flags.nanSeen)
        else if fmt = 4 then (0x7E, Flags.nanSeen)
        else if fmt = 3 then
          (if sat then (0x7E, Flags.nanSeen ||| Flags.nanMapped) else (0x7F, Flags.nanSeen))
        else (maxFiniteBits fmt, Flags.nanSeen ||| Flags.nanMapped)
      | .inf n =>
        if fmt = 0 ∨ fmt = 1 ∨ fmt = 2 ∨ fmt = 4 then
          (signBit l n + (2 ^ l.ebits - 1) * 2 ^ l.mbits, Flags.infSeen)
        else (signBit l n + maxFiniteBits fmt, Flags.infSeen ||| Flags.sat)
      | .fin n m e => roundFloat fmt l n m e

/-- The FP32 value a pattern holds. -/
def ofF32 (bits : Nat) : FVal := decodeElem 0 bits

/-- The FP32 pattern of a value. -/
def toF32 (v : FVal) : Nat := (convert 0 false v).1

/-- round32 (R54): rounding to FP32, with the flags it sets. -/
def round32 (v : FVal) : FVal × Flags :=
  let c := convert 0 false v
  (decodeElem 0 c.1, c.2)

/-- Flags raised by reading an operand (R59). -/
def readFlags : FVal → Flags
  | .nan => Flags.nanSeen
  | .inf _ => Flags.infSeen
  | _ => 0#8

/-- Signed integer of an aligned magnitude. -/
def alignTo (q : Int) : FVal → Int
  | .fin n m e => let x : Int := ((m * 2 ^ (e - q).toNat : Nat) : Int); if n then -x else x
  | _ => 0

/-- Exact sum of two values (R48, R56). -/
def FVal.add (a b : FVal) : FVal :=
  match a, b with
  | .nan, _ => .nan
  | _, .nan => .nan
  | .inf x, .inf y => if x = y then .inf x else .nan
  | .inf x, _ => .inf x
  | _, .inf y => .inf y
  | .fin n1 m1 e1, .fin n2 m2 e2 =>
    let q := min e1 e2
    let s := alignTo q (.fin n1 m1 e1) + alignTo q (.fin n2 m2 e2)
    if s = 0 then .fin (n1 && n2) 0 q else .fin (decide (s < 0)) s.natAbs q

def FVal.neg : FVal → FVal
  | .nan => .nan
  | .inf n => .inf (!n)
  | .fin n m e => .fin (!n) m e

def FVal.abs : FVal → FVal
  | .nan => .nan
  | .inf _ => .inf false
  | .fin _ m e => .fin false m e

/-- Exact product (R48, R56). -/
def FVal.mul (a b : FVal) : FVal :=
  match a, b with
  | .nan, _ => .nan
  | _, .nan => .nan
  | .inf x, .inf y => .inf (x != y)
  | .inf x, .fin n m _ => if m = 0 then .nan else .inf (x != n)
  | .fin n m _, .inf y => if m = 0 then .nan else .inf (n != y)
  | .fin n1 m1 e1, .fin n2 m2 e2 => .fin (n1 != n2) (m1 * m2) (e1 + e2)

/-- Exact sum of a list; the empty sum is +0. It does not depend on the order (R54, R164). -/
def exactSum (l : List FVal) : FVal :=
  match l with
  | [] => FVal.zero
  | x :: t => t.foldl FVal.add x

/-- a < b on values that are not NaN; −0 and +0 are equal (R70 CMPLT). -/
def FVal.lt (a b : FVal) : Bool :=
  match a, b with
  | .nan, _ => false
  | _, .nan => false
  | .inf x, .inf y => x && !y
  | .inf x, _ => x
  | _, .inf y => !y
  | .fin n1 m1 e1, .fin n2 m2 e2 =>
    let q := min e1 e2
    decide (alignTo q (.fin n1 m1 e1) < alignTo q (.fin n2 m2 e2))

/-- a = b under CMPEQ: zeros are equal, NaN equals nothing (R70). -/
def FVal.eqv (a b : FVal) : Bool :=
  !a.isNan && !b.isNan && !FVal.lt a b && !FVal.lt b a

/-- max under R48: +0 is above −0, a NaN gives NaN. -/
def FVal.max (a b : FVal) : FVal :=
  if a.isNan || b.isNan then .nan
  else if FVal.lt a b then b
  else if FVal.lt b a then a
  else if a.isNeg then b else a

/-- min under R48. -/
def FVal.min (a b : FVal) : FVal :=
  if a.isNan || b.isNan then .nan
  else if FVal.lt a b then a
  else if FVal.lt b a then b
  else if a.isNeg then a else b

end Sys2Proof.Machine
end

