-- ==== Sys2Proof/Machine/Codes.lean ====
section
/-!
DEFINITION. Machine/Codes.lean: the check codes the spec fixes (CRC-64 of R89, CRC-32 of R134, CRC-16 of R247, the
Reed-Solomon code of R273), Philox of R73, and the Ridge-16 and Talus block formats of R246 to R260.
-/
namespace Sys2Proof.Machine

/-- One bit of a CRC that is not reflected: shift left, subtract the polynomial. -/
def crcStep (w poly c : Nat) : Nat :=
  if c.testBit (w - 1) then ((c * 2) % 2 ^ w) ^^^ poly else (c * 2) % 2 ^ w

def crcByte (w poly c : Nat) (b : Byte) : Nat :=
  (List.range 8).foldl (fun c _ => crcStep w poly c) (c ^^^ (b.toNat * 2 ^ (w - 8)))

/-- CRC-64/ECMA-182 over bytes in ascending order (R89). -/
def crc64 (bs : Bytes) : Nat := bs.foldl (crcByte 64 0x42F0E1EBA9EA3693) 0

/-- CRC-16 with polynomial 0x1021 and initial value 0xFFFF (R247). -/
def crc16 (bs : Bytes) : Nat := bs.foldl (crcByte 16 0x1021) 0xFFFF

def crcRStep (poly c : Nat) : Nat := if c % 2 = 1 then (c / 2) ^^^ poly else c / 2

/-- CRC-32, reflected, initial value and final exclusive-or all ones (R134). 0xEDB88320 is 0x04C11DB7 reflected. -/
def crc32 (bs : Bytes) : Nat :=
  (bs.foldl (fun c b => (List.range 8).foldl (fun c _ => crcRStep 0xEDB88320 c) (c ^^^ b.toNat)) 0xFFFFFFFF) ^^^ 0xFFFFFFFF

/-! ## The Reed-Solomon code of inline ECC (R273) -/

/-- Multiplication by α = 0x02 in GF(2^8) modulo 0x11D. -/
def gfDouble (a : Nat) : Nat := if a ≥ 128 then ((a * 2) % 256) ^^^ 0x1D else a * 2

def gfMulAux : Nat → Nat → Nat → Nat
  | 0, _, _ => 0
  | n + 1, a, b => (if b % 2 = 1 then a else 0) ^^^ gfMulAux n (gfDouble a) (b / 2)

def gfMul (a b : Nat) : Nat := gfMulAux 8 a b

def gfPow (k : Nat) : Nat := (List.range k).foldl (fun a _ => gfDouble a) 1

/-- Coefficients of the generator (x − α⁰)(x − α¹)(x − α²)(x − α³), highest first, without the leading one. -/
def rsGen : List Nat :=
  let mulLin (p : List Nat) (r : Nat) : List Nat :=
    (List.zipWith (fun a b => a ^^^ b) (p ++ [0]) (0 :: p.map (gfMul r)))
  ((List.range 4).foldl (fun p i => mulLin p (gfPow i)) [1]).drop 1

/-- The four check bytes of a message of symbols, the coefficient of x³ first. -/
def rsCheck (msg : List Nat) : List Nat :=
  msg.foldl (fun rem s =>
    let f := s ^^^ rem.headD 0
    List.zipWith (fun a g => a ^^^ gfMul f g) (rem.drop 1 ++ [0]) rsGen) [0, 0, 0, 0]

/-- The four address symbols of R273, most significant first: block index in the rank, channel, rank. -/
def rsAddress (x channel rank : Nat) : List Nat :=
  let a := (x % 2 ^ 26) + (channel % 32) * 2 ^ 26 + (rank % 2) * 2 ^ 31
  [a / 2 ^ 24 % 256, a / 2 ^ 16 % 256, a / 2 ^ 8 % 256, a % 256]

/-- The check bytes stored with a block (R273). -/
def eccOf (x channel rank : Nat) (data : Bytes) : List Nat :=
  rsCheck (rsAddress x channel rank ++ data.map (·.toNat))

/-- Syndrome i of an error pattern: (symbol position from 0 at the first address symbol, exclusive-or) pairs over the 72 symbols.
The code is linear, so the syndrome of the read block is that of its error pattern. -/
def rsSyndrome (errs : List (Nat × Nat)) (i : Nat) : Nat :=
  errs.foldl (fun a p => a ^^^ gfMul p.2 (gfPow (i * (71 - p.1)))) 0

/-- What inline ECC makes of an error pattern (R274): clean, one symbol corrected, or uncorrectable. -/
inductive EccOutcome where
  | clean
  | corrected (sym mag : Nat)
  | uncorrectable
  deriving DecidableEq, Repr

def eccDecode (errs : List (Nat × Nat)) : EccOutcome :=
  let s0 := rsSyndrome errs 0
  let s1 := rsSyndrome errs 1
  let s2 := rsSyndrome errs 2
  let s3 := rsSyndrome errs 3
  if s0 = 0 ∧ s1 = 0 ∧ s2 = 0 ∧ s3 = 0 then .clean
  else
    match (List.range 72).find? (fun j =>
      let r := gfPow (71 - j)
      decide (s0 ≠ 0) && decide (s1 = gfMul s0 r) && decide (s2 = gfMul s1 r) && decide (s3 = gfMul s2 r)) with
    | some j => if j < 4 then .uncorrectable else .corrected j s0
    | none => .uncorrectable

/-! ## Philox-4×32 with 10 rounds (R73) -/

def philoxRound (c : Nat × Nat × Nat × Nat) (k : Nat × Nat) : Nat × Nat × Nat × Nat :=
  let p0 := 0xD2511F53 * c.1
  let p1 := 0xCD9E8D57 * c.2.2.1
  ((p1 / 2 ^ 32) ^^^ c.2.1 ^^^ k.1, p1 % 2 ^ 32, (p0 / 2 ^ 32) ^^^ c.2.2.2 ^^^ k.2, p0 % 2 ^ 32)

/-- The first output word for a key and a counter. -/
def philox (key : Nat × Nat) (ctr : Nat × Nat × Nat × Nat) : Nat :=
  ((List.range 10).foldl (fun (st : (Nat × Nat × Nat × Nat) × (Nat × Nat)) _ =>
      (philoxRound st.1 st.2, ((st.2.1 + 0x9E3779B9) % 2 ^ 32, (st.2.2 + 0xBB67AE85) % 2 ^ 32))) (ctr, key)).1.1

/-! ## Ridge-16 (R246 to R251) -/

/-- The exponent offset of code c of a table given as eight signed bytes; none is flush-to-zero. -/
def tableOffset (tbl : Bytes) (c : Nat) : Option Int :=
  let b := (tbl.getD c 0#8)
  if c = 7 ∨ b = 0x80#8 then none else some b.toInt

/-- A valid decode table (R248). -/
def tableValid (tbl : Bytes) : Bool :=
  decide (tbl.length = 8) && decide (tbl.getD 0 1#8 = 0#8) && decide (tbl.getD 7 0#8 = 0x80#8) &&
  (List.range 6).all (fun i =>
    let a := (tbl.getD i 0#8).toInt
    let b := (tbl.getD (i + 1) 0#8).toInt
    decide (b < a) && decide (-127 ≤ b) && decide (b ≤ -1))

/-- The default table (R248). -/
def defaultTable : Bytes := [0x00#8, 0xFF#8, 0xFE#8, 0xFD#8, 0xFC#8, 0xFA#8, 0xF8#8, 0x80#8]

/-- One decoded value as a BF16 pattern (R249). -/
def ridgeValue (base : Nat) (tbl : Bytes) (code : Nat) : Nat :=
  let m := code % 128
  let c := (code / 128) % 8
  let s := (code / 1024) % 2
  match tableOffset tbl c with
  | none => s * 0x8000
  | some o =>
    let f := (base : Int) + o
    if f < 0 then s * 0x8000 else s * 0x8000 + f.toNat * 128 + m

/-- A Ridge-16 block split into its fields (R246). -/
structure RidgeBlock where
  base : Nat
  slot : Nat
  gen : Nat
  ok : Bool
  codes : List Nat
  deriving DecidableEq, Repr

def ridgeParse (b : Bytes) : RidgeBlock :=
  let w := (b.getD 1 0#8).toNat
  let stream := leAt b 4 176
  { base := (b.getD 0 0#8).toNat, slot := w % 16, gen := (w / 16) % 4,
    ok := decide (w / 64 = 0) && decide ((b.getD 0 0#8).toNat ≠ 255) &&
      decide (leAt b 2 2 = crc16 (b.take 2 ++ (b.drop 4).take 176)),
    codes := (List.range 128).map (fun i => (stream / 2 ^ (11 * i)) % 2048) }

def ridgeExpand (r : RidgeBlock) (tbl : Bytes) : Bytes :=
  (r.codes.map (fun c => toLe (ridgeValue r.base tbl c) 2)).flatten

/-- BASE of 128 BF16 patterns (R251, step 1). -/
def ridgeBase (vals : List Nat) : Nat :=
  (vals.filter (fun v => v % 0x8000 ≠ 0)).foldl (fun a v => max a (v / 128 % 256)) 0

/-- The code of one value (R251, steps 2 to 5): nearest, then even mantissa, then smaller magnitude, then lowest code. -/
def ridgeCode (base : Nat) (tbl : Bytes) (v : Nat) : Nat :=
  let s := v / 0x8000 % 2
  let mag (f m : Nat) : Nat := if f = 0 then m else (128 + m) * 2 ^ (f - 1)
  let target := mag (v / 128 % 256) (v % 128)
  let cands : List (Nat × Nat × Nat) :=
    ((List.range 7).flatMap (fun c => match tableOffset tbl c with
      | none => []
      | some o => if (base : Int) + o < 0 then [] else
          (List.range 128).map (fun m => (c, m, mag ((base : Int) + o).toNat m)))) ++ [(7, 0, 0)]
  let dist (x : Nat) : Nat := if x ≤ target then target - x else x - target
  let better (a b : Nat × Nat × Nat) : Bool :=
    if dist a.2.2 ≠ dist b.2.2 then decide (dist a.2.2 < dist b.2.2)
    else if a.2.1 % 2 ≠ b.2.1 % 2 then decide (a.2.1 % 2 = 0)
    else decide (a.2.2 < b.2.2)
  let best := cands.foldl (fun acc x => if better x acc then x else acc) (cands.headD (7, 0, 0))
  -- step 4: the lowest code that decodes to the chosen value
  let low := (cands.find? (fun x => x.2.2 = best.2.2)).getD best
  s * 1024 + low.1 * 128 + low.2.1

/-- Encodes 128 BF16 patterns as one block under table (slot, gen) (R246, R247, R251). -/
def ridgeEncode (slot gen : Nat) (tbl : Bytes) (vals : List Nat) : Bytes :=
  let base := ridgeBase vals
  let stream := (vals.map (ridgeCode base tbl)).foldr (fun c acc => c + 2048 * acc) 0
  let head : Bytes := [BitVec.ofNat 8 base, BitVec.ofNat 8 (slot + 16 * gen)]
  let payload := toLe stream 176
  head ++ toLe (crc16 (head ++ payload)) 2 ++ payload

/-! ## Talus (R257 to R259) -/

def chunksOf (n : Nat) : Nat → Bytes → List Bytes
  | 0, _ => []
  | k + 1, b => b.take n :: chunksOf n k (b.drop n)

/-- The HIGH16 deltas of a 64-byte line: high byte minus the high byte of element 0, as numbers (R257;
notes/assumptions/9.md). -/
def high16Deltas (l : Bytes) : List Int :=
  (List.range 32).map (fun j => ((l.getD (2 * j + 1) 0#8).toNat : Int) - ((l.getD 1 0#8).toNat : Int))

/-- Mode and encoded bytes of a line: fewest bytes, ties to the lower mode (R258). -/
def talusLine (l : Bytes) : Nat × Bytes :=
  let nz := l.filter (· != 0#8)
  let ds := high16Deltas l
  let okH := ds.all (fun d => decide (-8 ≤ d) && decide (d ≤ 7))
  let maskLen := 8 + nz.length
  if nz.length = 0 then (0, [])
  else if maskLen ≤ 64 ∧ (¬ okH ∨ maskLen ≤ 49) then
    (1, toLe (packBits ((List.range 64).map (fun i => (i, b2n (l.getD i 0#8 != 0#8))))) 8 ++ nz)
  else if okH then
    (2, [l.getD 1 0#8] ++ toLe (packBits ((List.range 32).map (fun j => (4 * j, ((ds.getD j 0) % 16).toNat)))) 16 ++
      (List.range 32).map (fun j => l.getD (2 * j) 0#8))
  else (3, l)

/-- A 4,096-byte block as stored, and whether it is stored raw (R258). -/
def talusEncode (b : Bytes) : Bytes × Bool :=
  let lines := (chunksOf 64 64 b).map talusLine
  let hdr := toLe (packBits ((List.range 64).map (fun i => (2 * i, (lines.getD i (0, [])).1)))) 16
  let body := hdr ++ (lines.map (·.2)).flatten
  if body.length > 4032 then (b, true)
  else (body ++ List.replicate (64 * cdiv body.length 64 - body.length) 0#8, false)

/-- Decodes one line from the stream: its 64 bytes and the rest. -/
def talusDecLine (mode : Nat) (s : Bytes) : Bytes × Bytes :=
  match mode with
  | 0 => (List.replicate 64 0#8, s)
  | 1 =>
    let mask := leAt s 0 8
    let body := s.drop 8
    let out := (List.range 64).foldl (fun (acc : Bytes × Bytes) i =>
      if mask.testBit i then (acc.1 ++ [acc.2.headD 0#8], acc.2.drop 1) else (acc.1 ++ [0#8], acc.2)) ([], body)
    out
  | 2 =>
    let ref := s.headD 0#8
    let d := leAt s 1 16
    ((List.range 32).flatMap (fun j =>
      let x := (d / 16 ^ j) % 16
      let dv : Byte := if x ≥ 8 then BitVec.ofNat 8 (x + 240) else BitVec.ofNat 8 x
      [s.getD (17 + j) 0#8, ref + dv]), s.drop 49)
  | _ => (s.take 64, s.drop 64)

/-- Decodes a stored block of `len64` × 64 bytes: the 4,096 bytes, and whether the block is well formed (R264). -/
def talusDecode (s : Bytes) (raw : Bool) (crc : Nat) : Bytes × Bool :=
  if raw then (s.take 4096, decide (crc32 (s.take 4096) = crc))
  else
    let modes := leAt s 0 16
    let r := (List.range 64).foldl (fun (acc : Bytes × Bytes × Bool) i =>
      let mode := (modes / 4 ^ i) % 4
      let need := if mode = 0 then 0 else if mode = 1 then 8 + ((List.range 64).filter (fun j => (leAt acc.2.1 0 8).testBit j)).length
        else if mode = 2 then 49 else 64
      let x := talusDecLine mode acc.2.1
      (acc.1 ++ x.1, x.2, acc.2.2 && decide (need ≤ acc.2.1.length))) ([], s.drop 16, true)
    (r.1, r.2.2 && allZero r.2.1 && decide (crc32 r.1 = crc))

end Sys2Proof.Machine
end

