-- ==== Sys2Proof/Machine/MathFn.lean ====
section
/-!
DEFINITION. Machine/MathFn.lean: the correctly rounded functions 0x10 to 0x1B of R70 and R71. A value is enclosed between two
fixed-point bounds, and the working precision doubles until both bounds round to the same FP32 value.
-/
namespace Sys2Proof.Machine

/-- Bounds lo × 2^e and hi × 2^e on a real number. -/
structure Encl where
  lo : Int
  hi : Int
  e : Int
  deriving DecidableEq, Repr

def dyad (i : Int) (e : Int) : FVal := .fin (decide (i < 0)) i.natAbs e

/-- Fixed-point quotient of non-negative a by b at w fraction bits. -/
def fdiv (w a b : Nat) : Nat := a * 2 ^ w / b

/-- atanh z for a fixed-point z at w bits, |z| at most 1/2: the sum of z^(2i+1) / (2i+1). -/
def atanhSeries (w : Nat) (z : Int) : Int :=
  let z2 := z * z / (2 ^ w : Nat)
  let rec go : Nat → Nat → Int → Int → Int
    | 0, _, _, acc => acc
    | fuel + 1, i, p, acc =>
      if p.natAbs ≤ 1 then acc + p.tdiv (i : Int)
      else go fuel (i + 2) (p * z2 / (2 ^ w : Nat)) (acc + p.tdiv (i : Int))
  go (w + 4) 1 z 0

def ln2Fix (w : Nat) : Int := 2 * atanhSeries w ((2 ^ w : Nat) / 3 : Nat)

/-- arctan (1/n) at w bits. -/
def arctanInv (w n : Nat) : Int :=
  let rec go : Nat → Nat → Int → Int → Int
    | 0, _, _, acc => acc
    | fuel + 1, i, p, acc =>
      if p = 0 then acc
      else
        let t := p / (i : Int)
        go fuel (i + 2) (p / ((n * n : Nat) : Int)) (if i % 4 = 1 then acc + t else acc - t)
  go (w + 4) 1 (((2 ^ w : Nat) / n : Nat) : Int) 0

/-- π at w bits (Machin's formula). -/
def piFix (w : Nat) : Int := 16 * arctanInv w 5 - 4 * arctanInv w 239

/-- x = (-1)^neg m 2^e as a fixed-point number at w bits, rounded down. -/
def toFix (w : Nat) (v : FVal) : Int :=
  match v with
  | .fin n m e =>
    let k := e + (w : Int)
    let x : Int := if 0 ≤ k then ((m * 2 ^ k.toNat : Nat) : Int) else ((m / 2 ^ (-k).toNat : Nat) : Int)
    if n then -x else x
  | _ => 0

/-- The Taylor sum of exp r at w bits. -/
def expSeries (w : Nat) (r : Int) : Int :=
  let rec go : Nat → Nat → Int → Int → Int
    | 0, _, _, acc => acc
    | fuel + 1, i, p, acc =>
      if p.natAbs ≤ 1 then acc
      else
        let p' := p * r / (2 ^ w : Nat) / (i : Int)
        go fuel (i + 1) p' (acc + p')
  go (w + 4) 1 ((2 ^ w : Nat) : Int) ((2 ^ w : Nat) : Int)

/-- The Taylor sums of sin r (odd) and cos r (even) at w bits. -/
def sinCosSeries (w : Nat) (r : Int) : Int × Int :=
  let rec go : Nat → Nat → Int → Int → Int → Int × Int
    | 0, _, _, s, c => (s, c)
    | fuel + 1, i, p, s, c =>
      if p.natAbs ≤ 1 then (s, c)
      else
        let p' := p * r / (2 ^ w : Nat) / (i : Int)
        match i % 4 with
        | 1 => go fuel (i + 1) p' (s + p') c
        | 2 => go fuel (i + 1) p' s (c - p')
        | 3 => go fuel (i + 1) p' (s - p') c
        | _ => go fuel (i + 1) p' s (c + p')
  go (w + 4) 1 ((2 ^ w : Nat) : Int) 0 ((2 ^ w : Nat) : Int)

/-- Guard bits: an approximation at w bits is off by less than 2^guard units. -/
def guardBits : Nat := 24

def around (w : Nat) (x : Int) (k : Int) : Encl :=
  ⟨x - ((2 ^ guardBits : Nat) : Int), x + ((2 ^ guardBits : Nat) : Int), k - (w : Int)⟩

/-- exp of a fixed-point argument: a mantissa at w bits and an exponent. -/
def expFix (w : Nat) (x : Int) : Int × Int :=
  let l2 := ln2Fix w
  let k := (2 * x + l2) / (2 * l2)
  (expSeries w (x - k * l2), k)

/-- exp x as an enclosure; arguments beyond ±512 are replaced by a value with the same rounding. -/
def exEncl (w : Nat) (x : Int) : Encl :=
  if x > 512 * (2 ^ w : Nat) then ⟨1, 1, 700⟩
  else if x < -(512 * (2 ^ w : Nat) : Int) then ⟨1, 1, -700⟩
  else let r := expFix w x; around w r.1 r.2

/-- exp x as a plain fixed-point number at w bits, for x at most 0. -/
def expNeg (w : Nat) (x : Int) : Int :=
  if x < -((4 * w : Nat) : Int) * (2 ^ w : Nat) then 0
  else
    let r := expFix w x
    if 0 ≤ r.2 then r.1 * ((2 ^ r.2.toNat : Nat) : Int) else r.1 / ((2 ^ (-r.2).toNat : Nat) : Int)

/-- ln of a positive m × 2^e at w bits. -/
def lnFix (w m : Nat) (e : Int) : Int :=
  let bl := bitLen m
  let k : Int := e + (bl : Int)
  let f : Int := toFix w (.fin false m (-(bl : Int)))        -- in [1/2, 1)
  let big := decide (f * 3 < 2 * (2 ^ w : Nat))
  let f' := if big then 2 * f else f
  let k' := if big then k - 1 else k
  let one : Int := ((2 ^ w : Nat) : Int)
  k' * ln2Fix w + 2 * atanhSeries w ((f' - one) * one / (f' + one))

/-- sin and cos of an exact value at w bits, with reduction modulo π/2. -/
def sinCosFix (w : Nat) (v : FVal) : Int × Int :=
  let ex : Nat := match v with | .fin _ m e => (e + (bitLen m : Int)).toNat | _ => 0
  let w2 := w + ex + 8
  let x := toFix w2 v
  let hp := piFix w2 / 2
  let k := (2 * x + hp) / (2 * hp)
  let r := (x - k * hp) / ((2 ^ (w2 - w) : Nat) : Int)
  let sc := sinCosSeries w r
  match (k % 4).toNat with
  | 0 => (sc.1, sc.2)
  | 1 => (sc.2, -sc.1)
  | 2 => (-sc.1, -sc.2)
  | _ => (-sc.2, sc.1)

/-- One enclosure of function `code` at a finite argument, at w bits. -/
def enclose (code w : Nat) (v : FVal) : Encl :=
  let x := toFix w v
  let one : Int := ((2 ^ w : Nat) : Int)
  match code with
  | 0x10 => exEncl w x
  | 0x11 => if x > 600 * one then ⟨1, 1, 700⟩ else if x < -(600 * one) then ⟨1, 1, -700⟩
            else exEncl w (x * ln2Fix w / one)
  | 0x12 => match v with | .fin _ m e => around w (lnFix w m e) 0 | _ => ⟨0, 0, 0⟩
  | 0x13 => match v with | .fin _ m e => around w (lnFix w m e * one / ln2Fix w) 0 | _ => ⟨0, 0, 0⟩
  | 0x17 => around w (sinCosFix w v).1 0
  | 0x18 => around w (sinCosFix w v).2 0
  | 0x19 =>
    let a := expNeg w (-2 * x.natAbs)
    let t := (one - a) * one / (one + a)
    around w (if x < 0 then -t else t) 0
  | 0x1A =>
    let a := expNeg w (-(x.natAbs : Int))
    if x < 0 then
      (if x < -(512 * one) then ⟨1, 1, -700⟩
       else
        let r := expFix w x
        around w (r.1 * one / (one + a)) r.2)
    else around w (one * one / (one + a)) 0
  | 0x1B =>
    if x < -(512 * one) then ⟨1, 1, -700⟩
    else
      let a := expNeg w (-(x.natAbs : Int))
      let l := 2 * atanhSeries w (a * one / (2 * one + a))
      around w (if x < 0 then l else x + l) 0
  | _ => ⟨0, 0, 0⟩

/-- The working precisions tried in turn. -/
def precisions : List Nat := [96, 192, 384, 768, 1536]

/-- Rounds the function to FP32 as soon as both ends of an enclosure agree (R71). -/
def zivRound (code : Nat) (v : FVal) : List Nat → FVal × Flags
  | [] => (.nan, 0#8)
  | w :: ws =>
    let c := enclose code w v
    let a := convert 0 false (dyad c.lo c.e)
    let b := convert 0 false (dyad c.hi c.e)
    if a = b then (decodeElem 0 a.1, a.2)
    else match ws with
      | [] => (decodeElem 0 a.1, a.2)
      | _ => zivRound code v ws

/-- Integer square root, bit by bit. -/
def isqrtAux : Nat → Nat → Nat → Nat
  | 0, _, r => r
  | b + 1, n, r => if (r + 2 ^ b) * (r + 2 ^ b) ≤ n then isqrtAux b n (r + 2 ^ b) else isqrtAux b n r

def isqrt (n : Nat) : Nat := isqrtAux (bitLen n / 2 + 1) n 0

/-- Appends a sticky bit below a truncated magnitude, so that one rounding of it is the rounding of the exact value. -/
def sticky (neg : Bool) (m : Nat) (exact : Bool) (e : Int) : FVal := .fin neg (2 * m + b2n (!exact)) (e - 1)

/-- RECIP of a finite non-zero value. -/
def recipFin (neg : Bool) (m : Nat) (e : Int) : FVal :=
  let k := bitLen m + 40
  sticky neg (2 ^ k / m) (decide (2 ^ k % m = 0)) (-(k : Int) - e)

/-- SQRT of a positive finite value. -/
def sqrtFin (m : Nat) (e : Int) : FVal :=
  let k : Nat := 64 + (if e % 2 = 0 then 0 else 1)
  let n := m * 2 ^ k
  let r := isqrt n
  sticky false r (decide (r * r = n)) ((e - (k : Int)) / 2)

/-- RSQRT of a positive finite value: floor (sqrt (2^k / m)) with its sticky bit. -/
def rsqrtFin (m : Nat) (e : Int) : FVal :=
  let k : Nat := 2 * (bitLen m + 40) + (if e % 2 = 0 then 0 else 1)
  let r := isqrt (2 ^ k / m)
  sticky false r (decide (r * r * m = 2 ^ k)) (-((k : Int) + e) / 2)

/-- Whether a finite value is an integer, and which. -/
def asInt? : FVal → Option Int
  | .fin n m e =>
    if m = 0 then some 0
    else if 0 ≤ e then
      (if e < 200 then some (if n then -((m * 2 ^ e.toNat : Nat) : Int) else ((m * 2 ^ e.toNat : Nat) : Int)) else none)
    else
      if m % 2 ^ (-e).toNat = 0 then
        some (if n then -((m / 2 ^ (-e).toNat : Nat) : Int) else ((m / 2 ^ (-e).toNat : Nat) : Int))
      else none
  | _ => none

def produced (v : FVal) : FVal × Flags := (v, readFlags v)

/-- The functions 0x10 to 0x1B of an FP32 value (R70, R71). -/
def mathFn (code : Nat) (v : FVal) : FVal × Flags :=
  match v with
  | .nan => (.nan, Flags.nanSeen)
  | .inf n =>
    let r : FVal := match code with
      | 0x10 => if n then FVal.zero else .inf false
      | 0x11 => if n then FVal.zero else .inf false
      | 0x12 => if n then .nan else .inf false
      | 0x13 => if n then .nan else .inf false
      | 0x14 => .fin n 0 0
      | 0x15 => if n then .nan else .inf false
      | 0x16 => if n then .nan else FVal.zero
      | 0x19 => .fin n 1 0
      | 0x1A => if n then FVal.zero else FVal.one
      | 0x1B => if n then FVal.zero else .inf false
      | _ => .nan
    (r, Flags.infSeen ||| readFlags r)
  | .fin n m e =>
    if m = 0 then
      match code with
      | 0x10 => (FVal.one, 0#8)
      | 0x11 => (FVal.one, 0#8)
      | 0x12 => produced (.inf true)
      | 0x13 => produced (.inf true)
      | 0x14 => produced (.inf n)
      | 0x15 => (.fin n 0 0, 0#8)
      | 0x16 => produced (.inf n)
      | 0x17 => (.fin n 0 0, 0#8)
      | 0x18 => (FVal.one, 0#8)
      | 0x19 => (.fin n 0 0, 0#8)
      | 0x1A => (.fin false 1 (-1), 0#8)
      | _ => zivRound code v precisions
    else if n ∧ (code = 0x12 ∨ code = 0x13 ∨ code = 0x15 ∨ code = 0x16) then (.nan, Flags.nanSeen)
    else
      match code with
      | 0x11 =>
        match asInt? v with
        | some i => round32 (.fin false 1 (max (-1000) (min 1000 i)))
        | none => zivRound code v precisions
      | 0x12 => if v.eqv FVal.one then (FVal.zero, 0#8) else zivRound code v precisions
      | 0x13 =>
        if m = 2 ^ (bitLen m - 1) then round32 (FVal.ofInt (e + (bitLen m : Int) - 1))
        else zivRound code v precisions
      | 0x14 => round32 (recipFin n m e)
      | 0x15 => round32 (sqrtFin m e)
      | 0x16 => round32 (rsqrtFin m e)
      | _ => zivRound code v precisions

end Sys2Proof.Machine
end

