-- ==== Sys2Proof/Machine/Operands.lean ====
section
/-!
DEFINITION. Machine/Operands.lean: descriptor fields (R80 to R93), regions, element streams over scratchpad rows (R39, R66) and
the operand values the engines read (R43, R44, R49).
-/
namespace Sys2Proof.Machine

/-- A 64-byte descriptor as one little-endian number (R8). -/
abbrev Desc := Nat

/-- The field of a descriptor at a byte offset. -/
def Desc.fld (d : Desc) (off hi lo : Nat) : Nat := bitsOf d (8 * off + hi) (8 * off + lo)

def Desc.bit (d : Desc) (off i : Nat) : Bool := d.testBit (8 * off + i)

def Desc.kind (d : Desc) : Nat := d.fld 0 3 0
def Desc.fence (d : Desc) : Bool := d.bit 1 0
def Desc.cairn (d : Desc) : Bool := d.bit 1 1
def Desc.isEnd (d : Desc) : Bool := d.bit 1 2
def Desc.shadowOnly (d : Desc) : Bool := d.bit 1 3
def Desc.perStream (d : Desc) : Bool := d.bit 1 4
def Desc.opTag (d : Desc) : Nat := d.fld 2 15 0

/-- A run of whole scratchpad rows; a count of 0 means absent (R80). -/
structure Region where
  first : Nat
  rows : Nat
  deriving DecidableEq, Repr

def Desc.region (d : Desc) (off : Nat) : Region := ⟨d.fld off 15 0, d.fld off 31 16⟩

def Region.present (r : Region) : Bool := r.rows != 0
def Region.overlaps (a b : Region) : Bool :=
  a.present && b.present && decide (a.first < b.first + b.rows) && decide (b.first < a.first + a.rows)
def Region.contains (a : Region) (x : Nat) : Bool := decide (a.first ≤ x) && decide (x < a.first + a.rows)
def Region.within (a b : Region) : Bool := decide (b.first ≤ a.first) && decide (a.first + a.rows ≤ b.first + b.rows)

/-- A count field, scaled by the batch size when PER_STREAM is set (R80). -/
def Desc.scaled (d : Desc) (count batch : Nat) : Nat := if d.perStream then count * batch else count

/-- Rows as numbers: row r read as 512 little-endian bytes. -/
abbrev RowRead := Nat → Nat

/-- Element k of the stream of format fmt that begins at row `start` (R39). -/
def streamBits (fmt : Nat) (rd : RowRead) (start k : Nat) : Nat :=
  let e := elemsPerRow fmt
  let w := fmtWidth fmt
  (rd (start + k / e) / 2 ^ (w * (k % e))) % 2 ^ w

/-- Byte k of the run of rows that begins at row `start`. -/
def streamByte (rd : RowRead) (start k : Nat) : Nat := (rd (start + k / 512) / 2 ^ (8 * (k % 512))) % 256

/-- A little-endian number of n bytes at byte k of the run. -/
def streamLe (rd : RowRead) (start k : Nat) : Nat → Nat
  | 0 => 0
  | n + 1 => streamByte rd start k + 256 * streamLe rd start (k + 1) n

/-- The exact value of an element under an optional E8M0 scale, with the flags its reading sets (R43, R44). -/
def scaledElem (fmt : Nat) (scale : Option Nat) (bits : Nat) : FVal × Flags :=
  let v := decodeElem fmt bits
  match scale with
  | none => (v, readFlags v)
  | some x =>
    if x % 256 = 0xFF then (.nan, Flags.scaleNan ||| Flags.nanSeen)
    else
      let adj : Int := if fmt = 0xA then -6 else if fmt = 0xC then -2 else 0
      let r : FVal := match v with
        | .fin n m e => .fin n m (e + adj + ((x % 256 : Nat) : Int) - 127)
        | other => other
      (r, readFlags r)

/-- An operand of the vector or scan unit, widened to FP32 (R49). -/
def widen (fmt : Nat) (scale : Option Nat) (bits : Nat) : FVal × Flags :=
  let v := scaledElem fmt scale bits
  let r := round32 v.1
  (r.1, v.2 ||| r.2)

/-- The 512 bytes of a row that holds the given element patterns from element 0; bits past the last one are the free pad of the
descriptor, and bytes 504 to 511 of a row of 6-bit elements are zero (R40). -/
def packRow (d : Desc) (row fmt : Nat) (elems : List Nat) : Bytes :=
  let w := fmtWidth fmt
  let used := w * elems.length
  let x := elems.foldr (fun v acc => v % 2 ^ w + 2 ^ w * acc) 0
  let top := if w = 6 then 4032 else 4096
  if used ≥ top then toLe (x % 2 ^ top) 512
  else toLe (x + ((Config.rowPad d row).toNat % 2 ^ top) / 2 ^ used * 2 ^ used) 512

/-- Splits an element stream into the rows it fills, from row `start`. -/
def packStream (d : Desc) (fmt start : Nat) (elems : List Nat) : List (Nat × Bytes) :=
  let e := elemsPerRow fmt
  (List.range (cdiv elems.length e)).map (fun i => (start + i, packRow d (start + i) fmt ((elems.drop (i * e)).take e)))

/-- What an engine leaves: the rows it writes, the flags it raises, and for each output tile its number and the largest magnitude
(none when the tile holds no number) with whether it holds an infinity (R94, R95). -/
structure EngineOut where
  writes : List (Nat × Bytes)
  flags : Flags
  tiles : List (Nat × FVal)
  deriving DecidableEq, Repr

/-- The largest magnitude of the compared values of one tile; NaN is not compared (R95). -/
def tileMax (vs : List FVal) : FVal :=
  vs.foldl (fun acc v => if v.isNan then acc else FVal.max acc v.abs) FVal.zero

/-- Flags that the values of a tile set when they are checked (R95). -/
def tileFlags (bound : Nat) (vs : List FVal) : Flags :=
  let nan := vs.any FVal.isNan
  let inf := vs.any FVal.isInf
  let above := FVal.lt (ofF32 bound) (tileMax vs)
  (if nan then Flags.nanSeen else 0#8) ||| (if inf then Flags.infSeen else 0#8) ||| (if above then Flags.range else 0#8)

/-- Digest of a region: CRC-64 over its rows (R89) is taken by the check unit over these bytes. -/
def regionBytes (rd : RowRead) (r : Region) : Bytes := ((List.range r.rows).map (fun i => toLe (rd (r.first + i)) 512)).flatten

end Sys2Proof.Machine
end

