-- ==== Sys2Proof/Machine/VecUnit.lean ====
section
/-!
DEFINITION. Machine/VecUnit.lean: the vector unit: the functions of R70 to R73, row reductions (R52), quantisation (R45) and one
VEC descriptor (R69, R86).
-/
namespace Sys2Proof.Machine

/-- A value with the flags raised so far. -/
abbrev FV := FVal × Flags

def fv (v : FVal) : FV := (v, 0#8)

/-- A value that a descriptor carries (R70), read as an operand: an infinity or a NaN among them counts as read (R59), as the epilogue
values of a MATMUL do (notes/assumptions/49.md). -/
def immRead (v : FVal) : FV := (v, readFlags v)

/-- Rounds an exact result to FP32 and notes what was produced. -/
def r32 (v : FVal) (f : Flags) : FV :=
  let r := round32 v
  (r.1, f ||| r.2)

def fAdd (a b : FV) : FV := r32 (a.1.add b.1) (a.2 ||| b.2)
def fSub (a b : FV) : FV := r32 (a.1.add b.1.neg) (a.2 ||| b.2)
def fMul (a b : FV) : FV := r32 (a.1.mul b.1) (a.2 ||| b.2)
def fFma (a b c : FV) : FV := r32 ((a.1.mul b.1).add c.1) (a.2 ||| b.2 ||| c.2)
def fMath (code : Nat) (a : FV) : FV := let r := mathFn code a.1; (r.1, a.2 ||| r.2)

/-- Combines the lane results by the binary tree of R52; a position whose partner is empty passes its value up. -/
def treeLevel (op : FV → FV → FV) : List (Option FV) → List (Option FV)
  | [] => []
  | [x] => [x]
  | x :: y :: t =>
    (match x, y with
      | some a, some b => some (op a b)
      | some a, none => some a
      | none, b => b) :: treeLevel op t

/-- The row reduction of R52 over the elements in order. -/
def rowReduce (op : FV → FV → FV) (xs : List FV) : Option FV :=
  let n := xs.length
  let lane (l : Nat) : Option FV :=
    let idx := (List.range (cdiv n 256)).filterMap (fun j => xs[l + 256 * j]?)
    match idx with
    | [] => none
    | x :: t => some (t.foldl op x)
  let lanes := (List.range 256).map lane
  ((List.range 8).foldl (fun ls _ => treeLevel op ls) lanes).headD none

def rSum (xs : List FV) : FV := (rowReduce fAdd xs).getD (fv FVal.zero)
def rMax (xs : List FV) : FV := (rowReduce (fun a b => (a.1.max b.1, a.2 ||| b.2 ||| readFlags (a.1.max b.1))) xs).getD (fv FVal.zero)
def rMin (xs : List FV) : FV := (rowReduce (fun a b => (a.1.min b.1, a.2 ||| b.2 ||| readFlags (a.1.min b.1))) xs).getD (fv FVal.zero)
def rSumSq (xs : List FV) : FV := rSum (xs.map (fun x => fMul x x))

def allFlags (xs : List FV) : Flags := xs.foldl (fun a x => a ||| x.2) 0#8
def anyNan (xs : List FV) : Bool := xs.any (fun x => x.1.isNan)

def nanRow (n : Nat) (f : Flags) : List FV := List.replicate n (.nan, f ||| Flags.nanSeen)

/-- √(2/π) and 0.044715 as FP32 (R72). -/
def geluC0 : FVal := ofF32 0x3F4C422A
def geluC1 : FVal := ofF32 0x3D372713

def geluOf (a : FV) : FV :=
  let u := fMul a a
  let u := fMul a u
  let t := fFma (fv geluC1) u a
  let t := fMul (fv geluC0) t
  let h := fMath 0x19 t
  fMul (fMul (fv (.fin false 1 (-1))) a) (fAdd (fv FVal.one) h)

/-- SOFTMAX (R72). -/
def softmaxRow (a : List FV) : List FV :=
  let fl := allFlags a
  if anyNan a then nanRow a.length fl
  else
    let m := rMax a
    if m.1 = .inf true then List.replicate a.length (fv FVal.zero)
    else
      let e := a.map (fun x => fMath 0x10 (fSub x m))
      let s := rSum e
      let r := fMath 0x14 s
      e.map (fun x => fMul x r)

/-- RMSNORM (R72). Only a NaN of region A makes the whole row NaN; one of region B makes its own element NaN
(notes/assumptions/49.md). -/
def rmsnormRow (a g : List FV) (i0 i1 : FVal) : List FV :=
  if anyNan a then nanRow a.length (allFlags a ||| allFlags g)
  else
    let q := rSumSq a
    let r := fMath 0x16 (fFma q (immRead i0) (immRead i1))
    List.zipWith (fun x y => fMul (fMul x r) y) a g

/-- LAYERNORM (R72). Only a NaN of region A makes the whole row NaN; one of region B or C makes its own element NaN
(notes/assumptions/49.md). -/
def layernormRow (a g h : List FV) (i0 i1 : FVal) : List FV :=
  if anyNan a then nanRow a.length (allFlags a ||| allFlags g ||| allFlags h)
  else
    let mu := fMul (rSum a) (immRead i0)
    let x := a.map (fun v => fSub v mu)
    let r := fMath 0x16 (fFma (rSumSq x) (immRead i0) (immRead i1))
    List.zipWith (fun v gh => fFma (fMul v r) gh.1 gh.2) x (List.zip g h)

/-- ROPE over pairs (R72). -/
def ropeRow : List FV → List FV → List FV
  | a0 :: a1 :: ta, c :: s :: tb =>
    let p := fMul a1 s
    let q := fMul a1 c
    r32 ((a0.1.mul c.1).add p.1.neg) (a0.2 ||| c.2 ||| p.2) :: r32 ((a0.1.mul s.1).add q.1) (a0.2 ||| s.2 ||| q.2) :: ropeRow ta tb
  | _, _ => []

def argmaxRow (a : List FV) : FV :=
  if anyNan a then (FVal.zero, allFlags a ||| Flags.nanSeen)
  else
    let m := rMax a
    (FVal.ofInt ((a.findIdx (fun x => x.1.eqv m.1) : Nat) : Int), allFlags a)

/-- SAMPLE of one row (R73), from the seed, the position and the OP_TAG. Every sum that the procedure forms raises what its rounding
raises: the block sums, the total, and the running sums up to the one that ends the search. -/
def sampleRow (a : List FV) (seed pos opTag : Nat) : FV :=
  if anyNan a then (FVal.zero, allFlags a ||| Flags.nanSeen)
  else
    let w := philox (seed % 2 ^ 32, seed / 2 ^ 32 % 2 ^ 32) (pos % 2 ^ 32, pos / 2 ^ 32 % 2 ^ 8, opTag, 0)
    let u : FVal := .fin false (w / 256) (-24)
    let cl : List FV := a.map (fun x => if x.1.isNeg then (FVal.zero, x.2) else x)
    let nb := cdiv cl.length 256
    let blk (j : Nat) : List FV := (cl.drop (256 * j)).take 256
    let sums := (List.range nb).map (fun j => rSum (blk j))
    let total := match sums with | [] => fv FVal.zero | x :: t => t.foldl fAdd x
    let t := fMul (fv u) total
    let positive (x : FV) : Bool := FVal.lt FVal.zero x.1
    let lastPos (xs : List FV) : Option Nat :=
      ((List.range xs.length).filter (fun i => positive (xs.getD i (fv FVal.zero)))).getLast?
    -- first block whose running sum exceeds the target
    let find := (List.range nb).foldl (fun (st : Option FV × Option (Nat × Option FV)) j =>
      match st.2 with
      | some _ => st
      | none =>
        let s := sums.getD j (fv FVal.zero)
        let run := match st.1 with | none => s | some r => fAdd r s
        if FVal.lt t.1 run.1 then (st.1, some (j, st.1)) else (some run, none)) (none, none)
    let fl := allFlags a ||| total.2 ||| t.2
    match find.2 with
    | none => (FVal.ofInt (((lastPos cl).getD 0 : Nat) : Int), fl)
    | some (j, before) =>
      let xs := blk j
      let inner := (List.range xs.length).foldl (fun (st : Option FV × Option Nat) i =>
        match st.2 with
        | some _ => st
        | none =>
          let x := xs.getD i (fv FVal.zero)
          let run := match st.1 with | none => x | some r => fAdd r x
          if FVal.lt t.1 run.1 then (some run, some i) else (some run, none)) (before, none)
      let i := match inner.2 with | some i => i | none => (lastPos xs).getD 0
      (FVal.ofInt ((256 * j + i : Nat) : Int), fl ||| (inner.1.map (·.2)).getD 0#8)

/-- The INT32 index operations 0x40 to 0x46 (R51, R70). ICMPLT writes 1 or 0: the spec gives it no values
(notes/assumptions/49.md). -/
def indexOp (code : Nat) (a b : Int) : Int × Flags :=
  let clamp (x : Int) : Int × Flags :=
    if x < -2147483648 then (-2147483648, Flags.intSat) else if 2147483647 < x then (2147483647, Flags.intSat) else (x, 0#8)
  let ua := BitVec.ofInt 32 a
  let ub := BitVec.ofInt 32 b
  match code with
  | 0x40 => clamp (a + b)
  | 0x41 => clamp (a - b)
  | 0x42 => ((ua <<< (ub.toNat % 32)).toInt, 0#8)
  | 0x43 => ((ua.sshiftRight (ub.toNat % 32)).toInt, 0#8)
  | 0x44 => ((ua &&& ub).toInt, 0#8)
  | 0x45 => ((ua ||| ub).toInt, 0#8)
  | _ => (if a < b then 1 else 0, 0#8)

/-- One elementwise function of R70. Its immediates are read as operands are (notes/assumptions/49.md). -/
def elemFn (code : Nat) (a b c : FV) (i0 i1 : FVal) : FV :=
  let truth (x : Bool) : FV := (if x then FVal.one else FVal.zero, a.2 ||| b.2)
  if 0x10 ≤ code ∧ code ≤ 0x1B then fMath code a
  else match code with
  | 0x00 => a
  | 0x01 => fAdd a b
  | 0x02 => fSub a b
  | 0x03 => fMul a b
  | 0x04 => fFma a b c
  | 0x05 => (a.1.max b.1, a.2 ||| b.2)
  | 0x06 => (a.1.min b.1, a.2 ||| b.2)
  | 0x07 => (a.1.abs, a.2)
  | 0x08 => (a.1.neg, a.2)
  | 0x09 => fFma a (immRead i0) (immRead i1)
  | 0x0A => truth (FVal.lt a.1 b.1)
  | 0x0B => truth (a.1.eqv b.1)
  | 0x0C => if c.1.isZero then (b.1, a.2 ||| b.2 ||| c.2) else (a.1, a.2 ||| b.2 ||| c.2)
  | 0x20 => fMul a (fMath 0x1A a)
  | _ => geluOf a

/-- Whether a function code is one of R70. -/
def vecFuncOk (f : Nat) : Bool :=
  decide (f ≤ 0x0C) || (decide (0x10 ≤ f) && decide (f ≤ 0x1B)) || (decide (0x20 ≤ f) && decide (f ≤ 0x22)) ||
  (decide (0x30 ≤ f) && decide (f ≤ 0x33)) || (decide (0x38 ≤ f) && decide (f ≤ 0x3A)) ||
  (decide (0x40 ≤ f) && decide (f ≤ 0x46)) || f == 0x48 || f == 0x49

def isIndexFn (f : Nat) : Bool := decide (0x40 ≤ f) && decide (f ≤ 0x46)
/-- Functions that write one element per vector row (R86). -/
def isReduceFn (f : Nat) : Bool := (decide (0x30 ≤ f) && decide (f ≤ 0x33)) || f == 0x48 || f == 0x49
/-- Functions whose results are INT32 and not FP32 values, so that no bound is compared (R70, R82; notes/assumptions/11.md). -/
def isIntFn (f : Nat) : Bool := isIndexFn f || f == 0x48 || f == 0x49
def vecUsesB (f : Nat) : Bool :=
  f == 1 || f == 2 || f == 3 || f == 4 || f == 5 || f == 6 || f == 0xA || f == 0xB || f == 0xC || f == 0x22 || f == 0x39 ||
  f == 0x3A || isIndexFn f || f == 0x49
def vecUsesC (f : Nat) : Bool := f == 4 || f == 0xC || f == 0x3A

/-- Quantisation of one block of up to 32 values under R45: scale, element codes, flags. -/
def quantBlock (fmt : Nat) (vs : List FV) : Nat × List Nat × Flags :=
  let fl := allFlags vs
  let infF := if vs.any (fun v => v.1.isInf) then Flags.infSeen else 0#8
  if anyNan vs then (0xFF, vs.map (fun _ => 0), fl ||| Flags.nanSeen ||| infF)
  else
    let amax := (vs.filter (fun v => !v.1.isInf)).foldl (fun a v => FVal.max a v.1.abs) FVal.zero
    let emax : Int := match fmt with | 0x3 => 8 | 0x4 => 15 | 0x5 => 4 | 0x6 => 2 | 0x7 => 2 | _ => 0
    let x : Int := match amax with
      | .fin _ m e => if m = 0 then -127 else max (-127) (min 127 (e + (bitLen m : Int) - 1 - emax))
      | _ => -127
    let sc := (x + 127).toNat
    let unscale : FVal → FVal := fun v => match v with | .fin n m e => .fin n m (e - x) | o => o
    let one (v : FV) : Nat × Flags :=
      match v.1 with
      | .inf n =>
        if fmt = 0x4 then ((convert 4 false (.inf n)).1, Flags.infSeen)
        else if isIntFmt fmt then (encodeInt fmt (if n then -(intRange fmt).2 else (intRange fmt).2), Flags.infSeen ||| Flags.sat)
        else ((convert fmt true (.inf n)).1, Flags.infSeen ||| Flags.sat)
      | w =>
        if isIntFmt fmt then
          let u : FVal := match unscale w with | .fin n m e => .fin n m (e + (if fmt = 0xA then 6 else 2)) | o => o
          let i := match u with | .fin n m e => roundInt n m e | _ => 0
          let hi := (intRange fmt).2
          (encodeInt fmt (max (-hi) (min hi i)), 0#8)
        else ((convert fmt true (unscale w)).1, 0#8)
    let rs := vs.map one
    (if amax.isZero then 0 else sc, rs.map (·.1), fl ||| rs.foldl (fun a r => a ||| r.2) 0#8)

def blocksOf (n : Nat) (xs : List FV) : List (List FV) :=
  (List.range (cdiv xs.length n)).map (fun j => (xs.drop (n * j)).take n)

/-- The FP32 results of one vector row (R70 to R73). -/
def vecRow (d : Desc) (func n : Nat) (a b c : List FV) (ai bi : List Int) (rec16 : Nat × Nat) : List FV :=
  let i0 := ofF32 (d.fld 40 31 0)
  let i1 := ofF32 (d.fld 44 31 0)
  if isIndexFn func then
    (List.range n).map (fun i => let r := indexOp func (ai.getD i 0) (bi.getD i 0); (FVal.ofInt r.1, r.2))
  else match func with
  | 0x22 => ropeRow a b
  | 0x30 => [rSum a]
  | 0x31 => [rMax a]
  | 0x32 => [rMin a]
  | 0x33 => [rSumSq a]
  | 0x38 => softmaxRow a
  | 0x39 => rmsnormRow a b i0 i1
  | 0x3A => layernormRow a b c i0 i1
  | 0x48 => [argmaxRow a]
  | 0x49 => [sampleRow a rec16.1 rec16.2 d.opTag]
  | _ => (List.range n).map (fun i => elemFn func (a.getD i (fv FVal.zero)) (b.getD i (fv FVal.zero)) (c.getD i (fv FVal.zero)) i0 i1)

/-- One VEC descriptor over the rows the reader gives (R69, R86). Three points that the spec leaves open (notes/assumptions/49.md):
PACKED16 changes no result, and with a DST_FMT other than 0x1 or 0x2 the bit is ignored (R50, R69); an index function with DST_SCALE
0b10 and an INT8 or INT4 destination quantises its exact INT32 results (R45, R51); every operand is read before any result is
written (R64). -/
def runVec (d : Desc) (batch : Nat) (rd : RowRead) : EngineOut :=
  let func := d.fld 4 7 0
  let af := d.fld 5 3 0
  let bf := d.fld 5 7 4
  let cf := d.fld 6 3 0
  let df := d.fld 6 7 4
  let aScaled := d.fld 7 1 0 == 2
  let dScaled := d.fld 7 3 2 == 2
  let sat := d.bit 7 5
  let n := d.fld 8 31 0
  let rows := d.scaled (d.fld 12 15 0) batch
  let aReg := d.region 16
  let bReg := d.region 20
  let cReg := d.region 24
  let dReg := d.region 28
  let asReg := d.region 32
  let dsReg := d.region 36
  let per (fmt : Nat) := cdiv n (elemsPerRow fmt)
  let srows := cdiv (cdiv n 32) 512
  let bStart (r : Nat) := if d.bit 7 6 then bReg.first else bReg.first + r * per bf
  let cStart (r : Nat) := if d.bit 7 7 then cReg.first else cReg.first + r * per cf
  let elems (fmt start : Nat) : List FV := (List.range n).map (fun i => widen fmt none (streamBits fmt rd start i))
  let aElems (r : Nat) : List FV := (List.range n).map (fun i =>
    widen af (if aScaled then some (streamByte rd (asReg.first + r * srows) (i / 32)) else none)
      (streamBits af rd (aReg.first + r * per af) i))
  let ints (fmt start : Nat) : List Int := (List.range n).map (fun i => decodeInt fmt (streamBits fmt rd start i))
  let idx := isIndexFn func
  let out (r : Nat) : List FV :=
    vecRow d func n (if idx then [] else aElems r)
      (if vecUsesB func && !idx && func != 0x49 then elems bf (bStart r) else [])
      (if vecUsesC func then elems cf (cStart r) else [])
      (if idx then ints af (aReg.first + r * per af) else []) (if idx then ints bf (bStart r) else [])
      (if func == 0x49 then (streamLe rd bReg.first (16 * r) 8, streamLe rd bReg.first (16 * r + 8) 5) else (0, 0))
  let results := (List.range rows).map out
  let bound := d.fld 48 31 0
  let cv (x : FV) : Nat × Flags := convert df sat x.1
  let fl := results.foldl (fun a r => a ||| allFlags r) 0#8
  if isReduceFn func then
    let flat := results.flatten
    let e := elemsPerRow df
    let qs := if dScaled then (blocksOf 32 flat).map (quantBlock df) else []
    let cs := flat.map cv
    let ws := packStream d df dReg.first (if dScaled then qs.flatMap (fun b => b.2.1) else cs.map (·.1))
    let wf := if dScaled then qs.foldl (fun a b => a ||| b.2.2) 0#8 else cs.foldl (fun a c => a ||| c.2) 0#8
    let groups := (List.range ws.length).map (fun j => (j, ((flat.drop (j * e)).take e).map (·.1)))
    let checked := if isIntFn func then [] else groups
    { writes := ws ++ (if dScaled then packStream d 0xB dsReg.first (qs.map (·.1)) else []),
      flags := checked.foldl (fun a g => a ||| tileFlags bound g.2) (fl ||| wf),
      tiles := checked.map (fun g => (g.1, tileMax g.2)) }
  else
    let e := elemsPerRow df
    let pr := per df
    let perRow := (List.range rows).map (fun r =>
      let xs := results.getD r []
      if dScaled then
        let bs := (blocksOf 32 xs).map (quantBlock df)
        (packStream d df (dReg.first + r * pr) (bs.flatMap (fun b => b.2.1)) ++
          packStream d 0xB (dsReg.first + r * srows) (bs.map (·.1)), bs.foldl (fun a b => a ||| b.2.2) 0#8)
      else
        (packStream d df (dReg.first + r * pr) (xs.map (fun x => (cv x).1)), xs.foldl (fun a x => a ||| (cv x).2) 0#8))
    let groups := (List.range rows).flatMap (fun r =>
      (List.range pr).map (fun j => (r * pr + j, (((results.getD r []).drop (j * e)).take e).map (·.1))))
    let checked := if isIntFn func then [] else groups
    { writes := perRow.flatMap (·.1),
      flags := checked.foldl (fun a g => a ||| tileFlags bound g.2) (perRow.foldl (fun a p => a ||| p.2) fl),
      tiles := checked.map (fun g => (g.1, tileMax g.2)) }

end Sys2Proof.Machine
end

