-- ==== Sys2Proof/Machine/MatUnit.lean ====
section
/-!
DEFINITION. Machine/MatUnit.lean: the matrix engine: pairings and groups (R53), the accumulation of R54 to R56 in the order of
R64, layouts (R66, R67), epilogue and output tiles (R94, R95); and the elementwise sums of a REDUCE (R57).
-/
namespace Sys2Proof.Machine

def inFmts (l : List Nat) (f : Nat) : Bool := l.contains f

/-- Whether the matrix engine accepts a pairing (R53). -/
def matPairOk (a b : Nat) : Bool :=
  (inFmts [0x1, 0x2, 0xD] a && inFmts [0x1, 0x2, 0xD] b) ||
  (inFmts [0x7, 0xC] a && inFmts [0x7, 0xC] b) ||
  (inFmts [0x5, 0x6, 0x7, 0xC] a && inFmts [0x3, 0x4, 0x5, 0x6, 0xA, 0xB] b) ||
  (inFmts [0x5, 0x6, 0x7, 0xC] b && inFmts [0x3, 0x4, 0x5, 0x6, 0xA, 0xB] a) ||
  (inFmts [0x3, 0x4, 0xA, 0xB] a && inFmts [0x3, 0x4, 0xA, 0xB] b)

/-- The group size G of an accepted pairing (R53). -/
def groupSize (a b : Nat) : Nat :=
  if inFmts [0x1, 0x2, 0xD] a then 64
  else if inFmts [0x7, 0xC] a && inFmts [0x7, 0xC] b then 512
  else if inFmts [0x5, 0x6, 0x7, 0xC] a || inFmts [0x5, 0x6, 0x7, 0xC] b then 256
  else 128

/-- Whether the accumulator is INT32: both operands are unscaled integers (R53). -/
def intAcc (a b as bs : Nat) : Bool := inFmts [0xA, 0xB, 0xC] a && inFmts [0xA, 0xB, 0xC] b && as == 0 && bs == 0

/-- Weight rows and scale rows of one weight tile (R63, R65). -/
def tileW (a b : Nat) : Nat := cdiv (64 * groupSize a b) (elemsPerRow b)
def tileS (a b : Nat) : Nat := cdiv (64 * groupSize a b / 32) 512

/-- A running accumulator: its value and the flags so far. -/
def satInt32 (x : Int) : Int × Flags :=
  if x < -2147483648 then (-2147483648, Flags.intSat) else if 2147483647 < x then (2147483647, Flags.intSat) else (x, 0#8)

/-- Exact sum of products of pairs, with the flags of the operands (R54, R56, R164). -/
def xdotE (xs ys : List FV) : FVal × Flags :=
  (exactSum (List.zipWith (fun x y => x.1.mul y.1) xs ys), allFlags xs ||| allFlags ys)

/-- xdot rounded once (R164). -/
def xdot (xs ys : List FV) : FV := let r := xdotE xs ys; r32 r.1 r.2

/-- The fields of a MATMUL at a batch size. -/
structure MatDims where
  m : Nat
  n : Nat
  k : Nat
  af : Nat
  bf : Nat
  g : Nat
  groups : Nat
  int : Bool
  deriving DecidableEq, Repr

def matDims (d : Desc) (batch : Nat) : MatDims :=
  let af := d.fld 4 3 0
  let bf := d.fld 4 7 4
  let k := d.fld 12 15 0
  let g := groupSize af bf
  { m := d.scaled (d.fld 8 15 0) batch, n := d.fld 10 15 0, k := k, af := af, bf := bf, g := g, groups := cdiv k g,
    int := intAcc af bf (d.fld 5 1 0) (d.fld 5 3 2) }

/-- Element (m, k) of A with its scale (R66). -/
def matA (d : Desc) (x : MatDims) (rd : RowRead) (m k : Nat) : FV :=
  let s := if d.fld 5 1 0 = 1 then
      some (streamByte rd ((d.region 24).first + m * cdiv (cdiv x.k 32) 512) (k / 32)) else none
  scaledElem x.af s (streamBits x.af rd ((d.region 16).first + m * cdiv x.k (elemsPerRow x.af)) k)

/-- Element k of column n of B with its scale (R66). -/
def matB (d : Desc) (x : MatDims) (rd : RowRead) (n k : Nat) : FV :=
  let t := (n / 64) * x.groups + k / x.g
  let c := n % 64
  let kk := k % x.g
  let s := if d.fld 5 3 2 = 1 then
      some (streamByte rd ((d.region 28).first + t * tileS x.af x.bf) (c * (x.g / 32) + kk / 32)) else none
  scaledElem x.bf s (streamBits x.bf rd ((d.region 20).first + t * tileW x.af x.bf) (c * x.g + kk))

/-- The accumulator of one output element after all groups (R54, R55): as an FP32 value, or an INT32 value. -/
def matAcc (d : Desc) (x : MatDims) (rd : RowRead) (m n : Nat) : FV :=
  let accFmt := if x.int then 0x8 else 0x0
  let init : FV :=
    if d.bit 6 6 then
      let v := decodeElem accFmt (streamBits accFmt rd ((d.region 32).first + m * cdiv x.n (elemsPerRow accFmt)) n)
      (v, readFlags v)
    else fv FVal.zero
  (List.range x.groups).foldl (fun acc g =>
    let ks := (List.range (min x.g (x.k - g * x.g))).map (· + g * x.g)
    let s := xdotE (ks.map (matA d x rd m)) (ks.map (matB d x rd n))
    if x.int then
      let r := satInt32 (alignTo 0 (acc.1.add s.1))
      (FVal.ofInt r.1, acc.2 ||| s.2 ||| r.2)
    else
      let sr := r32 s.1 s.2
      r32 (acc.1.add sr.1) (acc.2 ||| sr.2)) init

/-- One MATMUL descriptor (R54, R64 to R68, R83). -/
def runMatmul (d : Desc) (batch : Nat) (rd : RowRead) : EngineOut :=
  let x := matDims d batch
  let dst := d.fld 6 3 0
  let sat := d.bit 6 4
  let bypass := d.bit 6 5
  let bias := d.region 40
  let s := ofF32 (d.fld 44 31 0)
  let bOf (n : Nat) : FVal := if bias.present then decodeElem 0 (streamBits 0 rd bias.first n) else ofF32 (d.fld 48 31 0)
  -- the compared FP32 value, the bits written, and the flags
  let elem (m n : Nat) : FVal × Nat × Flags :=
    let acc := matAcc d x rd m n
    if bypass then
      if x.int then ((round32 acc.1).1, encodeInt 0x8 (alignTo 0 acc.1), acc.2)
      else (acc.1, toF32 acc.1, acc.2)
    else
      let a := r32 acc.1 acc.2
      let b := bOf n
      let e := r32 ((a.1.mul s).add b) (a.2 ||| readFlags s ||| readFlags b)
      let c := convert dst sat e.1
      (e.1, c.1, e.2 ||| c.2)
  let dReg := d.region 36
  let rows := (List.range x.m).map (fun m => (List.range x.n).map (elem m))
  let bound := d.fld 52 31 0
  let ws := (List.range x.m).flatMap (fun m =>
    packStream d dst (dReg.first + m * cdiv x.n (elemsPerRow dst)) ((rows.getD m []).map (·.2.1)))
  let blocks := List.range (cdiv x.m 512)
  let tileVals := blocks.flatMap (fun rb => (List.range (cdiv x.n 64)).flatMap (fun p =>
    (List.range (cdiv (min 512 (x.m - rb * 512)) 64)).map (fun run =>
      let r0 := rb * 512 + run * 64
      ((rows.drop r0).take (min 64 (x.m - r0))).flatMap (fun row => ((row.drop (p * 64)).take 64).map (·.1)))))
  let tiles := (List.range tileVals.length).map (fun i => (i, tileMax (tileVals.getD i [])))
  { writes := ws,
    flags := tileVals.foldl (fun a t => a ||| tileFlags bound t) (rows.foldl (fun a r => r.foldl (fun b e => b ||| e.2.2) a) 0#8),
    tiles := tiles }

/-- The elementwise sum of contributions in ascending index (R57): element patterns, FP32 values compared, flags. -/
def reduceElems (fmt : Nat) (contribs : List Nat) : Nat × FVal × Flags :=
  match contribs with
  | [] => (0, FVal.zero, 0#8)
  | x :: t =>
    if fmt = 0x8 then
      let r := t.foldl (fun (a : Int × Flags) y => let z := satInt32 (a.1 + decodeInt 8 y); (z.1, a.2 ||| z.2)) (decodeInt 8 x, 0#8)
      (encodeInt 8 r.1, FVal.zero, r.2)
    else
      let v0 := decodeElem fmt x
      let r := t.foldl (fun (a : Nat × FV) y =>
        let w := decodeElem fmt y
        let c := convert fmt false (a.2.1.add w)
        (c.1, (decodeElem fmt c.1, a.2.2 ||| readFlags w ||| c.2))) (x, (v0, readFlags v0))
      (r.1, r.2.1, r.2.2)

/-- One result row of an all-reduce: the row's bytes, the flags and the largest magnitude (R57, R94). -/
def reduceRow (fmt bound : Nat) (rows : List Nat) : Bytes × Flags × FVal :=
  let w := fmtWidth fmt
  let es := (List.range (elemsPerRow fmt)).map (fun i => reduceElems fmt (rows.map (fun r => (r / 2 ^ (w * i)) % 2 ^ w)))
  let fl := es.foldl (fun a e => a ||| e.2.2) 0#8
  let vals := es.map (·.2.1)
  (toLe (es.foldr (fun e acc => e.1 + 2 ^ w * acc) 0) 512, if fmt = 0x8 then fl else fl ||| tileFlags bound vals, tileMax vals)

end Sys2Proof.Machine
end

