-- ==== Sys2Proof/Machine/AttnUnit.lean ====
section
/-!
DEFINITION. Machine/AttnUnit.lean: the ATTN operator: masks (R210), the online softmax of R211, NaN and empty rows (R213, R214)
and layouts (R215). The blocks come from the ring in slot order (R75, R199).
-/
namespace Sys2Proof.Machine

/-- One filled ring slot: which sequence and block it holds, the sequence's key count Lt, and its rows as numbers (R199). -/
structure RingSlot where
  seq : Nat
  blk : Nat
  lt : Nat
  rows : List Nat
  deriving DecidableEq, Repr

/-- Whether the key at position p is visible to a row at qp (R210). `bits` is the row's mask string as a number with `width` bits. -/
def attnVisible (mask win lt qp p : Nat) (bits width : Nat) : Bool :=
  decide (p < lt) &&
  match mask with
  | 0 => true
  | 1 => decide (p ≤ qp)
  | 2 => decide (p ≤ qp) && decide (qp < p + win)
  | 3 => decide (p ≤ qp) || decide (p < win)
  | _ => decide (p < width) && bits.testBit p

/-- The running statistics of one row (R211). -/
structure AttnStat where
  m : FVal
  l : FVal
  acc : List FVal
  deriving DecidableEq, Repr

/-- One block applied to one row: the visible keys and values in ascending position (R211). -/
def attnBlock (sm : FVal) (q : List FV) (st : AttnStat × Flags) (kv : List (List FV × List FV)) : AttnStat × Flags :=
  match kv with
  | [] => st
  | _ =>
    let sc := kv.map (fun p => fMul (xdot q p.1) (fv sm))
    let mn := sc.foldl (fun a x => FVal.max a x.1) st.1.m
    let a : FV := if st.1.m = .inf true then fv FVal.zero else fMath 0x10 (fSub (fv st.1.m) (fv mn))
    let e := sc.map (fun x => fMath 0x10 (fSub x (fv mn)))
    let l := r32 (exactSum (a.1.mul st.1.l :: e.map (·.1))) (a.2 ||| allFlags e)
    let acc := (List.range st.1.acc.length).map (fun n =>
      r32 (exactSum (a.1.mul (st.1.acc.getD n FVal.zero) ::
        List.zipWith (fun x p => x.1.mul (at1' p.2 n)) e kv)) 0#8)
    ({ m := mn, l := l.1, acc := acc.map (·.1) }, st.2 ||| l.2 ||| allFlags acc ||| allFlags sc)
where
  at1' (v : List FV) (n : Nat) : FVal := (v.getD n (fv FVal.zero)).1

def notFinite (v : FVal) : Bool := v.isNan || v.isInf

/-- All blocks of one row (R211, R214). -/
def attnRow (sm : FVal) (q : List FV) (st : AttnStat) (blocks : List (List (List FV × List FV))) : AttnStat × Flags :=
  let vis := blocks.flatten
  let vals := sm :: (q.map (·.1) ++ vis.flatMap (fun p => p.1.map (·.1) ++ p.2.map (·.1)))
  if vis.isEmpty then (st, 0#8)
  else if vals.any notFinite || st.m.isNan then
    ({ m := .nan, l := .nan, acc := st.acc.map (fun _ => .nan) },
      Flags.nanSeen ||| (if vals.any FVal.isInf then Flags.infSeen else 0#8))
  else blocks.foldl (attnBlock sm q) (st, 0#8)

/-- The normalised output and lse of a row (R211, R213, R214). -/
def attnFinal (st : AttnStat) : List FV × FV :=
  if st.m.isNan then (st.acc.map (fun _ => (.nan, Flags.nanSeen)), (.nan, Flags.nanSeen))
  else if st.m = .inf true then (st.acc.map (fun _ => fv FVal.zero), fv (.inf true))
  else
    let rc := fMath 0x14 (fv st.l)
    (st.acc.map (fun a => fMul (fv a) rc), fAdd (fv st.m) (fMath 0x12 (fv st.l)))

/-- Query rows of an ATTN. -/
def attnSeqs (d : Desc) (batch : Nat) : Nat := d.scaled (d.fld 12 15 0) batch

/-- One ATTN descriptor over the blocks its ring supplied (R85, R209 to R215). -/
def runAttn (d : Desc) (batch : Nat) (rd : RowRead) (slots : List RingSlot) : EngineOut :=
  let qf := d.fld 4 3 0
  let kf := d.fld 4 7 4
  let of' := d.fld 5 3 0
  let sat := d.bit 5 4
  let isFirst := d.bit 5 5
  let isFinal := d.bit 5 6
  let mask := d.fld 6 2 0
  let grp := d.fld 7 7 0
  let hd := d.fld 8 15 0
  let qrows := d.fld 10 15 0
  let seqs := attnSeqs d batch
  let blk := d.fld 14 15 0
  let sm := ofF32 (d.fld 44 31 0)
  let win := d.fld 48 31 0
  let kr := cdiv (blk * hd * (fmtWidth kf / 8)) 512
  let seqReg := d.region 24
  let stat := d.region 28
  let maskReg := d.region 40
  let mr := maskReg.rows / (seqs * qrows)
  let rt := seqs * qrows * grp
  let accBase := stat.first + cdiv rt 64
  let accRows := cdiv hd 128
  let qBase (tok : Nat) := (d.region 16).first + tok * cdiv (grp * hd) (elemsPerRow qf)
  let slotVec (sl : RingSlot) (half j : Nat) : List FV := (List.range hd).map (fun i =>
    fv (decodeElem kf (streamBits kf (fun r => sl.rows.getD r 0) (half * kr) (j * hd + i))))
  let rowOf (r : Nat) : AttnStat × Flags :=
    let tok := r / grp
    let g := r % grp
    let s := tok / qrows
    let t := tok % qrows
    let lc := streamLe rd seqReg.first (16 * (s * qrows) + 8) 4
    let bits := if mask = 4 then ((List.range mr).foldr (fun i acc => rd (maskReg.first + tok * mr + i) % 2 ^ 4096 + 2 ^ 4096 * acc) 0) else 0
    let q := (List.range hd).map (fun i => fv (decodeElem qf (streamBits qf rd (qBase tok) (g * hd + i))))
    let st : AttnStat :=
      if isFirst then { m := .inf true, l := FVal.zero, acc := List.replicate hd FVal.zero }
      else { m := ofF32 (streamLe rd stat.first (8 * r) 4), l := ofF32 (streamLe rd stat.first (8 * r + 4) 4),
             acc := (List.range hd).map (fun i => ofF32 (streamBits 0 rd (accBase + r * accRows) i)) }
    let blocks := (slots.filter (fun sl => sl.seq == s)).map (fun sl =>
      ((List.range blk).filter (fun j => attnVisible mask win sl.lt (lc + t) (sl.blk * blk + j) bits (mr * 4096))).map
        (fun j => (slotVec sl 0 j, slotVec sl 1 j)))
    attnRow sm q st blocks
  let stats := (List.range rt).map rowOf
  let fl0 := stats.foldl (fun a s => a ||| s.2) 0#8
  if isFinal then
    let fin := stats.map (fun s => attnFinal s.1)
    let outAt (r : Nat) : List FV := (fin.getD r ([], fv FVal.zero)).1
    let outReg := d.region 32
    let outs := (List.range (seqs * qrows)).map (fun tok =>
      let xs := ((List.range grp).flatMap (fun g => outAt (tok * grp + g))).map (fun x => convert of' sat x.1)
      (packStream d of' (outReg.first + tok * cdiv (grp * hd) (elemsPerRow of')) (xs.map (·.1)), xs.foldl (fun a c => a ||| c.2) 0#8))
    let lse := d.region 36
    let lses := if lse.present then packStream d 0 lse.first (fin.map (fun f => toF32 f.2.1)) else []
    let bound := d.fld 52 31 0
    let tv := (List.range seqs).map (fun s =>
      (s, (List.range (qrows * grp)).flatMap (fun i => (outAt (s * qrows * grp + i)).map (·.1))))
    { writes := outs.flatMap (·.1) ++ lses,
      flags := tv.foldl (fun a t => a ||| tileFlags bound t.2) (outs.foldl (fun a o => a ||| o.2)
        (fin.foldl (fun a f => a ||| allFlags f.1 ||| f.2.2) fl0)),
      tiles := tv.map (fun t => (t.1, tileMax t.2)) }
  else
    { writes := packStream d 0 stat.first (stats.flatMap (fun s => [toF32 s.1.m, toF32 s.1.l])) ++
        (List.range rt).flatMap (fun r => packStream d 0 (accBase + r * accRows)
          ((stats.getD r ({ m := .nan, l := .nan, acc := [] }, 0#8)).1.acc.map toF32)),
      flags := fl0, tiles := [] }

end Sys2Proof.Machine
end

