-- ==== Sys2Proof/Machine/Mem.lean ====
section
/-!
DEFINITION. Machine/Mem.lean: sparse memory as a list of (address, byte) pairs in one canonical form: addresses strictly
rising, and no entry equal to what an unlisted address reads as, which is zero (notes/assumptions/1.md, 2.md, 3.md).
-/
namespace Sys2Proof.Machine

abbrev Mem := List Host.Cell

/-- What an unlisted address reads as. -/
def Mem.blank : Byte := 0#8

/-- The canonical form. -/
abbrev Mem.wf (m : Mem) : Prop :=
  m.Pairwise (fun a b => a.1 < b.1) ∧ ∀ c ∈ m, c.2 ≠ Mem.blank

def Mem.read : Mem → Nat → Byte
  | [], _ => Mem.blank
  | (k, v) :: t, a => if k = a then v else Mem.read t a

/-- The `n` bytes at `a`. -/
def Mem.readN (m : Mem) (a n : Nat) : Bytes :=
  let cells := m.filter (fun c => decide (a ≤ c.1) && decide (c.1 < a + n))
  (List.range n).map (fun i => Mem.read cells (a + i))

/-- The cells of a byte string placed at `a`, zeros left out. -/
def Mem.cellsOf : Nat → Bytes → Mem
  | _, [] => []
  | a, b :: t => if b = Mem.blank then Mem.cellsOf (a + 1) t else (a, b) :: Mem.cellsOf (a + 1) t

/-- Writes a byte string at `a`. -/
def Mem.write (m : Mem) (a : Nat) (bs : Bytes) : Mem :=
  m.filter (fun c => decide (c.1 < a)) ++ (Mem.cellsOf a bs ++ m.filter (fun c => decide (a + bs.length ≤ c.1)))

/-- Makes the `n` bytes at `a` zero. -/
def Mem.clear (m : Mem) (a n : Nat) : Mem :=
  m.filter (fun c => decide (c.1 < a) || decide (a + n ≤ c.1))

/-- Copies the n bytes at `a` to `b`; the runs do not overlap. -/
def Mem.copy (m : Mem) (a b n : Nat) : Mem :=
  let run := (m.filter (fun c => decide (a ≤ c.1) && decide (c.1 < a + n))).map (fun c => (c.1 - a + b, c.2))
  m.filter (fun c => decide (c.1 < b)) ++ (run ++ m.filter (fun c => decide (b + n ≤ c.1)))

/-- Ranges of numbers, held as (first, count) pairs. -/
abbrev Ranges := List (Nat × Nat)

def Ranges.has (r : Ranges) (x : Nat) : Bool := r.any (fun p => decide (p.1 ≤ x) && decide (x < p.1 + p.2))

/-- Takes one number out of a set of ranges. -/
def Ranges.remove : Ranges → Nat → Ranges
  | [], _ => []
  | (a, n) :: t, x =>
    if a ≤ x ∧ x < a + n then
      (if a < x then [(a, x - a)] else []) ++ (if x + 1 < a + n then [(x + 1, a + n - (x + 1))] else []) ++ Ranges.remove t x
    else (a, n) :: Ranges.remove t x

/-- Takes a run of numbers out of a set of ranges. -/
def Ranges.removeRun : Ranges → Nat → Nat → Ranges
  | [], _, _ => []
  | (a, n) :: t, x, k =>
    (if a < min x (a + n) then [(a, min x (a + n) - a)] else []) ++
    (if max (x + k) a < a + n then [(max (x + k) a, a + n - max (x + k) a)] else []) ++ Ranges.removeRun t x k

def Ranges.addRun (r : Ranges) (x k : Nat) : Ranges := if k = 0 then r else Ranges.removeRun r x k ++ [(x, k)]

/-- The numbers below `top` that lie in none of the ranges, as ranges. -/
def Ranges.compl (r : Ranges) (top : Nat) : Ranges := r.foldl (fun acc p => Ranges.removeRun acc p.1 p.2) [(0, top)]

end Sys2Proof.Machine
end

