-- ==== Sys2Proof/Machine/CoreState.lean ====
section
/-!
DEFINITION. Machine/CoreState.lean: logical cores, their sequencers and descriptors in flight (R62, R74, R78, R91, R95, R148),
physical carriers and scratchpads (R62, R98, R107, R459), the Rope (R111 to R116) and the collective engine (R119 to R126).
-/
namespace Sys2Proof.Machine

/-- The cause of a step fault (R77, R159, R437): class, status, logical core, descriptor index and OP_TAG. -/
structure FaultRec where
  cls : BitVec 4
  status : BitVec 8
  core : Nat
  desc : Nat
  tag : Nat
  deriving DecidableEq, Repr

/-- The first tile that set RANGE in a step (R95): magnitude as FP32 bits. -/
structure RangeRec where
  desc : Nat
  tag : Nat
  tile : Nat
  mag : Nat
  deriving DecidableEq, Repr

/-- The side of a piece of a MOVE other than the LOCAL one. A category is that of R446: 0 a DEVICE access, 1 KV, 2 STATE, 3 a host window, 9
none. -/
inductive PieceSide where
  /-- Bytes of the context's device range, inside one tile. -/
  | dev (addr cat : Nat)
  /-- Ridge blocks from a device address on, inside one tile, each expanded to 256 bytes (R253). -/
  | ridge (addr blocks : Nat)
  /-- One request of an access to a host window; the flag tells the last one of the access (R118). -/
  | win (id off cat : Nat) (last : Bool)
  /-- Bytes of another logical core's scratchpad. -/
  | peer (core addr : Nat)
  /-- Bytes of the same core's scratchpad (LOCAL to LOCAL). -/
  | own (addr : Nat)
  /-- Bytes that read zero without an access, under no violation (R177, R199). -/
  | zero (addr cat : Nat)
  /-- A violating piece: its kind under R421, its window, and its address. -/
  | bad (kind win addr cat : Nat)
  /-- The MOVE waits here while the ring slot that comes next is full (R75). -/
  | slotWait
  /-- The ring slot at a row is full: its sequence, its block and the key count of the sequence (R75, R199). -/
  | slotEnd (seq blk lt row : Nat)
  deriving DecidableEq, Repr

/-- One piece of a MOVE: where it lies in the LOCAL run (scratchpad byte address), its length, and its other side. -/
structure Piece where
  loc : Nat
  len : Nat
  side : PieceSide
  deriving DecidableEq, Repr

/-- How far a MOVE has come: the pieces to do, those whose answers are awaited, the pins it holds as (segment, tile) (R231), and
whether its violation entry has been written (R224). -/
structure MoveProg where
  loads : Bool
  pieces : List Piece
  out : Nat
  pins : List (Nat × Nat)
  viol : Bool
  deriving DecidableEq, Repr

/-- A descriptor in flight (R74): rows it will write when it completes, remote writes not yet acknowledged, and what it waits for. -/
structure InFlight where
  idx : Nat
  desc : Desc
  writes : List (Nat × Bytes)
  acks : Nat
  /-- A condition outside the core is still awaited: a done flit, a read answer, a digest slot. -/
  waits : Bool
  move : Option MoveProg
  /-- Flits of a contribution that wait for room in the collector's buffer (R120). -/
  send : List (Nat × Bytes)
  /-- Halves of result rows that have landed without their other half, by flit of DST_REG (R104, R111). -/
  halves : AList Bytes
  deriving DecidableEq, Repr

/-- The sequencer of a logical core while it runs a step. -/
structure Seqr where
  step : Nat
  /-- Index of the next descriptor to issue. -/
  idx : Nat
  stream : List Desc
  inflight : List InFlight
  flags : Flags
  range : Option RangeRec
  batch : Nat
  started : Bool
  stopped : Bool
  ended : Bool
  fault : Option FaultRec
  deriving DecidableEq, Repr

/-- A Cairn record in a core's buffer (R424): the context, the window and the place it goes to, and its bytes. -/
structure CairnRec where
  ctx : Nat
  win : Nat
  off : Nat
  data : Bytes
  deriving DecidableEq, Repr

/-- A logical core: its carrier (15 for none), Belay counters above 0, full digest slots, its sequencer, the ring slots filled and not
yet emptied with the ring they lie in, and its Cairn buffer. A digest slot holds its sender × 2^64 + the digest. -/
structure LCore where
  carrier : BitVec 4
  counters : AList Nat
  slots : AList Nat
  seqr : Option Seqr
  rings : AList (List RingSlot)
  cairn : List CairnRec
  deriving DecidableEq, Repr

def LCore.fresh (n : Nat) : LCore :=
  { carrier := BitVec.ofNat 4 n, counters := [], slots := [], seqr := none, rings := [], cairn := [] }

/-- A physical core: its scratchpad bytes by row × 512 + byte, scrub-pending rows, and its state of life. -/
structure PCore where
  mem : Mem
  scrub : Ranges
  lastCtx : Option Nat
  halted : Bool
  forwardOnly : Bool
  outOfService : Bool
  /-- Power-domain STATE: 0 ON, 1 GATING, 2 OFF, 3 UNGATING (R475). -/
  dom : BitVec 2
  pendEn : Bool
  gateCnt : BitVec 16
  /-- Moment of the last dispatch, in microseconds of the tile timer (R459). -/
  lastUse : Nat
  testing : Bool
  /-- Moments of CORE-class and CHECK-class faults (R442). -/
  coreFaults : List Nat
  checkFaults : List Nat
  deriving DecidableEq, Repr

def PCore.fresh (spare : Bool) : PCore :=
  { mem := [], scrub := [], lastCtx := none, halted := false, forwardOnly := spare, outOfService := false, dom := 0, pendEn := false,
    gateCnt := 0, lastUse := 0, testing := false, coreFaults := [], checkFaults := [] }

def scratchRows : Nat := 49152

/-- Row r of a scratchpad as a number: a scrub-pending row reads zero (R107). -/
def PCore.row (p : PCore) (r : Nat) : Nat := if Ranges.has p.scrub r then 0 else leAt (p.mem.readN (r * 512) 512) 0 512

/-- A wide write of a row (R104, R107). -/
def PCore.writeRow (p : PCore) (r : Nat) (b : Bytes) : PCore :=
  { p with mem := p.mem.write (r * 512) (fixLen 512 b), scrub := Ranges.remove p.scrub r }

def PCore.writeRows (p : PCore) (ws : List (Nat × Bytes)) : PCore := ws.foldl (fun q w => q.writeRow w.1 w.2) p

/-- A narrow write of one 8-byte word (R105, R107). -/
def PCore.writeWord (p : PCore) (r w : Nat) (b : Bytes) : PCore :=
  let p1 : PCore := if Ranges.has p.scrub r then { p with mem := p.mem.clear (r * 512) 512, scrub := Ranges.remove p.scrub r } else p
  { p1 with mem := p1.mem.write (r * 512 + 8 * w) (fixLen 8 b) }

/-- The n bytes at a scratchpad byte address; rows that await scrub read zero (R107). -/
def PCore.readBytes (p : PCore) (a n : Nat) : Bytes :=
  ((List.range n).zip (p.mem.readN a n)).map (fun x => if Ranges.has p.scrub ((a + x.1) / 512) then 0#8 else x.2)

/-- Bytes of a transfer land. The wide view writes whole rows and nothing smaller (R104): each row that the bytes touch is written whole,
as it stands with the bytes laid over it; a row that awaits scrub is zero around them (R107). -/
def PCore.writeBytes (p : PCore) (a : Nat) (b : Bytes) : PCore :=
  if b.isEmpty then p
  else
    let first := a / 512
    let rows := (a + b.length - 1) / 512 + 1 - first
    let before := p.readBytes (first * 512) (a - first * 512)
    let after := p.readBytes (a + b.length) ((first + rows) * 512 - (a + b.length))
    { p with mem := p.mem.write (first * 512) (before ++ (b ++ after)), scrub := Ranges.removeRun p.scrub first rows }

/-- Marks a run of rows scrub-pending (R107). -/
def PCore.markScrub (p : PCore) (first n : Nat) : PCore := { p with scrub := Ranges.addRun p.scrub first n }

def chanCode : Chan → Nat
  | .req => 0 | .rsp => 1 | .col => 2

/-- Receive-buffer size of a channel (R112). -/
def chanDepth : Chan → Nat
  | .req => 8 | .rsp => 8 | .col => 16

/-- What a flit carries. Cores are logical; scratchpad places are byte addresses. -/
inductive Msg where
  | peerWrite (dst addr : Nat) (data : Bytes) (frm desc : Nat)
  | peerRead (dst addr len frm desc loc : Nat)
  | readData (dst desc loc : Nat) (data : Bytes)
  | ack (dst desc : Nat)
  | belay (dst token step : Nat)
  | digest (dst slot value frm desc : Nat)
  /-- A flit of a contribution, half a row, with the participants that took a copy as it passed (R119). -/
  | contrib (step coll frm flit : Nat) (data : Bytes) (taken : List Nat)
  /-- A flit for a participant: the core whose contribution it is or 8 for a sum, where it lands in DST_REG, counted in flits, and the flags that
  its sum raised (R57, R122). -/
  | result (step coll dst frm place : Nat) (data : Bytes) (flags : Flags)
  | report (step coll frm : Nat)
  | done (step coll dst : Nat)
  | stepDone (step frm : Nat) (flags : Flags)
  /-- Window bytes that a MOVE writes; the flag tells the last request of its access (R118, R380). -/
  | hostWrite (frm desc win off : Nat) (data : Bytes) (cat : Nat) (last : Bool)
  | hostRead (frm desc loc win off len : Nat)
  deriving DecidableEq, Repr

/-- A flit on its way: source and destination stations, channel, ring (false A, true B) and direction (true ascending). -/
structure Flit where
  src : Nat
  dst : Nat
  chan : Chan
  ringB : Bool
  asc : Bool
  msg : Msg
  deriving DecidableEq, Repr

/-- The Rope (R111 to R113). Keys: lane key = ((station × 2 + direction) × 2 + ring) × 3 + channel. -/
structure Rope where
  /-- Flits waiting to be injected at a station, by lane key. -/
  inject : AList (List Flit)
  /-- Receive buffers of a station for the lane that ends there. -/
  bufs : AList (List Flit)
  /-- Credits used at a station for the lane that leaves it, and credits on their way back. -/
  used : AList Nat
  returning : AList Nat
  /-- Grants a station's lane gave to forwarded flits while an injection waited (R29). -/
  ages : AList Nat
  /-- Messages that have landed and await the event that acts on them. -/
  landed : List Msg
  deriving DecidableEq, Repr

def Rope.fresh : Rope := { inject := [], bufs := [], used := [], returning := [], ages := [], landed := [] }

/-- A collective under way in a collector slot (R120 to R125): the contribution flits that the collector holds, by core and flit, the result
rows summed so far, and the participants whose checks have passed. -/
structure CollSlot where
  step : Nat
  coll : Nat
  op : Nat
  fmt : Nat
  members : List Nat
  rows : Nat
  contribs : AList (AList Bytes)
  formed : Nat
  reports : List Nat
  deriving DecidableEq, Repr

/-- The done latches of a running step (R126). -/
structure Latch where
  cores : List Nat
  set : List Nat
  flags : Flags
  deriving DecidableEq, Repr

/-- The collective engine and the counters of R128: slots, latches, steps ready to commit, the step granted last (R120), the collectives
granted to each step, and the contributions and results retransmitted once, as (step, collective, receiver, contributor or 8 for a result); receiver 8 is the
collector (R124). -/
structure Coll where
  slots : List CollSlot
  latches : AList Latch
  ready : List Nat
  turn : Nat
  granted : AList (List Nat)
  retried : List (Nat × Nat × Nat × Nat)
  retryCnt : BitVec 8
  failCnt : BitVec 8
  deriving DecidableEq, Repr

def Coll.fresh : Coll := { slots := [], latches := [], ready := [], turn := 0, granted := [], retried := [], retryCnt := 0, failCnt := 0 }

end Sys2Proof.Machine
end

