-- ==== Sys2Proof/Machine/HostState.lean ====
section
/-!
DEFINITION. Machine/HostState.lean: event registers (R10), the host-facing state: mailboxes, admin queues, queue pairs, fetched
commands, host reads under way, the link, MSI-X vectors and log rings (R329 to R361, R419).
-/
namespace Sys2Proof.Machine

def hostReadOk : HostRead → Bool
  | .ok _ => true
  | _ => false

def hostReadBytes : HostRead → Bytes
  | .ok b => b
  | _ => []

/-- A write-one-to-clear event register: each set bit with the number of mailbox arrivals that preceded its event (R10). -/
abbrev EvReg := List (Nat × Nat)

/-- Sets a bit at a moment given by the arrivals so far. -/
def EvReg.raise (e : EvReg) (bit now : Nat) : EvReg := (bit, now) :: e.filter (fun p => p.1 != bit)

/-- A write of ones that arrived as number k clears the bits whose event came before it (R10). -/
def EvReg.clear (e : EvReg) (ones k : Nat) : EvReg := e.filter (fun p => !(ones.testBit p.1 && decide (p.2 < k)))

/-- The value a read returns. -/
def EvReg.value (e : EvReg) : Nat := e.foldl (fun a p => a ||| 2 ^ p.1) 0

def EvReg.isSet (e : EvReg) (bit : Nat) : Bool := e.any (fun p => p.1 == bit)

/-- A 4-byte control-window write in a mailbox, with its arrival number (R338). -/
structure MboxEntry where
  off : Nat
  val : Word
  stamp : Nat
  deriving DecidableEq, Repr

/-- A control-window read held until the writes before it have drained (R339). -/
structure HeldRead where
  off : Nat
  size : Nat
  stamp : Nat
  deriving DecidableEq, Repr

/-- A completion waiting in the one-entry slot (R23): CID, status, result and whether it sends a message. -/
structure HeldCpl where
  cid : Nat
  status : BitVec 8
  result : Bytes
  irq : Bool
  deriving DecidableEq, Repr

/-- An admin queue pair (R344, R361). -/
structure AdminQ where
  sqBase : BitVec 64
  cqBase : BitVec 64
  depthM1 : BitVec 16
  enable : Bool
  running : Bool
  error : Bool
  cause : BitVec 2
  sqHead : Nat
  sqTail : Nat
  cqHead : Nat
  cqTail : Nat
  phase : Bool
  held : List HeldCpl
  /-- Moment since which an entry has been waiting to be fetched (R29). -/
  since : Nat
  deriving DecidableEq, Repr

def AdminQ.fresh : AdminQ :=
  { sqBase := 0, cqBase := 0, depthM1 := 0, enable := false, running := false, error := false, cause := 0, sqHead := 0, sqTail := 0,
    cqHead := 0, cqTail := 0, phase := true, held := [], since := 0 }

/-- An MSI-X vector (R330, R359). -/
structure Vector' where
  addr : BitVec 64
  data : BitVec 32
  masked : Bool
  pend : Bool
  deriving DecidableEq, Repr

def Vector'.fresh : Vector' := { addr := 0, data := 0, masked := true, pend := false }

/-- A function's log ring (R419). -/
structure LogRing where
  base : Nat
  depth : Nat
  pasid : Option Nat
  deriving DecidableEq, Repr

/-- One function: the PF is number 0 and VF n is number n (R330). -/
structure Func where
  mbox : List MboxEntry
  reads : List HeldRead
  ctxSel : BitVec 12
  queueSel : BitVec 15
  admin : AdminQ
  dbDrop : BitVec 16
  winDrop : BitVec 15
  overflow : EvReg
  /-- The LSN of the next log entry (R419). -/
  lsn : BitVec 64
  ring : Option LogRing
  logDrop : BitVec 32
  vectors : AList Vector'
  deriving DecidableEq, Repr

def Func.fresh : Func :=
  { mbox := [], reads := [], ctxSel := 0, queueSel := 0, admin := AdminQ.fresh, dbDrop := 0, winDrop := 0,
    overflow := [], lsn := 0, ring := none, logDrop := 0, vectors := [] }

/-- Queue states of R347 other than NONE. -/
inductive QState where
  | active | error | deleting
  deriving DecidableEq, Repr

/-- A queue pair (R344). -/
structure Queue where
  ctx : Nat
  depth : Nat
  pasid : Option Nat
  sqBase : Nat
  cqBase : Nat
  vector : Nat
  state : QState
  cause : BitVec 2
  sqHead : Nat
  sqTail : Nat
  cqHead : Nat
  cqTail : Nat
  phase : Bool
  held : List HeldCpl
  /-- Creation ordinal within the context (R444). -/
  ordinal : Nat
  /-- Moment since which an entry has been waiting to be fetched (R29). -/
  since : Nat
  deriving DecidableEq, Repr

/-- Where a command came from. -/
inductive QRef where
  | admin (func : Nat)
  | pair (qid : Nat)
  deriving DecidableEq, Repr

/-- A copy of bytes that F1 makes from one device address to another (R196, R205): what it has read, and whether that read is under way on the
link. -/
structure Copy where
  src : Nat
  dst : Nat
  len : Nat
  got : Option Bytes
  asked : Bool
  deriving DecidableEq, Repr

/-- Copies still to make, the pins they hold as (segment, tile) (R231), and whether a host read of one has failed (R358). -/
structure CopyJob where
  copies : List Copy
  pins : List (Nat × Nat)
  failed : Bool
  deriving DecidableEq, Repr

def CopyJob.none : CopyJob := { copies := [], pins := [], failed := false }

/-- How far a fetched command has come (R183, R346). -/
inductive CmdStage where
  | fetched
  | deferred
  | running
  deriving DecidableEq, Repr

/-- A fetched command: its place in the fetch order, its queue and function, its context, its entry and how far it has come. -/
structure Cmd where
  fid : Nat
  q : QRef
  func : Nat
  ctx : Option Nat
  entry : Bytes
  stage : CmdStage
  /-- Its COMMAND record stands in a replay capture (R445). -/
  recorded : Bool
  /-- The copies that a KV_SEQ_FORK makes, and the copy that each saturated entry will name (R196). -/
  job : CopyJob := CopyJob.none
  fork : Option (List (Nat × Nat)) := none
  deriving DecidableEq, Repr

/-- For whom a host read is made: a request of a MOVE (R118), a unit of a bounce window that requests of a MOVE touch (R379), or a copy that F1
makes for a step or for a fork (R196, R205, R222). -/
inductive ReadFor where
  | request (core desc loc : Nat)
  | unit (core desc : Nat)
  | copy (step index : Nat)
  | fork (fid index : Nat)
  deriving DecidableEq, Repr

/-- A host read under way (R118, R357): for whom, its context, the window and payload offset it reads, the bytes of it inside the window, its
whole length, and what each of its requests has brought. A bounce window is read by whole units (R379). -/
structure LinkRead where
  who : ReadFor
  ctx : Nat
  win : Nat
  off : Nat
  good : Nat
  len : Nat
  parts : List (Option Bytes)
  deriving DecidableEq, Repr

/-- A read request on the link (R357): the read it belongs to, its place among the requests of that read, and its length. -/
structure Tlp where
  read : Nat
  part : Nat
  len : Nat
  deriving DecidableEq, Repr

/-- A request of a MOVE that waits at the host interface for units of a bounce window (R118, R379). -/
structure Ask where
  core : Nat
  desc : Nat
  loc : Nat
  win : Nat
  off : Nat
  len : Nat
  deriving DecidableEq, Repr

/-- The payload of a unit that was fetched for a MOVE and whose tag was right (R379). -/
structure OpenedUnit where
  core : Nat
  desc : Nat
  win : Nat
  unit : Nat
  data : Bytes
  deriving DecidableEq, Repr

/-- Payload that a MOVE has written to units that are not yet sealed, from a unit's start on (R380). -/
structure SealBuf where
  core : Nat
  desc : Nat
  win : Nat
  off : Nat
  data : Bytes
  deriving DecidableEq, Repr

/-- States of a UCIe module (R332, R333). -/
inductive ModState where
  | up | repairing | degraded | down
  deriving DecidableEq, Repr

def ModState.code : ModState → Nat
  | .up => 0 | .repairing => 1 | .degraded => 2 | .down => 3

structure LinkModule where
  state : ModState
  spares : BitVec 3
  /-- x32 width in use, kept while the module repairs. -/
  narrow : Bool
  deriving DecidableEq, Repr

/-- The UCIe link and its encryption (R329 to R336, R365). -/
structure Link where
  up : Bool
  rate : BitVec 3
  m0 : LinkModule
  m1 : LinkModule
  ideEnabled : Bool
  ideSecure : Bool
  ideKeys : Bytes
  /-- The SPDM session open on the DOE mailbox: its kind (1 identity, 2 pre-shared key) and its secret (R365). -/
  spdm : Option (Nat × Bytes)
  timeoutCnt : BitVec 16
  poisonCnt : BitVec 16
  /-- Read requests on the link, by tag (R330). -/
  tags : AList Tlp
  /-- Host reads under way, and the number of the next. -/
  reads : AList LinkRead
  nextRead : Nat
  asks : List Ask
  units : List OpenedUnit
  seals : List SealBuf
  /-- Max payload size in bytes: 128, 256 or 512 (R330). -/
  mps : Nat
  deriving DecidableEq, Repr

def Link.fresh : Link :=
  { up := true, rate := 0, m0 := { state := .up, spares := 4, narrow := false }, m1 := { state := .up, spares := 4, narrow := false },
    ideEnabled := false, ideSecure := false, ideKeys := [], spdm := none, timeoutCnt := 0, poisonCnt := 0, tags := [],
    reads := [], nextRead := 0, asks := [], units := [], seals := [], mps := 128 }

/-- Whether a host read is made for a step that runs on some cores. -/
def ReadFor.ofStep (step : Nat) (cores : List Nat) : ReadFor → Bool
  | .request c _ _ => cores.contains c
  | .unit c _ => cores.contains c
  | .copy n _ => n == step
  | .fork _ _ => false

/-- Whether a host read is made for one MOVE. -/
def ReadFor.ofMove (core desc : Nat) : ReadFor → Bool
  | .request c d _ => c == core && d == desc
  | .unit c d => c == core && d == desc
  | _ => false

/-- Gives up host reads, and what the host interface holds for the descriptors they were made for; a request on the link keeps its tag until it
ends (R118, R379, R380). -/
def Link.purge (l : Link) (gone : ReadFor → Bool) : Link :=
  { l with
    reads := l.reads.filter (fun p => !gone p.2.who), asks := l.asks.filter (fun a => !gone (.request a.core a.desc 0))
    units := l.units.filter (fun u => !gone (.request u.core u.desc 0)), seals := l.seals.filter (fun b => !gone (.request b.core b.desc 0)) }

/-- What the tile sends, in order (R356): posted writes, messages, answers and signals. -/
inductive Out where
  /-- A posted write of bytes at a host address, with its function and PASID. -/
  | write (func : Nat) (pasid : Option Nat) (addr : Nat) (data : Bytes)
  | msix (func vector : Nat)
  /-- An answer to a control-window, doorbell-page or BAR4 read. -/
  | answer (func off : Nat) (value : Nat)
  /-- Unsupported Request for a host request outside the BARs (R331). -/
  | unsupported (func addr : Nat)
  | hostRead (tag func : Nat) (pasid : Option Nat) (addr len : Nat)
  | doe (response : Bytes)
  | thermtrip
  /-- A voltage request on the VID interface, in 5 mV units (R455). -/
  | vid (vcore : Nat)
  deriving DecidableEq, Repr

end Sys2Proof.Machine
end

