-- ==== Sys2Proof/Machine/ScanUnit.lean ====
section
/-!
DEFINITION. Machine/ScanUnit.lean: the SCAN operator: chunks (R163), the exact sequence of R165, reset marks (R168, R169),
log-decay clamping (R161), layouts (R171) and output tiles (R94).
-/
namespace Sys2Proof.Machine

def at1 (l : List FV) (i : Nat) : FV := l.getD i (fv FVal.zero)
def at2 (l : List (List FV)) (i j : Nat) : FV := at1 (l.getD i []) j

/-- A log-decay as SCAN takes it; NaN stays NaN (R161). -/
def clampDecay (v : FV) : FV :=
  match v.1 with
  | .nan => v
  | x => if FVal.lt x (.fin true 64 0) then (.fin true 64 0, v.2)
         else if x.isZero || FVal.lt FVal.zero x then (FVal.zero, v.2) else v

/-- G[0..L] for one key: running sums of the log-decays (R165). -/
def cumDecay (g : List FV) : List FV :=
  (g.foldl (fun (acc : List FV) x => acc ++ [fAdd (acc.getLastD (fv FVal.zero)) x]) [fv FVal.zero])

/-- The index (from 0) of the last marked token at or before t, and whether any is marked (R165: s and m). -/
def lastMark (marks : List Bool) (t : Nat) : Option Nat :=
  ((List.range (t + 1)).filter (fun r => marks.getD r false)).getLast?

/-- R165 for one head, one stream and one chunk: the outputs of each token and the state after it. Lists hold tokens from 0. -/
def scanChunk (form dk dv : Nat) (q k v g : List (List FV)) (s0 : List FV) (marks : List Bool) : List (List FV) × List FV :=
  let len := q.length
  let dg := if form = 1 then 1 else dk
  let gs := (List.range dg).map (fun j => cumDecay (g.map (fun row => at1 row j)))
  let gAt (j t : Nat) : FV := at1 (gs.getD (if form = 1 then 0 else j) []) t
  -- E(t, i) with t and i counted from 1; i = 0 gives EXP(G[t])
  let e (j t i : Nat) : FV := fMath 0x10 (if i = 0 then gAt j t else fSub (gAt j t) (gAt j i))
  let sOf (t : Nat) : Nat := match lastMark marks (t - 1) with | some r => r + 1 | none => 1
  let clean (t : Nat) : Bool := (lastMark marks (t - 1)).isNone
  let rng (t : Nat) : List Nat := (List.range (t + 1 - sOf t)).map (· + sOf t)
  let kk (i j : Nat) : FV := at2 k (i - 1) j
  let vv (i n : Nat) : FV := at2 v (i - 1) n
  let qq (t j : Nat) : FV := at2 q (t - 1) j
  let js := List.range dk
  let kd (t i j : Nat) : FV := fMul (kk i j) (e j t i)
  let toks := (List.range len).map (· + 1)
  if form = 0 then
    let h (t : Nat) : List FV := js.map (fun j =>
      fAdd (if clean t then fMul (e j t 0) (at1 s0 j) else fv FVal.zero)
        (xdot ((rng t).map (fun i => kd t i j)) ((rng t).map (fun i => vv i j))))
    let hs := toks.map h
    ((List.range len).map (fun t => js.map (fun j => fMul (at2 q t j) (at2 hs t j))), hs.getLastD s0)
  else
    let outs := toks.map (fun t =>
      let p := (rng t).map (fun i =>
        if form = 1 then fMul (xdot (js.map (qq t)) (js.map (kk i))) (e 0 t i)
        else xdot (js.map (qq t)) (js.map (kd t i)))
      (List.range dv).map (fun n =>
        let col := js.map (fun j => at1 s0 (j * dv + n))
        let inter : FV :=
          if clean t then
            (if form = 1 then fMul (e 0 t 0) (xdot (js.map (qq t)) col)
             else xdot (js.map (fun j => fMul (qq t j) (e j t 0))) col)
          else fv FVal.zero
        fAdd inter (xdot p ((rng t).map (fun i => vv i n)))))
    let s1 := js.flatMap (fun j => (List.range dv).map (fun n =>
      fAdd (if clean len then fMul (e j len 0) (at1 s0 (j * dv + n)) else fv FVal.zero)
        (xdot ((rng len).map (fun i => kd len i j)) ((rng len).map (fun i => vv i n)))))
    (outs, s1)

/-- Key and value dimensions, decay values per token and head, and state elements per head of a SCAN (R84, R171). -/
def scanDims (d : Desc) : Nat × Nat × Nat × Nat :=
  let form := d.fld 4 1 0
  let dk := d.fld 6 6 0 + 1
  let dv := d.fld 7 6 0 + 1
  (dk, dv, if form = 1 then 1 else dk, if form = 0 then dk else dk * dv)

def scanChunkLen (d : Desc) : Nat := 16 * 2 ^ d.fld 4 3 2

/-- What one head of one stream leaves: FP32 outputs by chunk, final state patterns, flags. -/
structure ScanHead where
  chunks : List (List (List FV))
  state : List Nat
  flags : Flags
  deriving DecidableEq, Repr

/-- All chunks of one head of one stream (R163, R161). -/
def scanHead (form dk dv chunk stFmt : Nat) (q k v g : List (List FV)) (init : List FV) (marks : List Bool) : ScanHead :=
  let nt := q.length
  let bad := ((List.range nt).find? (fun t => anyNan (g.getD t []))).getD nt
  let z := init.length
  let nanV : FV := (.nan, Flags.nanSeen)
  let step (acc : List FV × ScanHead) (ci : Nat) : List FV × ScanHead :=
    let c0 := ci * chunk
    let c1 := min (c0 + chunk) nt
    let stop := max c0 (min c1 bad)
    let cut {α : Type} (l : List α) : List α := (l.drop c0).take (stop - c0)
    let r := if c0 < stop then scanChunk form dk dv (cut q) (cut k) (cut v) (cut g) acc.1 (cut marks) else ([], acc.1)
    let outs := r.1 ++ List.replicate (c1 - stop) (List.replicate dv nanV)
    let s1 := if bad < c1 then List.replicate z nanV else r.2
    let cv := s1.map (fun x => convert stFmt false x.1)
    let fl := outs.foldl (fun a o => a ||| allFlags o) (allFlags s1) ||| cv.foldl (fun a c => a ||| c.2) 0#8
    (cv.map (fun c => widen stFmt none c.1),
      { chunks := acc.2.chunks ++ [outs], state := cv.map (·.1), flags := acc.2.flags ||| fl })
  let r := (List.range (cdiv nt chunk)).foldl step (init, { chunks := [], state := [], flags := 0#8 })
  r.2

/-- One SCAN descriptor (R84, R165 to R171). -/
def runScan (d : Desc) (batch : Nat) (rd : RowRead) : EngineOut :=
  let form := d.fld 4 1 0
  let dims := scanDims d
  let dk := dims.1
  let dv := dims.2.1
  let dg := dims.2.2.1
  let z := dims.2.2.2
  let inF := d.fld 4 7 4
  let stF := d.fld 5 3 0
  let outF := d.fld 5 7 4
  let decF := d.fld 14 3 0
  let heads := d.fld 8 15 0
  let streams := d.scaled (d.fld 10 15 0) batch
  let toks := d.fld 12 15 0
  let chunk := scanChunkLen d
  let sat := d.bit 6 7
  let load (reg : Region) (fmt per : Nat) (s h : Nat) : List (List FV) := (List.range toks).map (fun t =>
    (List.range per).map (fun i =>
      widen fmt none (streamBits fmt rd (reg.first + (s * toks + t) * cdiv (heads * per) (elemsPerRow fmt)) (h * per + i))))
  let rst := d.region 44
  let marks (s : Nat) : List Bool := (List.range toks).map (fun t =>
    rst.present && (streamByte rd rst.first (16 * (s * toks + t) + 2)) % 2 == 1)
  let sin := d.region 32
  let sout := d.region 36
  let recRows := cdiv z (elemsPerRow stF)
  let one (s h : Nat) : ScanHead :=
    let g0 := load (d.region 28) decF dg s h
    let init : List FV := if sin.present then
        (List.range z).map (fun i => widen stF none (streamBits stF rd (sin.first + (s * heads + h) * recRows) i))
      else List.replicate z (fv FVal.zero)
    let q := load (d.region 16) inF dk s h
    let k := load (d.region 20) inF dk s h
    let v := load (d.region 24) inF dv s h
    let r := scanHead form dk dv chunk stF q k v (g0.map (fun row => row.map clampDecay)) init (marks s)
    let fin := (q ++ k ++ v ++ g0).foldl (fun a row => a ||| allFlags row) (allFlags init)
    { r with flags := r.flags ||| fin }
  let all := (List.range streams).map (fun s => (List.range heads).map (one s))
  let headAt (s h : Nat) : ScanHead := (all.getD s []).getD h { chunks := [], state := [], flags := 0#8 }
  let out := d.region 40
  let outRow (s t : Nat) : List FV := (List.range heads).flatMap (fun h => ((headAt s h).chunks.flatten).getD t [])
  let pairs := (List.range streams).flatMap (fun s => (List.range toks).map (fun t => (s, t)))
  let outs := pairs.map (fun p =>
    let xs := (outRow p.1 p.2).map (fun x => convert outF sat x.1)
    (packStream d outF (out.first + (p.1 * toks + p.2) * cdiv (heads * dv) (elemsPerRow outF)) (xs.map (·.1)),
      xs.foldl (fun a c => a ||| c.2) 0#8))
  let states := if sout.present then
      (List.range streams).flatMap (fun s => (List.range heads).flatMap (fun h =>
        packStream d stF (sout.first + (s * heads + h) * recRows) (headAt s h).state))
    else []
  let nc := cdiv toks chunk
  let bound := d.fld 48 31 0
  let tv := (List.range streams).flatMap (fun s => (List.range heads).flatMap (fun h => (List.range nc).map (fun c =>
    ((s * heads + h) * nc + c, (((headAt s h).chunks.getD c []).flatten).map (·.1)))))
  { writes := outs.flatMap (·.1) ++ states,
    flags := tv.foldl (fun a t => a ||| tileFlags bound t.2) (outs.foldl (fun a o => a ||| o.2)
      (all.foldl (fun a l => l.foldl (fun b x => b ||| x.flags) a) 0#8)),
    tiles := tv.map (fun t => (t.1, tileMax t.2)) }

end Sys2Proof.Machine
end

