-- ==== Sys2Proof/Machine/Image.lean ====
section
/-!
DEFINITION. Machine/Image.lean: schedule images: layout (R134 to R144), the admission checks that examine the image (checks 1 and 4
to 9 of R146), the accesses of a descriptor (R74, R153), and the Belay proof (R149 to R153).
-/
namespace Sys2Proof.Machine

/-- A refusal of admission with its place (R147); 0xFF and 0xFFFFFFFF where a place does not apply. -/
structure ImgErr where
  status : BitVec 8
  sect : Nat
  core : Nat
  index : Nat
  deriving DecidableEq, Repr

def ImgErr.plain (st : BitVec 8) : ImgErr := { status := st, sect := 0xFF, core := 0xFF, index := 0xFFFFFFFF }

structure FootEntry where
  first : Nat
  rows : Nat
  kind : Nat
  rid : Nat
  deriving DecidableEq, Repr

structure TokenEntry where
  token : Nat
  source : Nat
  targets : Nat
  deriving DecidableEq, Repr

structure PrefEntry where
  addr : Nat
  tiles : Nat
  core : Nat
  pin : Bool
  desc : Nat
  deriving DecidableEq, Repr

/-- An entry of the section table (R135). -/
structure Section' where
  typ : Nat
  core : Nat
  off : Nat
  len : Nat
  entries : Nat
  deriving DecidableEq, Repr

/-- An admitted image (R131, R134 to R148). -/
structure Image where
  gen : Nat
  ctx : Nat
  tiles : Nat
  coreSet : Nat
  maxBatch : Nat
  tps : Nat
  kindMask : Nat
  workspace : Nat
  streams : AList (List Desc)
  foots : AList (List FootEntry)
  tokens : List TokenEntry
  refs : List Bytes
  prefetch : List PrefEntry
  budget : Nat
  /-- Counter assigned to (core × 65,536 + token) (R148). -/
  counterOf : AList Nat
  /-- Decode-table generations held (R142). -/
  gens : List Nat
  /-- Where the STREAM sections lie in the image, by core: offset and length (R135). -/
  sects : AList (Nat × Nat)
  digest : Bytes
  kvFmt : Nat
  kvItem : Nat
  walkLanes : List Nat
  appendLanes : List Nat
  writesState : Bool
  anchoring : Bool
  deriving DecidableEq, Repr

def bitsSet (m : Nat) : List Nat := (List.range 8).filter (fun i => m.testBit i)
def Image.cores (i : Image) : List Nat := bitsSet i.coreSet
def Image.stream (i : Image) (c : Nat) : List Desc := i.streams.getD c []
def Image.foot (i : Image) (c : Nat) : List FootEntry := i.foots.getD c []
def Image.kvWriting (i : Image) : Bool := !i.appendLanes.isEmpty
def Image.usesKv (i : Image) : Bool := !i.appendLanes.isEmpty || !i.walkLanes.isEmpty
def Image.dispatchRegion (i : Image) (c : Nat) : Region :=
  match (i.foot c).find? (fun e => e.kind == 2) with | some e => ⟨e.first, e.rows⟩ | none => ⟨0, 0⟩

/-- Rows of a region that lie in no footprint entry. -/
def uncovered (es : List FootEntry) (r : Region) : Ranges :=
  es.foldl (fun acc e => Ranges.removeRun acc e.first e.rows) (if r.rows = 0 then [] else [(r.first, r.rows)])

/-- Bytes a section entry has (R136). -/
def sectSize : Nat → Nat
  | 1 => 64 | 2 => 16 | 3 => 8 | 4 => 16 | 5 => 32 | 6 => 64 | _ => 1

def sectCounts : Nat → Nat × Nat
  | 1 => (1, 262144) | 2 => (1, 256) | 3 => (0, 65535) | 4 => (1, 16) | 5 => (1, 65535) | 6 => (1, 1) | _ => (0, 0xFFFFFFFF)

def readSections (b : Bytes) : List Section' :=
  (List.range (leAt b 6 2)).map (fun i =>
    let o := 64 + 16 * i
    { typ := leAt b o 1, core := leAt b (o + 1) 1, off := leAt b (o + 4) 4, len := leAt b (o + 8) 4, entries := leAt b (o + 12) 4 })

def findSect (ss : List Section') (typ core : Nat) : Option Nat := ss.findIdx? (fun s => s.typ == typ && s.core == core)
def sectAt (ss : List Section') (i : Nat) : Section' := ss.getD i { typ := 0, core := 0, off := 0, len := 0, entries := 0 }

/-- Check 1 of R146 on the bytes of an image (R134 to R136); none when it passes. -/
def check1 (b : Bytes) (length : Nat) : Option ImgErr :=
  let bad := some (ImgErr.plain 0x40)
  let badAt (i : Nat) : Option ImgErr := some { status := 0x40, sect := i, core := 0xFF, index := 0xFFFFFFFF }
  let n := leAt b 6 2
  let size := leAt b 8 4
  let cs := leAt b 16 1
  if leAt b 0 4 ≠ 0x4C554749 ∨ leAt b 4 2 ≠ 1 ∨ n < 4 ∨ 64 < n ∨ size % 64 ≠ 0 ∨ 268435456 < size ∨ length < size ∨ size < 64 + 16 * n
    ∨ cs = 0 ∨ leAt b 17 1 ≠ 0 ∨ leAt b 18 2 = 0 ∨ leAt b 20 2 = 0 ∨ 1048576 < leAt b 18 2 * leAt b 20 2 ∨ leAt b 22 2 = 0
    ∨ leAt b 32 32 ≠ 0 then bad
  else if crc32 ((b.take size).drop 16) ≠ leAt b 12 4 then bad
  else
    let ss := readSections b
    let idx := List.range n
    let okOne (i : Nat) : Bool :=
      let s := sectAt ss i
      let perCore := s.typ == 1 || s.typ == 2
      decide (1 ≤ s.typ) && decide (s.typ ≤ 7) && leAt b (64 + 16 * i + 2) 2 == 0 &&
        (if perCore then decide (s.core < 8) && cs.testBit s.core else s.core == 0xFF) &&
        s.off % 64 == 0 && decide (64 + 16 * n ≤ s.off) && decide (s.off + s.len ≤ size) &&
        (s.typ == 7 || (s.len == s.entries * sectSize s.typ && decide ((sectCounts s.typ).1 ≤ s.entries) &&
          decide (s.entries ≤ (sectCounts s.typ).2))) &&
        (List.range i).all (fun j => let t := sectAt ss j
          !(decide (s.off < t.off + t.len) && decide (t.off < s.off + s.len)) &&
          (s.typ == 7 || !(t.typ == s.typ && t.core == s.core)))
    match idx.find? (fun i => !okOne i) with
    | some i => badAt i
    | none =>
      if (bitsSet cs).all (fun c => (findSect ss 1 c).isSome && (findSect ss 2 c).isSome) && (findSect ss 3 0xFF).isSome &&
        (findSect ss 6 0xFF).isSome then none else bad

/-- The image that the bytes describe, before handles and resources are given to it. -/
def parseImage (b : Bytes) : Image :=
  let ss := readSections b
  let cs := leAt b 16 1
  let entriesOf (typ core : Nat) : List Bytes :=
    match findSect ss typ core with
    | some i => let s := sectAt ss i; (List.range s.entries).map (fun k => (b.drop (s.off + k * sectSize typ)).take (sectSize typ))
    | none => []
  { gen := 0, ctx := 0, tiles := cdiv (leAt b 8 4) 65536, coreSet := cs, maxBatch := leAt b 18 2, tps := leAt b 20 2,
    kindMask := leAt b 22 2, workspace := leAt b 24 4,
    streams := (bitsSet cs).map (fun c => (c, (entriesOf 1 c).map (fun e => leAt e 0 64))),
    foots := (bitsSet cs).map (fun c => (c, (entriesOf 2 c).map (fun e =>
      { first := leAt e 0 2, rows := leAt e 2 2, kind := leAt e 4 1 % 4, rid := leAt e 6 2 }))),
    tokens := (entriesOf 3 0xFF).map (fun e => { token := leAt e 0 2, source := leAt e 2 1 % 8, targets := leAt e 3 1 }),
    refs := (entriesOf 4 0xFF).map (·.take 8),
    prefetch := (entriesOf 5 0xFF).map (fun e => { addr := leAt e 0 6, tiles := leAt e 8 4, core := leAt e 12 1 % 8, pin := bit? (leAt e 12 1) 3, desc := leAt e 16 4 }),
    budget := leAt ((entriesOf 6 0xFF).headD []) 0 64, counterOf := [], gens := [],
    sects := (bitsSet cs).filterMap (fun c => (findSect ss 1 c).map (fun i => (c, ((sectAt ss i).off, (sectAt ss i).len)))), digest := [], kvFmt := 0, kvItem := 0,
    walkLanes := [], appendLanes := [], writesState := false, anchoring := false }

/- Fields of a MOVE (R87). -/
def Desc.src (d : Desc) : Nat := d.fld 4 3 0
def Desc.dst (d : Desc) : Nat := d.fld 4 7 4
def Desc.moveFmt (d : Desc) : Nat := d.fld 5 3 0
def Desc.ring (d : Desc) : Bool := d.bit 5 4
def Desc.gather (d : Desc) : Bool := d.bit 5 5
def Desc.movePeer (d : Desc) : Nat := d.fld 6 2 0
def Desc.remote (d : Desc) : Nat := d.fld 8 47 0
def Desc.window (d : Desc) : Nat := d.fld 16 15 0
def Desc.localReg (d : Desc) : Region := d.region 20
def Desc.length (d : Desc) : Nat := d.fld 24 31 0
def Desc.indexReg (d : Desc) : Region := d.region 28
def Desc.count (d : Desc) : Nat := d.fld 32 31 0
def Desc.itemBytes (d : Desc) : Nat := d.fld 36 31 0
def Desc.stride (d : Desc) : Nat := d.fld 40 31 0
/-- The side of a MOVE other than the LOCAL one; both may be LOCAL (0). -/
def Desc.other (d : Desc) : Nat := if d.dst = 0 then d.src else d.dst
/-- Whether the LOCAL side is the destination. -/
def Desc.loads (d : Desc) : Bool := d.dst == 0

/-- Bits of a descriptor that its kind names, as (low, high) bit positions within 512; all others are reserved (R80 to R93). -/
def namedBits : Nat → List (Nat × Nat)
  | 1 => [(0, 3), (8, 12), (16, 31), (32, 43), (48, 54), (64, 111), (128, 447)]
  | 2 => [(0, 3), (8, 12), (16, 31), (32, 62), (64, 115), (128, 415)]
  | 3 => [(0, 3), (8, 12), (16, 31), (32, 46), (48, 50), (56, 447)]
  | 4 => [(0, 3), (8, 12), (16, 31), (32, 111), (128, 415)]
  | 5 => [(0, 3), (8, 12), (16, 31), (32, 45), (48, 50), (64, 111), (128, 143), (160, 351)]
  | 6 => [(0, 3), (8, 12), (16, 31), (32, 33), (40, 43), (48, 58), (64, 79), (96, 223)]
  | 7 => [(0, 3), (8, 12), (16, 31), (32, 35), (40, 42), (48, 55), (64, 159)]
  | 8 => [(0, 3), (8, 12), (16, 31), (32, 33), (48, 79)]
  | _ => []

def reservedClear (d : Desc) : Bool :=
  let m := (namedBits d.kind).foldl (fun a p => a ||| (2 ^ (p.2 + 1) - 2 ^ p.1)) 0
  d &&& m == d

def kvFmtOk (f : Nat) : Bool := inFmts [1, 2, 3, 4] f
def scalable (f : Nat) : Bool := inFmts [3, 4, 5, 6, 7, 0xA, 0xC] f

/-- Check 4 on one descriptor (R33, R41, R53, R162, R216, R253). A VEC whose FUNC R70 does not name is held here to what R33 and R41
say of every VEC: its codes, its destination and its scale modes; its FUNC is refused in check 5. Which of its operands such a FUNC
would read, and so whether an INT32 operand stands in a position the table allows, is not said (notes/assumptions/23.md). -/
def fmtOk (d : Desc) : Bool :=
  match d.kind with
  | 1 =>
    let a := d.fld 4 3 0
    let b := d.fld 4 7 4
    let as := d.fld 5 1 0
    let bs := d.fld 5 3 2
    let dst := d.fld 6 3 0
    matPairOk a b && (as == 0 || (as == 1 && scalable a)) && (bs == 0 || (bs == 1 && scalable b)) &&
      (if d.bit 6 5 then dst == (if intAcc a b as bs then 8 else 0) else decide (dst ≤ 0xC))
  | 2 => kvFmtOk (d.fld 4 7 4) && decide (d.fld 5 3 0 ≤ 2) && (d.fld 14 3 0 == 0 || d.fld 14 3 0 == 2) && decide (d.fld 5 7 4 ≤ 0xC)
  | 3 => kvFmtOk (d.fld 4 3 0) && kvFmtOk (d.fld 4 7 4) && decide (d.fld 5 3 0 ≤ 0xC) && d.fld 5 3 0 != 8
  | 4 =>
    let f := d.fld 4 7 0
    let af := d.fld 5 3 0
    let bf := d.fld 5 7 4
    let cf := d.fld 6 3 0
    let df := d.fld 6 7 4
    let as := d.fld 7 1 0
    let ds := d.fld 7 3 2
    let ops := [af] ++ (if vecUsesB f && f != 0x49 then [bf] else []) ++ (if vecUsesC f then [cf] else [])
    decide (af ≠ 0xF ∧ bf ≠ 0xF ∧ cf ≠ 0xF ∧ df ≠ 0xF) && df != 0xD &&
    (as == 0 || (as == 2 && scalable af)) && (ds == 0 || (ds == 2 && scalable df)) &&
    (if isIndexFn f then ops.all isIntFmt && isIntFmt df && as == 0
     else !vecFuncOk f || (ops.all (fun x => x != 8) && (df != 8 || isIntFn f)))
  | 5 => d.moveFmt != 0xF && (d.moveFmt != 0xD || (d.src == 2 && d.dst == 0))
  | 6 => d.fld 5 3 0 != 0xF && (d.fld 4 1 0 != 0 || inFmts [0, 2, 8] (d.fld 5 3 0))
  | _ => true

/-- Rows a region of a descriptor needs at a batch size, as (byte offset of the region field, rows, whether it may be absent)
(R66, R80, R86, R87, R91, R122, R171, R215). A scale or C region that is named where R83 has it absent is not looked at, and SRC_REG of a
broadcast's participant other than ROOT is checked as ROOT's is (DESIGN CHOICE, notes/assumptions/50.md). -/
def regionNeeds (d : Desc) (batch tps : Nat) : List (Nat × Nat × Bool) :=
  match d.kind with
  | 1 =>
    let x := matDims d batch
    let p := cdiv x.n 64
    let dst := d.fld 6 3 0
    [(16, x.m * cdiv x.k (elemsPerRow x.af), false), (20, p * x.groups * tileW x.af x.bf, false),
     (24, if d.fld 5 1 0 = 1 then x.m * cdiv (cdiv x.k 32) 512 else 0, true),
     (28, if d.fld 5 3 2 = 1 then p * x.groups * tileS x.af x.bf else 0, true),
     (32, if d.bit 6 6 then x.m * cdiv x.n 128 else 0, true), (36, x.m * cdiv x.n (elemsPerRow dst), false)] ++
     (if (d.region 40).present then [(40, cdiv x.n 128, true)] else [])
  | 2 =>
    let dm := scanDims d
    let h := d.fld 8 15 0
    let s := d.scaled (d.fld 10 15 0) batch
    let nt := s * d.fld 12 15 0
    let inF := d.fld 4 7 4
    let st := s * h * cdiv dm.2.2.2 (elemsPerRow (d.fld 5 3 0))
    [(16, nt * cdiv (h * dm.1) (elemsPerRow inF), false), (20, nt * cdiv (h * dm.1) (elemsPerRow inF), false),
     (24, nt * cdiv (h * dm.2.1) (elemsPerRow inF), false), (28, nt * cdiv (h * dm.2.2.1) (elemsPerRow (d.fld 14 3 0)), false),
     (40, nt * cdiv (h * dm.2.1) (elemsPerRow (d.fld 5 7 4)), false)] ++
     (if (d.region 32).present then [(32, st, true)] else []) ++ (if (d.region 36).present then [(36, st, true)] else []) ++
     (if (d.region 44).present then [(44, cdiv nt 32, true)] else [])
  | 3 =>
    let seqs := attnSeqs d batch
    let q := d.fld 10 15 0
    let grp := d.fld 7 7 0
    let hd := d.fld 8 15 0
    let rt := seqs * q * grp
    [(16, seqs * q * cdiv (grp * hd) (elemsPerRow (d.fld 4 3 0)), false), (24, cdiv ((seqs - 1) * q + 1) 32, false)] ++
     (if d.bit 5 6 then [(32, seqs * q * cdiv (grp * hd) (elemsPerRow (d.fld 5 3 0)), false)] else []) ++
     (if (d.region 28).present then [(28, cdiv rt 64 + rt * cdiv hd 128, true)] else []) ++
     (if (d.region 36).present then [(36, cdiv rt 128, true)] else []) ++
     (if d.fld 6 2 0 = 4 then [(40, seqs * q, false)] else [])
  | 4 =>
    let f := d.fld 4 7 0
    let n := d.fld 8 31 0
    let r := d.scaled (d.fld 12 15 0) batch
    let per (fm : Nat) := cdiv n (elemsPerRow fm)
    let sr := cdiv (cdiv n 32) 512
    let df := d.fld 6 7 4
    [(16, r * per (d.fld 5 3 0), false),
     (28, if isReduceFn f then cdiv r (elemsPerRow df) else r * per df, false)] ++
     (if f == 0x49 then [(20, cdiv r 32, false)]
      else if vecUsesB f then [(20, (if d.bit 7 6 then 1 else r) * per (d.fld 5 7 4), false)] else []) ++
     (if vecUsesC f then [(24, (if d.bit 7 7 then 1 else r) * per (d.fld 6 3 0), false)] else []) ++
     (if d.fld 7 1 0 = 2 then [(32, r * sr, false)] else []) ++
      (if d.fld 7 3 2 = 2 then [(36, if isReduceFn f then cdiv (cdiv r 32) 512 else r * sr, false)] else [])
  | 5 =>
    let cnt := d.scaled d.count batch
    let isSt := d.other == 5
    let isKv := d.other == 4
    (if d.gather || isSt then [(20, cnt * cdiv d.itemBytes 512, false)]
     else if d.ring then [] else [(20, cdiv d.length 512, false)]) ++
    (if d.gather then [(28, cdiv (4 * cnt) 512, false)]
     else if (isSt || isKv) && cnt != 0 then [(28, (cnt - 1) * tps / 32 + 1, false)] else [])
  | 6 =>
    let r := d.fld 12 31 0 / 512
    [(16, r, false), (20, r * (if d.fld 4 1 0 = 1 then (bitsSet (d.fld 6 7 0)).length else 1), false)]
  | 7 =>
    let m := d.fld 4 1 0
    (if m != 3 then [(8, 1, false)] else []) ++ (if m == 0 then [(12, 1, false)] else [])
  | _ => []

/-- Byte offsets of the region fields of a kind. -/
def regionFields : Nat → List Nat
  | 1 => [16, 20, 24, 28, 32, 36, 40]
  | 2 => [16, 20, 24, 28, 32, 36, 40, 44]
  | 3 => [16, 20, 24, 28, 32, 36, 40]
  | 4 => [16, 20, 24, 28, 32, 36]
  | 5 => [20, 28]
  | 6 => [16, 20]
  | 7 => [8, 12]
  | _ => []

/-- Offset of the RANGE_BOUND that a descriptor uses (R82). -/
def boundOff (d : Desc) : Option Nat :=
  match d.kind with
  | 1 => some 52 | 2 => some 48 | 3 => some 52 | 4 => some 48
  | 6 => if d.fld 4 1 0 = 0 ∧ (d.fld 5 3 0 = 0 ∨ d.fld 5 3 0 = 2) then some 24 else none
  | _ => none

def Desc.rangeBound (d : Desc) : Nat := match boundOff d with | some o => d.fld o 31 0 | none => 0x7F800000

/-- Field rules of a MOVE (R87, R117, R178, R198, R200, R253). -/
def moveOk (d : Desc) (core batch tps cs : Nat) : Bool :=
  let s := d.src
  let t := d.dst
  let ra := d.remote
  let cnt := d.scaled d.count batch
  decide (s ≤ 5) && decide (t ≤ 5) && (s == 0 || t == 0) && (!d.ring || (s == 4 && t == 0)) &&
  d.length % (if s == 3 || t == 3 then 64 else 512) == 0 &&
  ((s != 1 && t != 1) || cs.testBit d.movePeer) &&
  (d.moveFmt != 0xD || (ra % 65536 % 180 == 0 && decide (ra % 65536 < 65520) &&
    (!d.gather || (d.itemBytes % 256 == 0 && d.stride % 256 == 0)))) &&
  (d.other != 5 || (!d.gather && ra / 2 ^ 46 != 3 && d.itemBytes != 0 && d.itemBytes % 64 == 0 && d.stride % 64 == 0 &&
    ra % 2 ^ 46 % 64 == 0)) &&
  (d.other != 4 || (!d.gather && kvFmtOk d.moveFmt &&
    (let w := fmtWidth d.moveFmt / 8
     let hd := d.itemBytes / w
     d.itemBytes % w == 0 && decide (32 ≤ hd) && decide (hd ≤ 256) && hd % 32 == 0 &&
     (if s == 4 then decide (ra / 2 ^ 46 ≤ 1) && (d.stride == 64 || d.stride == 128 || d.stride == 256)
      else ra / 2 ^ 16 == 0 && d.stride == 0 && d.length == 2 * cnt * tps * cdiv hd (elemsPerRow d.moveFmt) * 512)))) &&
  (s != 0 || t != 0 || (decide (ra < 65536) && decide (core < 8)))

/-- Field rules of each kind other than region sizes (R70, R72, R81, R83 to R93, R117, R162, R216, R431). -/
def kindOk (d : Desc) (core batch tps cs : Nat) (stream : List Desc) : Bool :=
  match d.kind with
  | 1 => decide (1 ≤ d.fld 8 15 0) && decide (1 ≤ d.fld 10 15 0) && decide (1 ≤ d.fld 12 15 0)
  | 2 =>
    let f := d.fld 4 1 0
    f != 3 && (f != 0 || d.fld 6 6 0 == d.fld 7 6 0) && d.fld 8 15 0 != 0 && d.fld 10 15 0 != 0 && d.fld 12 15 0 != 0 &&
      !((d.region 32).overlaps (d.region 36))
  | 3 =>
    let m := d.fld 6 2 0
    let hd := d.fld 8 15 0
    let strings := attnSeqs d batch * d.fld 10 15 0
    decide (m ≤ 4) && inFmts [64, 128, 256] (d.fld 14 15 0) && decide (32 ≤ hd) && decide (hd ≤ 256) && hd % 32 == 0 &&
      decide (1 ≤ d.fld 7 7 0) && decide (d.fld 7 7 0 ≤ 64) &&
      (if m == 4 then decide (0 < strings) && (d.region 40).rows % strings == 0 else (d.region 40).rows == 0) &&
      ((d.bit 5 5 && d.bit 5 6) || (d.region 28).present) && decide (d.fld 48 31 0 < 2 ^ 30) && d.fld 10 15 0 == tps
  | 4 =>
    let f := d.fld 4 7 0
    vecFuncOk f && decide (1 ≤ d.fld 8 31 0) && decide (d.fld 8 31 0 ≤ 2 ^ 20) && decide (1 ≤ d.fld 12 15 0) &&
      (f != 0x22 || d.fld 8 31 0 % 2 == 0)
  | 5 => moveOk d core batch tps cs
  | 6 =>
    let p := d.fld 6 7 0
    d.fld 4 1 0 != 3 && d.fld 12 31 0 % 512 == 0 && p.testBit core && (bitsSet p).all (fun c => cs.testBit c) &&
      (d.fld 4 1 0 != 2 || p.testBit (d.fld 7 2 0))
  | 7 =>
    let m := d.fld 4 1 0
    if m == 1 then cs.testBit (d.fld 5 2 0) && d.fld 5 2 0 != core
    else if m == 3 then
      match stream[d.fld 16 31 0]? with
      | some e => e.kind == 1 && e.shadowOnly
      | none => false
    else true
  | 8 => decide (d.fld 4 1 0 ≤ 1) && (d.fld 4 1 0 == 1 || decide (1 ≤ d.fld 9 7 0))
  | _ => false

/-- Check 5 on one descriptor of a core's stream. -/
def descOk (img : Image) (core i : Nat) (d : Desc) : Bool :=
  let st := img.stream core
  let foot := img.foot core
  let needs := regionNeeds d img.maxBatch img.tps
  let ignored (off : Nat) : Bool := d.kind == 7 && off == 8 && d.fld 4 1 0 == 3
  decide (1 ≤ d.kind) && decide (d.kind ≤ 8) && reservedClear d && (!d.shadowOnly || d.kind == 1) &&
  (!d.perStream || !(d.kind == 6 || d.kind == 7 || d.kind == 8)) && d.isEnd == (i + 1 == st.length) &&
  (match boundOff d with
    | some o => let v := ofF32 (d.fld o 31 0); !v.isNan && (v.isZero || !v.isNeg)
    | none => true) &&
  kindOk d core img.maxBatch img.tps img.coreSet st &&
  (regionFields d.kind).all (fun off =>
    ignored off ||
    (let r := d.region off
     let need := match needs.find? (fun n => n.1 == off) with | some n => n.2.1 | none => 0
     decide (need ≤ r.rows) && (!r.present || (decide (r.first + r.rows ≤ 49152) && (uncovered foot r).isEmpty)))) &&
  (d.kind != 5 || d.gather || d.other != 1 ||
    (let r : Region := ⟨d.remote, cdiv d.length 512⟩
     decide (r.first + r.rows ≤ 49152) && (uncovered (img.foot d.movePeer) r).isEmpty)) &&
  (d.kind != 5 || d.gather || d.src != 0 || d.dst != 0 ||
    (let r : Region := ⟨d.remote, cdiv d.length 512⟩
     decide (r.first + r.rows ≤ 49152) && (uncovered foot r).isEmpty && !(r.overlaps d.localReg)))

/-- Whether an ATTN and the read walk that fills its ring agree (R201). -/
def pairOk (a m : Desc) : Bool :=
  let w := fmtWidth (a.fld 4 7 4) / 8
  let kr := cdiv (a.fld 14 15 0 * a.fld 8 15 0 * w) 512
  let rows := (a.region 20).rows
  let windowed := m.remote / 2 ^ 46 == 1
  m.src == 4 && a.fld 24 31 0 == m.fld 28 31 0 && a.fld 12 15 0 == m.count && a.perStream == m.perStream &&
  a.fld 14 15 0 == m.stride && a.fld 8 15 0 * w == m.itemBytes && a.fld 4 7 4 == m.moveFmt &&
  (if a.fld 6 2 0 == 2 then windowed && m.remote / 2 ^ 16 % 2 ^ 30 == a.fld 48 31 0 else !windowed) &&
  decide (0 < kr) && rows % (2 * kr) == 0 && decide (4 * kr ≤ rows)

/- Accesses of descriptors. -/

/-- An access: the core whose rows it touches (or none, for window bytes, then `win`), its range, whether it writes, and whether it is
cross-core. -/
structure Access where
  core : Option Nat
  win : Nat
  lo : Nat
  hi : Nat
  write : Bool
  cross : Bool
  deriving DecidableEq, Repr

def rowAccess (core : Nat) (r : Region) (write : Bool) : List Access :=
  if r.present then [{ core := some core, win := 0, lo := r.first, hi := r.first + r.rows, write := write, cross := false }] else []

/-- Region fields a kind reads and writes. -/
def readRegs : Nat → List Nat
  | 1 => [16, 20, 24, 28, 32, 40] | 2 => [16, 20, 24, 28, 32, 44] | 3 => [16, 20, 24, 28, 40]
  | 4 => [16, 20, 24, 32] | 6 => [16] | 7 => [8, 12] | _ => []
def writeRegs : Nat → List Nat
  | 1 => [36] | 2 => [36, 40] | 3 => [28, 32, 36] | 4 => [28, 36] | 6 => [20] | _ => []

/-- The rows and window bytes a descriptor touches (R74, R87, R153). -/
def accesses (img : Image) (core : Nat) (d : Desc) : List Access :=
  if d.kind = 5 then
    let loads := d.loads
    let span (owner : Nat) (cross : Bool) : List Access :=
      if d.gather then (img.foot owner).map (fun e =>
        { core := some owner, win := 0, lo := e.first, hi := e.first + e.rows, write := !loads, cross := cross })
      else [{ core := some owner, win := 0, lo := d.remote % 65536, hi := d.remote % 65536 + cdiv d.length 512, write := !loads,
              cross := cross }]
    rowAccess core d.localReg loads ++ rowAccess core d.indexReg false ++
    (match d.other with
      | 0 => span core false
      | 1 => span d.movePeer true
      | 3 => [{ core := none, win := d.window, lo := if d.gather then 0 else d.remote,
                hi := if d.gather then 2 ^ 64 else d.remote + d.length, write := !loads, cross := false }]
      | _ => [])
  else if d.kind = 7 ∧ d.fld 4 1 0 = 3 then
    match (img.stream core)[d.fld 16 31 0]? with
    | some m => (readRegs 1).flatMap (fun o => rowAccess core (m.region o) false) ++ rowAccess core (m.region 36) true
    | none => []
  else if d.kind = 1 ∧ d.shadowOnly then []
  else (readRegs d.kind).flatMap (fun o => rowAccess core (d.region o) false) ++
    (writeRegs d.kind).flatMap (fun o => rowAccess core (d.region o) true)

def Access.meets (a b : Access) : Bool :=
  (a.write || b.write) && decide (a.lo < b.hi) && decide (b.lo < a.hi) &&
  (match a.core, b.core with
    | some x, some y => x == y
    | none, none => a.win == b.win
    | _, _ => false)

/-- A RING MOVE and the ATTN of the same ring (R75). -/
def ringPair (a b : Desc) : Bool :=
  (a.kind == 5 && a.ring && b.kind == 3 && a.fld 20 31 0 == b.fld 20 31 0) ||
  (b.kind == 5 && b.ring && a.kind == 3 && b.fld 20 31 0 == a.fld 20 31 0)

/-- Condition 3 of R74 between two descriptors of one core, on that core's rows. -/
def conflict (img : Image) (core : Nat) (a b : Desc) : Bool :=
  !ringPair a b && (accesses img core a).any (fun x => x.core == some core &&
    (accesses img core b).any (fun y => y.core == some core && x.meets y))

/- The Belay proof. -/

abbrev Node := Nat × Nat

/-- The stream of a core at a Second level: CHECKs above the level are removed (R153). -/
def levelStream (img : Image) (level core : Nat) : List (Nat × Desc) :=
  ((List.range (img.stream core).length).zip (img.stream core)).filter (fun p => !(p.2.kind == 7 && decide (level < p.2.fld 4 3 2)))

def isWait (d : Desc) : Bool := d.kind == 8 && d.fld 4 1 0 == 0
def isPost (d : Desc) : Bool := d.kind == 8 && d.fld 4 1 0 == 1
def isSend (d : Desc) : Bool := d.kind == 7 && d.fld 4 1 0 == 1
def isTake (d : Desc) : Bool := d.kind == 7 && decide (2 ≤ d.fld 4 1 0)

/-- The abstract run of R153: positions, posts seen by (target × 65,536 + token), counts consumed, SENDs run by (target × 256 + slot)
in order, and consumers run. -/
structure AbsRun where
  pos : AList Nat
  posts : AList Nat
  used : AList Nat
  sends : AList (List Node)
  takes : AList (List Node)
  deriving DecidableEq, Repr

/-- Whether a descriptor is one half of a ring: the ATTN or its RING MOVE (R75). -/
def ringHalf (d : Desc) : Bool := d.kind == 3 || (d.kind == 5 && d.ring)

/-- The ring halves before position p of a stream whose other half stands at p or later. Each of them may stay in flight until its other
half has issued. -/
def openHalves (st : List (Nat × Desc)) (p : Nat) : List Desc :=
  ((st.take p).filter (fun a => ringHalf a.2 && (st.drop p).any (fun b => ringPair a.2 b.2))).map (·.2)

/-- Units that a descriptor uses (R62): 0 matrix engine, 1 vector unit, 2 scan unit, 3 DMA engine, 4 collective port, 5 check unit. A
SHADOW runs a MATMUL. -/
def unitsOf (d : Desc) : List Nat :=
  match d.kind with
  | 1 => [0]
  | 2 => [0, 1, 2]
  | 3 => [0, 1]
  | 4 => [1]
  | 5 => [3]
  | 6 => [4]
  | 7 => if d.fld 4 1 0 = 3 then [0, 5] else [5]
  | _ => []

/-- Whether a descriptor would wait under R74 for a ring half that is still in flight: for its unit, for its rows, or, with FENCE, a POST
or a SEND, for its completion. In stream order its other half then never issues, so the real run does not reach END, and by R153 the
abstract run does not either (R26; notes/assumptions/23.md). -/
def ringBlocks (img : Image) (core : Nat) (st : List (Nat × Desc)) (p : Nat) (d : Desc) : Bool :=
  let open' := openHalves st p
  !(d.kind == 1 && d.shadowOnly) && !open'.isEmpty &&
    (d.fence || isPost d || isSend d || open'.any (conflict img core d) ||
      (unitsOf d).any (fun u => decide ((if u = 3 then 4 else 1) ≤ (open'.filter (fun a => (unitsOf a).contains u)).length)))

/-- One descriptor of one core, if it can advance. -/
def absStep (img : Image) (level : Nat) (a : AbsRun) (c : Nat) : Option AbsRun :=
  let st := levelStream img level c
  let p := a.pos.getD c 0
  match st[p]? with
  | none => none
  | some (i, d) =>
    let adv : AbsRun := { a with pos := a.pos.set c (p + 1) }
    if ringBlocks img c st p d then none
    else if isWait d then
      let k := c * 65536 + d.fld 6 15 0
      if a.used.getD k 0 + d.fld 9 7 0 ≤ a.posts.getD k 0 then
        some { adv with used := a.used.set k (a.used.getD k 0 + d.fld 9 7 0) } else none
    else if isPost d then
      some { adv with posts := (bitsSet (d.fld 8 7 0)).foldl (fun m t => m.set (t * 65536 + d.fld 6 15 0)
        (m.getD (t * 65536 + d.fld 6 15 0) 0 + 1)) a.posts }
    else if isSend d then
      let k := d.fld 5 2 0 * 256 + d.fld 6 7 0
      some { adv with sends := a.sends.set k (a.sends.getD k [] ++ [(c, i)]) }
    else if isTake d then
      let k := c * 256 + d.fld 6 7 0
      if (a.takes.getD k []).length < (a.sends.getD k []).length then
        some { adv with takes := a.takes.set k (a.takes.getD k [] ++ [(c, i)]) } else none
    else if d.kind = 6 then
      let ps := bitsSet (d.fld 6 7 0)
      let here (t : Nat) : Bool := match (levelStream img level t)[a.pos.getD t 0]? with
        | some (_, e) => e.kind == 6 && e.fld 8 15 0 == d.fld 8 15 0 && !ringBlocks img t (levelStream img level t) (a.pos.getD t 0) e
        | none => false
      if ps.all here then some { a with pos := ps.foldl (fun m t => m.set t (m.getD t 0 + 1)) a.pos } else none
    else some adv

/-- Advances every core in turn until none can move. -/
def absRun (img : Image) (level : Nat) : Nat → AbsRun → AbsRun
  | 0, a => a
  | fuel + 1, a =>
    match img.cores.findSome? (absStep img level a) with
    | some b => absRun img level fuel b
    | none => a

def absTotal (img : Image) (level : Nat) : Nat := (img.cores.map (fun c => (levelStream img level c).length)).sum

/-- The edges of the happens-before relation (R153). REDUCEs of one COLL_ID share one node, that of their lowest participant. -/
def hbEdges (img : Image) (level : Nat) (run : AbsRun) : List (Node × Node) :=
  let node (c i : Nat) (d : Desc) : Node :=
    if d.kind = 6 then (8, d.fld 8 15 0) else (c, i)
  let sameCore := img.cores.flatMap (fun c =>
    let st := levelStream img level c
    (List.range st.length).flatMap (fun x => (List.range x).filterMap (fun y =>
      match st[y]?, st[x]? with
      | some (i, a), some (j, b) =>
        if isPost b || isSend b || isWait a || b.fence || conflict img c a b then some (node c i a, node c j b) else none
      | _, _ => none)))
  let tokenEdges := img.tokens.flatMap (fun t => (bitsSet t.targets).flatMap (fun tgt =>
    let posts := ((levelStream img level t.source).filter (fun p => isPost p.2 && p.2.fld 6 15 0 == t.token && (p.2.fld 8 7 0).testBit tgt)).map (·.1)
    let waits := (levelStream img level tgt).filter (fun p => isWait p.2 && p.2.fld 6 15 0 == t.token)
    (List.range waits.length).flatMap (fun w =>
      let upTo := ((waits.take (w + 1)).map (fun p => p.2.fld 9 7 0)).sum
      match waits[w]? with
      | some (j, _) => (posts.take upTo).map (fun i => ((t.source, i), (tgt, j)))
      | none => [])))
  let slotEdges := run.takes.flatMap (fun kv => List.zipWith (fun s t => (s, t)) (run.sends.getD kv.1 []) kv.2)
  sameCore ++ tokenEdges ++ slotEdges

/-- The happens-before edges at one Second level, from the abstract run at that level (R153). -/
def levelEdges (img : Image) (level : Nat) : List (Node × Node) :=
  hbEdges img level (absRun img level (absTotal img level + 1) { pos := [], posts := [], used := [], sends := [], takes := [] })

/-- Nodes reached from a set of nodes. -/
def reach (es : List (Node × Node)) : Nat → List Node → List Node
  | 0, seen => seen
  | fuel + 1, seen =>
    let more := ((es.filter (fun e => seen.contains e.1 && !seen.contains e.2)).map (·.2)).dedup
    if more.isEmpty then seen else reach es fuel (seen ++ more)

/-- Whether a precedes b. -/
def before (es : List (Node × Node)) (a b : Node) : Bool :=
  ((reach es (es.length + 1) ((es.filter (fun e => e.1 == a)).map (·.2)))).contains b

/-- Where check 7 fails: an entry of BELAY_MAP, or a descriptor of a core's stream (R147; notes/assumptions/23.md). -/
inductive BelayPlace where
  | entry (index : Nat)
  | desc (core index : Nat)
  deriving DecidableEq, Repr

/-- The first BELAY_MAP entry that breaks R141: token 0, tokens not ascending, no target. -/
def mapErr (img : Image) : Option BelayPlace :=
  (((List.range img.tokens.length).zip img.tokens).find? (fun p =>
    p.2.token == 0 || p.2.targets == 0 ||
    (decide (1 ≤ p.1) && match img.tokens[p.1 - 1]? with
      | some q => decide (p.2.token ≤ q.token)
      | none => false))).map (fun p => .entry p.1)

/-- Whether a BELAY descriptor of a core obeys R141, R149 and R150: its token has an entry; a POST comes from the source and
names targets of the entry; a WAIT stands on a target. -/
def belayOk (img : Image) (c : Nat) (d : Desc) : Bool :=
  d.kind != 8 ||
  (match img.tokens.find? (fun t => t.token == d.fld 6 15 0) with
    | none => false
    | some t =>
      if isPost d then t.source == c && d.fld 8 7 0 != 0 && (d.fld 8 7 0 &&& t.targets) == d.fld 8 7 0 && (d.fld 8 7 0 &&& img.coreSet) == d.fld 8 7 0
      else t.targets.testBit c)

/-- The first BELAY descriptor that breaks those rules. -/
def belayErr (img : Image) : Option BelayPlace :=
  img.cores.findSome? (fun c => ((img.stream c).findIdx? (fun d => !belayOk img c d)).map (fun i => .desc c i))

/-- Balance at one Second level (R153): for each token and target the posts equal the sum of the WAIT counts and number at most
65,535. The place is the first POST to, or WAIT of, an unbalanced target. -/
def balanceErr (img : Image) (level : Nat) : Option BelayPlace :=
  let streams := img.cores.map (fun c => (c, levelStream img level c))
  img.tokens.findSome? (fun t => (bitsSet t.targets).findSome? (fun tgt =>
    let uses (c : Nat) (d : Desc) : Bool := d.kind == 8 && d.fld 6 15 0 == t.token &&
      (if isPost d then (d.fld 8 7 0).testBit tgt else c == tgt)
    let mine := streams.flatMap (fun x => (x.2.filter (fun p => uses x.1 p.2)).map (fun p => (x.1, p.1, p.2)))
    let posts := (mine.filter (fun x => isPost x.2.2)).length
    let waits := ((mine.filter (fun x => isWait x.2.2)).map (fun x => x.2.2.fld 9 7 0)).sum
    if posts = waits ∧ posts ≤ 65535 then none else mine.head?.map (fun x => .desc x.1 x.2.1)))

/-- Progress at one Second level (R153): a core that stops before its END, with the descriptor it stops at. -/
def progressErr (img : Image) (level : Nat) (run : AbsRun) : Option BelayPlace :=
  img.cores.findSome? (fun c => ((levelStream img level c)[run.pos.getD c 0]?).map (fun p => .desc c p.1))

/-- Pairing (R152): a SEND that no consumer takes. Progress sees a consumer without its SEND. -/
def pairErr (run : AbsRun) : Option BelayPlace :=
  run.sends.findSome? (fun kv => (kv.2[(run.takes.getD kv.1 []).length]?).map (fun n => .desc n.1 n.2))

/-- Order at one Second level (R152, R153): two SENDs to one slot, two accesses to one scratchpad row, one of them cross-core, or two accesses
from different cores to overlapping bytes of a host window, that the relation leaves unordered. A step-window binding overlaps every
byte of every other window and of the other binding; two accesses through one binding reach one window and overlap where their bytes
do. The place is the later of the two by core and index. -/
def orderErr (img : Image) (level : Nat) (run : AbsRun) : Option BelayPlace :=
  let es := hbEdges img level run
  let ordered (a b : Node) : Bool := a == b || before es a b || before es b a
  let sendErr := run.sends.vals.findSome? (fun l =>
    ((l.zip l.tail).find? (fun p => !before es p.1 p.2)).map (fun p => .desc p.2.1 p.2.2))
  let nodes : List (Node × Node × List Access) := img.cores.flatMap (fun c => (levelStream img level c).map (fun p =>
    ((c, p.1), (if p.2.kind = 6 then (8, p.2.fld 8 15 0) else (c, p.1)), accesses img c p.2)))
  let isBind (w : Nat) : Bool := w == 0xFFFE || w == 0xFFFF
  let clash (a b : Node × Node × List Access) : Bool := a.2.2.any (fun x => b.2.2.any (fun y =>
    match x.core, y.core with
    | some _, some _ => (x.cross || y.cross) && x.meets y
    | none, none => a.1.1 != b.1.1 && (x.write || y.write) &&
        (if x.win == y.win then decide (x.lo < y.hi) && decide (y.lo < x.hi) else isBind x.win || isBind y.win)
    | _, _ => false))
  sendErr.or ((List.range nodes.length).findSome? (fun i => (nodes[i]?).bind (fun a =>
    if (nodes.take i).all (fun b => !clash a b || ordered a.2.1 b.2.1) then none else some (.desc a.1.1 a.1.2))))

/-- The proof of admission at one Second level: balance, progress, pairing and order (R152, R153). -/
def proofErr (img : Image) (level : Nat) : Option BelayPlace :=
  let run := absRun img level (absTotal img level + 1) { pos := [], posts := [], used := [], sends := [], takes := [] }
  match (balanceErr img level).or ((progressErr img level run).or (pairErr run)) with
  | some p => some p
  | none => orderErr img level run

/-- Check 7 of R146 after the reserved bits: the map, the BELAY descriptors, then the proof once for each Second level 0 to 3. -/
def belayPlace (img : Image) : Option BelayPlace :=
  match (mapErr img).or (belayErr img) with
  | some p => some p
  | none => [0, 1, 2, 3].findSome? (proofErr img)

/-- The byte total of check 9 (R146). -/
def budgetBytes (img : Image) : Nat :=
  (img.cores.map (fun c => ((img.stream c).map (fun d =>
    if d.kind = 5 ∧ (d.other = 2 ∨ d.other = 5) then
      let n := if d.gather ∨ d.other = 5 then d.scaled d.count img.maxBatch * d.itemBytes else d.length
      if d.moveFmt = 0xD then n / 256 * 180 else n
    else 0)).sum)).sum

def budgetDramFixed (b : Nat) : Nat := bitsOf b 63 0
def budgetDramPerStream (b : Nat) : Nat := bitsOf b 95 64
def budgetDramPerPos (b : Nat) : Nat := bitsOf b 127 96

/-- STATE writes of a region (0 STATE, 1 CHECKPOINT, 2 LOG): core, index and byte range (R178). -/
def stateWrites (img : Image) (rg : Nat) : List (Nat × Nat × Nat × Nat) :=
  img.cores.flatMap (fun c => ((List.range (img.stream c).length).zip (img.stream c)).filterMap (fun p =>
    if p.2.kind = 5 ∧ p.2.dst = 5 ∧ p.2.remote / 2 ^ 46 = rg then
      some (c, p.1, p.2.remote % 2 ^ 46, p.2.remote % 2 ^ 46 + p.2.itemBytes) else none))

/-- Whether byte ranges form one range from 0. -/
def fromZero (rs : List (Nat × Nat)) : Bool :=
  let top := (rs.map (·.2)).foldl max 0
  rs.isEmpty || ((rs.foldl (fun acc r => Ranges.removeRun acc r.1 (r.2 - r.1)) [(0, top)]).isEmpty)

/-- MOVEs with a KV_WALK side: core, index, descriptor. -/
def kvMoves (img : Image) : List (Nat × Nat × Desc) :=
  img.cores.flatMap (fun c => ((List.range (img.stream c).length).zip (img.stream c)).filterMap (fun p =>
    if p.2.kind = 5 ∧ p.2.other = 4 then some (c, p.1, p.2) else none))

/-- Rules of check 5 that join descriptors: rings, appends, KV geometry, STATE writes, collectives, SEND pairs (R88, R92, R120, R178,
R201, R202). None when all hold, else the first place found. The order that R178 and R202 ask for is R153's relation, which stands once for
each Second level 0 to 3: it must hold at every one. -/
def jointErr (img : Image) : Option (Nat × Nat) :=
  let kv := kvMoves img
  let levels := [0, 1, 2, 3].map (levelEdges img)
  let full := levelEdges img 3
  let indexed (c : Nat) := (List.range (img.stream c).length).zip (img.stream c)
  let ringErr := img.cores.findSome? (fun c =>
    let st := indexed c
    (st.find? (fun p =>
      (p.2.kind == 3 && !(match st.filter (fun q => q.2.kind == 5 && q.2.ring && q.2.fld 20 31 0 == p.2.fld 20 31 0) with
        | [q] => pairOk p.2 q.2
        | _ => false)) ||
      (p.2.kind == 5 && p.2.ring && (st.filter (fun q => q.2.kind == 3 && q.2.fld 20 31 0 == p.2.fld 20 31 0)).length != 1))).map
        (fun p => (c, p.1)))
  let kvErr := (List.range kv.length).findSome? (fun n =>
    match kv[n]?, kv.head? with
    | some x, some y =>
      let lane := x.2.2.remote % 65536
      if x.2.2.moveFmt ≠ y.2.2.moveFmt ∨ x.2.2.itemBytes ≠ y.2.2.itemBytes ∨
        (x.2.2.dst = 4 ∧ (kv.take n).any (fun z => z.2.2.dst == 4 && z.2.2.remote % 65536 == lane)) ∨
        (x.2.2.src = 4 ∧ kv.any (fun z => z.2.2.dst == 4 && z.2.2.remote % 65536 == lane &&
          levels.any (fun es => !before es (z.1, z.2.1) (x.1, x.2.1))))
      then some (x.1, x.2.1) else none
    | _, _ => none)
  let stErr := [0, 1, 2].findSome? (fun rg =>
    let ws := stateWrites img rg
    if rg = 2 ∨ fromZero (ws.map (fun w => (w.2.2.1, w.2.2.2))) then
      (List.range ws.length).findSome? (fun n => match ws[n]? with
        | some w => if (ws.take n).any (fun z => decide (z.2.2.1 < w.2.2.2) && decide (w.2.2.1 < z.2.2.2) &&
            levels.any (fun es => !before es (z.1, z.2.1) (w.1, w.2.1) && !before es (w.1, w.2.1) (z.1, z.2.1)))
          then some (w.1, w.2.1) else none
        | none => none)
    else ws.head?.map (fun w => (w.1, w.2.1)))
  let colls := img.cores.flatMap (fun c => (indexed c).filterMap (fun p => if p.2.kind = 6 then some (c, p.1, p.2) else none))
  let ids := (colls.map (fun x => x.2.2.fld 8 15 0)).dedup
  let sig (d : Desc) : Nat × Nat × Nat × Nat × Nat := (d.fld 4 1 0, d.fld 5 3 0, d.fld 6 7 0, d.fld 7 2 0, d.fld 12 31 0)
  let collErr := colls.findSome? (fun x =>
    let d := x.2.2
    let peers := colls.filter (fun y => y.2.2.fld 8 15 0 == d.fld 8 15 0)
    let earlierIds := (colls.filter (fun y => y.1 == x.1 && decide (y.2.1 < x.2.1))).map (fun y => y.2.2.fld 8 15 0)
    -- the first of the peers stands for the collective; a later one that differs is the place
    if (peers.head?.map (fun y => sig y.2.2)) != some (sig d) ||
      (peers.all (fun y => sig y.2.2 == sig d) && peers.map (·.1) != bitsSet (d.fld 6 7 0)) ||
      decide (ids.length ≤ d.fld 8 15 0) || earlierIds.any (fun k => decide (d.fld 8 15 0 ≤ k))
    then some (x.1, x.2.1) else none)
  -- the SENDs to a slot and its consumers carry equal LEVELs, in order
  let sendErr := img.cores.findSome? (fun c => (indexed c).findSome? (fun p =>
    if isSend p.2 then
      let t := p.2.fld 5 2 0
      let slot := p.2.fld 6 7 0
      let sends := img.cores.flatMap (fun x => ((indexed x).filter (fun q => isSend q.2 && q.2.fld 5 2 0 == t && q.2.fld 6 7 0 == slot)).map (fun q => (x, q.1, q.2)))
      let order := sends.filter (fun s => before full (s.1, s.2.1) (c, p.1))
      let takes := (indexed t).filter (fun q => isTake q.2 && q.2.fld 6 7 0 == slot)
      match takes[order.length]? with
      | some q => if q.2.fld 4 3 2 = p.2.fld 4 3 2 then none else some (c, p.1)
      | none => none
    else none))
  ringErr.or (kvErr.or (stErr.or (collErr.or sendErr)))

/-- Reserved bits of the entries of a typed section (R134, R138, R141 to R144). -/
def entryReserved (typ : Nat) (e : Bytes) : Bool :=
  match typ with
  | 2 => leAt e 4 1 < 4 && leAt e 5 1 == 0 && leAt e 8 8 == 0
  | 3 => leAt e 2 1 < 8 && leAt e 4 4 == 0
  | 4 => leAt e 8 8 == 0
  | 5 => leAt e 6 2 == 0 && leAt e 12 1 < 16 && leAt e 13 3 == 0 && leAt e 20 12 == 0
  | 6 => leAt e 44 20 == 0
  | _ => true

/-- Whether the pin demand of an image fits its workspace (R233). -/
def pinDemandOk (img : Image) : Bool :=
  let tiles := ((img.prefetch.filter (·.pin)).flatMap (fun p => (List.range p.tiles).map (fun i => p.addr / 65536 + i))).dedup
  decide (tiles.length + 8 * img.cores.length ≤ img.workspace)

/-- Checks 4 to 9 of R146 on an image whose check 1 has passed. `residents` gives the resident regions the context has, by
core × 65,536 + identifier (R140). -/
def checks4to9 (b : Bytes) (residents : AList (Nat × Nat)) : Option ImgErr :=
  let ss := readSections b
  let img := parseImage b
  let entryBytes (typ core : Nat) : List Bytes :=
    match findSect ss typ core with
    | some i => let s := sectAt ss i; (List.range s.entries).map (fun k => (b.drop (s.off + k * sectSize typ)).take (sectSize typ))
    | none => []
  let mk (st : BitVec 8) (typ core idx : Nat) : Option ImgErr :=
    some { status := st, sect := (findSect ss typ core).getD 0xFF, core := core, index := idx }
  let firstBad (l : List Bytes) (ok : Bytes → Bool) : Option Nat := l.findIdx? (fun e => !ok e)
  let c4 := (img.cores.findSome? (fun c => ((img.stream c).findIdx? (fun d => !fmtOk d)).bind (mk 0x43 1 c))).or
    ((firstBad (entryBytes 4 0xFF) (fun e => tableValid (e.take 8) && entryReserved 4 e)).bind (mk 0x43 4 0xFF))
  let c5 := (img.cores.findSome? (fun c => ((List.range (img.stream c).length).find? (fun i =>
      !descOk img c i ((img.stream c).getD i 0))).bind (mk 0x44 1 c))).or
    ((jointErr img).bind (fun p => mk 0x44 1 p.1 p.2))
  let footBad (c i : Nat) : Bool :=
    let es := img.foot c
    match es[i]? with
    | none => false
    | some e =>
      -- a rule between two entries fails at the later one
      let earlier := es.take i
      !(entryReserved 2 ((entryBytes 2 c).getD i [])) || e.kind == 3 || e.rows == 0 || decide (49152 < e.first + e.rows) ||
      (e.kind != 1 && e.rid != 0) ||
      earlier.any (fun x => (e.kind != 0 || x.kind != 0) && (Region.mk e.first e.rows).overlaps (Region.mk x.first x.rows)) ||
      (e.kind == 1 && earlier.any (fun x => x.kind == 1 && x.rid == e.rid)) ||
      (e.kind == 2 && (earlier.any (fun x => x.kind == 2) ||
        decide (e.rows < 1 + cdiv img.maxBatch 32 + cdiv (img.maxBatch * img.tps) 32))) ||
      (e.kind == 1 && (match residents.get? (c * 65536 + e.rid) with | some r => r != (e.first, e.rows) | none => false))
  -- a descriptor of core x that writes a row of c's DISPATCH region; of a gathered remote side the rows are known only at run time
  let dispatchWrite (c : Nat) : Option (Nat × Nat) :=
    let dr := img.dispatchRegion c
    img.cores.findSome? (fun x => ((img.stream x).findIdx? (fun d =>
      (if d.kind == 5 && d.gather then rowAccess x d.localReg d.loads else accesses img x d).any (fun a =>
        a.write && a.core == some c && decide (a.lo < dr.first + dr.rows) && decide (dr.first < a.hi)))).map (fun i => (x, i)))
  let c6 := img.cores.findSome? (fun c =>
    let es := img.foot c
    match (List.range es.length).find? (footBad c) with
    | some i => mk 0x45 2 c i
    | none =>
      if !(es.any (fun e => e.kind == 2)) then mk 0x45 2 c 0xFFFFFFFF
      else (dispatchWrite c).bind (fun p => mk 0x45 1 p.1 p.2))
  let c7 :=
    match firstBad (entryBytes 3 0xFF) (entryReserved 3) with
    | some i => mk 0x46 3 0xFF i
    | none => match belayPlace img with
      | none => none
      | some (.entry i) => mk 0x46 3 0xFF i
      | some (.desc c i) => mk 0x46 1 c i
  let prefBad (i : Nat) : Bool :=
    match img.prefetch[i]? with
    | none => false
    | some p => !(entryReserved 5 ((entryBytes 5 0xFF).getD i [])) || p.addr % 65536 != 0 || p.tiles == 0 ||
        decide (2 ^ 48 < p.addr + p.tiles * 65536) || !(img.coreSet.testBit p.core) || decide ((img.stream p.core).length ≤ p.desc)
  let c8 := match (List.range img.prefetch.length).find? prefBad with
    | some i => mk 0x47 5 0xFF i
    | none => if pinDemandOk img then none else mk 0x47 5 0xFF 0xFFFFFFFF
  let c9 :=
    if !(entryReserved 6 ((entryBytes 6 0xFF).headD [])) ||
      decide (budgetDramFixed img.budget + budgetDramPerStream img.budget * img.maxBatch < budgetBytes img) ||
      bitsOf img.budget 319 256 == 0 then mk 0x48 6 0xFF 0 else none
  c4.or (c5.or (c6.or (c7.or (c8.or c9))))

/-- The KV and STATE facts that admission records with an image (R180, R181, R202). -/
def Image.withFacts (img : Image) : Image :=
  let kv := kvMoves img
  { img with
    kvFmt := (kv.head?.map (fun x => x.2.2.moveFmt)).getD 0
    kvItem := (kv.head?.map (fun x => x.2.2.itemBytes)).getD 0
    walkLanes := (kv.filter (fun x => x.2.2.src == 4)).map (fun x => x.2.2.remote % 65536)
    appendLanes := (kv.filter (fun x => x.2.2.dst == 4)).map (fun x => x.2.2.remote % 65536)
    writesState := !(stateWrites img 0).isEmpty
    anchoring := !(stateWrites img 1).isEmpty }

end Sys2Proof.Machine
end

