-- ==== Sys2Proof/Machine/TierState.lean ====
section
/-!
DEFINITION. Machine/TierState.lean: segments and tile descriptors (R221 to R230), model objects (R239, R243, R374), frames (R226,
R227), host windows (R354), the KV pool (R189 to R208) and stream entries (R174).
-/
namespace Sys2Proof.Machine

/-- Tile states (R229). -/
inductive TileSt where
  | zero | lower | promoting | upper | evictPending | demoting | poisoned
  deriving DecidableEq, Repr

/-- One index entry of a demoted block (R259). -/
structure SpillIx where
  crc : Nat
  offset : Nat
  raw : Bool
  len64 : Nat
  deriving DecidableEq, Repr

/-- A tile descriptor (R229). `evictAt` is the number of steps dispatched when its eviction was decided (R232). -/
structure Tile where
  st : TileSt
  dirty : Bool
  ref : Bool
  fmt : Nat
  pins : Nat
  slot : Nat
  digest : Nat
  evictAt : Nat
  /-- A demoted tile's 16 index entries; none when it has never been demoted (R259). -/
  index : List SpillIx
  /-- Digest failures on reads of the flash master (R243). -/
  fails : Nat
  deriving DecidableEq, Repr

def Tile.fresh (st : TileSt) (fmt digest : Nat) : Tile :=
  { st := st, dirty := false, ref := false, fmt := fmt, pins := 0, slot := 0, digest := digest, evictAt := 0,
    index := [], fails := 0 }

inductive SegKind where
  | dram | tiered | model | host
  deriving DecidableEq, Repr

def SegKind.code : SegKind → Nat
  | .dram => 1 | .tiered => 2 | .model => 3 | .host => 4

/-- A mapped segment (R223). `poison` lists the POISONED tiles of a DRAM segment; `noFrame` tells that it is mapped to no frame
(R294). -/
structure Seg where
  kind : SegKind
  stream : Bool
  prot : Bool
  handle : Nat
  serial : Nat
  lower : Nat
  tiles : List Tile
  poison : List Nat
  noFrame : Bool
  deriving DecidableEq, Repr

/-- A tile of an installed model (R229, R239): stored format and digest. -/
structure ModelTile where
  fmt : Nat
  digest : Nat
  /-- The decode-table generation (slot × 4 + generation) a Ridge-16 tile names. -/
  gen : Option Nat
  deriving DecidableEq, Repr

/-- An installed model object (R239, R374). `units` are the 2 MiB units of the model partition that hold its segments (R321). `tables` are decode-table store
references (slot, generation), by table index. -/
structure Model where
  func : Nat
  tag : Nat
  serial : Nat
  segs : Nat
  units : List Nat
  damaged : Bool
  attached : Option Nat
  prot : Bool
  nonce : Bytes
  digest : Bytes
  tables : AList (Nat × Nat)
  tiles : List ModelTile
  deriving DecidableEq, Repr

/-- What a DRAM frame is used for (R226, R227). -/
inductive FrameUse where
  | firmware
  | segment (ctx seg : Nat)
  /-- A cache frame with the tiles in its slots. -/
  | cache (ctx : Nat) (borrowed : Bool) (slots : AList (Nat × Nat))
  /-- Images, KV metadata, tier tables, MAC stores and stream entries of a context. -/
  | charged (ctx : Nat)
  | zeroing (next : Option (Nat × Nat))
  /-- A reclaimed and zeroed frame that waits for its claimant (R227). -/
  | kept (ctx : Nat)
  deriving DecidableEq, Repr

/-- A host window (R354). -/
structure Window where
  addr : Nat
  len : Nat
  pasid : Option Nat
  deriving DecidableEq, Repr

/-- A sequence record (R191). -/
structure SeqRec where
  length : Nat
  base : Nat
  groups : Nat
  binds : Nat
  deriving DecidableEq, Repr

/-- A context's KV pool (R189 to R208). `list` holds the entries that name a page, `counts` the pages with a count above 0, `prov`
the provisional pages of dispatched steps, and `holds` the epochs held by transfers, each with its holder. -/
structure KvPool where
  base : Nat
  pages : Nat
  headDim : Nat
  fmt : Nat
  lanes : Nat
  maxSeqs : Nat
  entries : Nat
  epoch : Nat
  list : AList Nat
  counts : AList Nat
  prov : List Nat
  limbo : List (Nat × Nat)
  holds : List (Nat × Nat)
  seqs : AList SeqRec
  deriving DecidableEq, Repr

/-- Element width of the pool in bytes, and positions per page (R190). -/
def KvPool.w (k : KvPool) : Nat := if k.fmt ≤ 2 then 2 else 1
def KvPool.p (k : KvPool) : Nat := 8192 / (k.headDim * k.w)
def KvPool.freePages (k : KvPool) : Nat := k.pages - k.counts.length - k.prov.length - k.limbo.length
def KvPool.isFree (k : KvPool) (n : Nat) : Bool :=
  !k.counts.has n && !k.prov.contains n && !k.limbo.any (fun l => l.1 == n)

/-- The n lowest free pages. -/
def KvPool.take (k : KvPool) (n : Nat) : List Nat :=
  ((List.range (k.counts.length + k.prov.length + k.limbo.length + n)).filter (fun i => decide (i < k.pages) && k.isFree i)).take n

/-- Entry (group, lane) of a sequence (R191). -/
def KvPool.entry (k : KvPool) (s : SeqRec) (group lane : Nat) : Option Nat := k.list.get? (s.base + group * k.lanes + lane)

/-- Sends pages to limbo, and counts the epoch when any was sent (R197, R208). -/
def KvPool.toLimbo (k : KvPool) (ps : List Nat) : KvPool :=
  if ps.isEmpty then k
  else { k with limbo := k.limbo ++ ps.map (fun p => (p, k.epoch)), prov := k.prov.filter (fun p => !ps.contains p), epoch := k.epoch + 1 }

/-- Limbo pages that no transfer at or below their stamp still holds join the free list (R208). -/
def KvPool.release (k : KvPool) : KvPool :=
  { k with limbo := k.limbo.filter (fun l => k.holds.any (fun h => decide (h.1 ≤ l.2))) }

/-- Decrements the pages named by some entries: the pool, and the pages whose count reached 0. -/
def KvPool.decr (k : KvPool) (ps : List Nat) : KvPool × List Nat :=
  ps.foldl (fun acc p =>
    let c := acc.1.counts.getD p 0
    if c ≤ 1 then ({ acc.1 with counts := acc.1.counts.erase p }, acc.2 ++ [p])
    else ({ acc.1 with counts := acc.1.counts.set p (c - 1) }, acc.2)) (k, [])

/-- A stream-table entry (R174). -/
structure Strm where
  base : Nat
  tiles : Nat
  position : Nat
  kind : Nat
  prec : Nat
  paused : Bool
  resetPending : Bool
  cur : Bool
  ckptCur : Bool
  zero : Bool
  ckptZero : Bool
  anchorDue : Bool
  kvSeq : Nat
  ctx : Nat
  anchorPeriod : Nat
  anchorPos : Nat
  logTiles : Nat
  deriving DecidableEq, Repr

/-- The value of KV_SEQ that names no record. -/
def noSeq : Nat := 0xFFFFFFFF

/-- The 32 bytes of an entry (R174); an open entry has VALID set. -/
def Strm.bytes (s : Strm) : Bytes :=
  toLe (packBits [(0, s.base), (48, s.tiles), (64, s.position), (104, s.kind), (108, s.prec), (112, 1), (113, b2n s.paused),
    (114, b2n s.resetPending), (115, b2n s.cur), (116, b2n s.ckptCur), (117, b2n s.zero), (118, b2n s.ckptZero),
    (119, b2n s.anchorDue), (128, s.kvSeq), (160, s.ctx), (176, s.anchorPeriod), (192, s.anchorPos), (232, s.logTiles)]) 32

/-- Width in bits of a state precision (R174). -/
def precWidth (p : Nat) : Nat := if p = 0 then 32 else 16

/-- Tiles of one checkpoint buffer (R175). -/
def Strm.ckTiles (s : Strm) : Nat := if s.anchorPeriod = 0 then 0 else s.tiles * 32 / precWidth s.prec

/-- Tiles of the whole state area (R175). -/
def Strm.areaTiles (s : Strm) : Nat := 2 * s.tiles + 2 * s.ckTiles + s.logTiles

/-- The keys, session and counters of a context (R364 to R381, R393). -/
structure CtxSec where
  nonce : Bytes
  ephPriv : Option Bytes
  ephUsed : Bool
  report : Bytes
  h2t : Option Bytes
  t2h : Option Bytes
  h2tGen : Nat
  t2hGen : Nat
  t2hCnt : Nat
  /-- ECDH secret and report digest of the session, from which later generations derive (R364). -/
  secret : Bytes
  salt : Bytes
  authFail : BitVec 16
  macFail : BitVec 16
  events : List (Nat × Nat)
  deriving DecidableEq, Repr

def CtxSec.fresh (nonce : Bytes) : CtxSec :=
  { nonce := nonce, ephPriv := none, ephUsed := false, report := [], h2t := none, t2h := none, h2tGen := 0, t2hGen := 0, t2hCnt := 0,
    secret := [], salt := [], authFail := 0, macFail := 0, events := [] }

/-- States of a decode-table generation (R254). -/
inductive GenState where
  | free | live | retiring
  deriving DecidableEq, Repr

def GenState.code : GenState → Nat
  | .free => 0 | .live => 1 | .retiring => 2

/-- One generation of a decode-table slot. -/
structure Gen where
  state : GenState
  table : Bytes
  holds : Nat
  deriving DecidableEq, Repr

def Gen.fresh : Gen := { state := .free, table := [], holds := 0 }

/-- The decode-table store and the compression counters (R254, R266). -/
structure Cmp where
  gens : AList Gen
  selSlot : BitVec 4
  selGen : BitVec 2
  ridgeFail : BitVec 16
  talusFail : BitVec 16
  deriving DecidableEq, Repr

def Cmp.fresh : Cmp := { gens := [], selSlot := 0, selGen := 0, ridgeFail := 0, talusFail := 0 }

def Cmp.gen (c : Cmp) (k : Nat) : Gen := c.gens.getD k Gen.fresh

end Sys2Proof.Machine
end

