-- ==== Sys2Proof/Machine/CtxState.lean ====
section
/-!
DEFINITION. Machine/CtxState.lean: contexts (R352, R361) with their resident regions (R140, R435, R436), check policy (R428, R429),
replay capture (R443) and Cairn setting (R422), admitted images (R131), and steps that wait, are dispatched or run (R154 to R159).
-/
namespace Sys2Proof.Machine

/-- A resident region of a context (R140, R435, R436). -/
structure Resident where
  first : Nat
  rows : Nat
  /-- Device address and tile count of its registration (R435). -/
  reg : Option (Nat × Nat)
  /-- A step of the context has committed since the registration (R435). -/
  armed : Bool
  lost : Bool
  /-- Its copy failed in a spare switch, and the next step of the context has not faulted for it yet (R97). -/
  owed : Bool
  deriving DecidableEq, Repr

/-- A replay capture (R443 to R447). -/
structure Replay where
  active : Bool
  full : Bool
  win : Nat
  off : Nat
  len : Nat
  written : Nat
  records : Nat
  reason : Nat
  /-- Commands whose COMMAND records wait for the image of a SCHED_LOAD fetched before them (R445). -/
  held : List Nat
  deriving DecidableEq, Repr

def Replay.idle : Replay := { active := false, full := false, win := 0, off := 0, len := 0, written := 0, records := 0, reason := 0, held := [] }

/-- A Cairn trace window (R422). -/
structure Cairn where
  win : Nat
  off : Nat
  len : Nat
  deriving DecidableEq, Repr

/-- The DRAM copy of an image: where its tiles lie, as frame × 32 + tile of the frame, and those of them that are POISONED (R129, R244). -/
structure ImgCopy where
  places : List Nat
  lost : List Nat
  deriving DecidableEq, Repr

/-- A context. -/
structure Ctx where
  func : Nat
  /-- STATE of CTX_STATE: 1 ACTIVE, 2 FAULTED, 3 RESETTING. -/
  state : BitVec 2
  cls : Nat
  confidential : Bool
  isolated : Bool
  borrow : Bool
  partition : Nat
  cores : Nat
  /-- Stream-table reservation: first entry and size (R173). -/
  first : Nat
  size : Nat
  guarantee : Nat
  spill : Nat
  /-- The step sequence number of the next dispatch (R158). -/
  seq : Nat
  viol : BitVec 32
  skip : BitVec 32
  strmEv : EvReg
  kvEv : EvReg
  tierEv : EvReg
  windows : AList Window
  segs : AList Seg
  kv : Option KvPool
  /-- The clock hand: segment and tile it looks at next (R235). -/
  hand : Nat × Nat
  setLevel : Nat
  setMask : Nat
  level : Nat
  mask : Nat
  reexecs : Nat
  checkFaults : Nat
  expels : Nat
  /-- Resident regions by core × 65,536 + identifier. -/
  residents : AList Resident
  replay : Replay
  /-- Creation ordinal of the context's next queue (R444). -/
  ordinal : Nat
  cairn : Option Cairn
  /-- The setting of the last CAIRN_SET, in force from the next dispatch (R422). -/
  cairnNext : Option Cairn
  cairnSeq : Nat
  cairnDrop : BitVec 16
  sec : CtxSec
  /-- Kinds of 64 KiB tiles charged to the guarantee: images, workspaces, stream entries, KV metadata, tier tables (R226, R485). -/
  charges : AList Nat
  /-- Copies of the admitted images, by handle slot (R129, R137). -/
  copies : AList ImgCopy
  deriving DecidableEq, Repr

/-- The handle table (R131, R480): admitted images by slot, and the next generation of each slot; a slot whose next generation is
2^19 is retired. -/
structure Images where
  imgs : AList Image
  nextGen : AList Nat
  deriving DecidableEq, Repr

/-- A token descriptor (R155). -/
structure Token where
  stream : Nat
  reset : Bool
  token : Nat
  seed : Nat
  deriving DecidableEq, Repr

/-- How far a step has come: it waits, its dispatch is being prepared, it runs, it is ready to commit, or it has faulted and waits for
its outcome. -/
inductive StepStage where
  | waiting | dispatched | running | ready | faulting
  deriving DecidableEq, Repr

/-- A provisional page of a dispatched step (R205): the record, group and lane that it will serve, and the page it copies. -/
structure Prov where
  record : Nat
  group : Nat
  lane : Nat
  page : Nat
  copies : Option Nat
  deriving DecidableEq, Repr

/-- A submitted step (R154 to R159). -/
structure StepRec where
  fid : Nat
  q : QRef
  ctx : Nat
  handle : Nat
  gen : Nat
  b : Nat
  tokens : List Token
  streams : List Nat
  inWin : Nat
  inOff : Nat
  outWin : Nat
  outOff : Nat
  stage : StepStage
  seq : Nat
  /-- Steps dispatched on the tile before this one (R232). -/
  ord : Nat
  cores : List Nat
  level : Nat
  mask : Nat
  reexecs : Nat
  /-- Faults of the step by class (R437). -/
  faults : AList Nat
  prov : List Prov
  /-- Pins the step holds until it ends, as (segment, tile) (R143, R232). -/
  pins : List (Nat × Nat)
  flags : Flags
  fault : Option FaultRec
  /-- Cores whose known-answer test must end before the re-execution (R440). -/
  kat : List Nat
  /-- Sums of R446: HOST_IN, MODEL_IN, STATE_IN, KV_IN, OTHER_IN, HOST_OUT, STATE_OUT, OTHER_OUT. -/
  digests : List Nat
  /-- Host-window blocks that the step read, by window × 2^64 + offset ÷ 64 (R445). -/
  pages : AList Bytes
  /-- STATE writes of the step, as (stream, region): 0 STATE, 1 CHECKPOINT (R180). -/
  wrote : List (Nat × Nat)
  /-- Prefetches that wait, as (segment, tile, PIN): for a demotion to end, for a slot, or for a pin (R143, R231, R232). -/
  wants : List (Nat × Nat × Bool)
  /-- Moment since which the step waits to be dispatched (R29). -/
  since : Nat
  /-- The copies that F1 makes before the start token (R205). -/
  job : CopyJob := CopyJob.none
  deriving DecidableEq, Repr

/-- The steps by submission number, and the dispatch arbiter (R29, R145): the class being granted, the grants it has had, the queue
granted last, and the bucket of each class in bytes. -/
structure Steps where
  list : AList StepRec
  next : Nat
  wrrClass : Nat
  wrrUsed : Nat
  lastQueue : AList Nat
  buckets : List Int
  /-- Moment at which the bucket of a class last turned non-negative (R145). -/
  bucketSince : List Nat
  /-- The class being granted, and the grants it has had, in the dispatch of waiting steps (R24, R29). -/
  dispClass : Nat
  dispUsed : Nat
  /-- Steps dispatched so far (R232). -/
  dispatched : Nat
  deriving DecidableEq, Repr

def Steps.fresh : Steps :=
  { list := [], next := 0, wrrClass := 0, wrrUsed := 0, lastQueue := [], buckets := [0, 0, 0, 0], bucketSince := [0, 0, 0, 0],
    dispClass := 0, dispUsed := 0, dispatched := 0 }

def StepRec.live (r : StepRec) : Bool := r.stage != .waiting

/-- The fetched commands in fetch order, and the number of the next (R183). -/
structure Cmds where
  list : List Cmd
  next : Nat
  deriving DecidableEq, Repr

def Cmds.find (c : Cmds) (fid : Nat) : Option Cmd := c.list.find? (fun x => x.fid == fid)

/-- A promotion that outlives its segment (R240, R254): its tile, the cache slot it fills and the decode-table generation it names. -/
structure Ghost where
  ctx : Nat
  seg : Nat
  tile : Nat
  slot : Nat
  gen : Option Nat
  deriving DecidableEq, Repr

/-- Use of the DRAM frames (R226): a frame that is not listed is free. -/
structure Tier where
  frames : AList FrameUse
  /-- Promotions under way, as (context, segment, tile) (R230). -/
  promos : List (Nat × Nat × Nat)
  /-- Demotions under way. -/
  demos : List (Nat × Nat × Nat)
  /-- Spill extents in use by context (R236). -/
  extents : AList (List Nat)
  /-- Tier port granted last, by physical core (R29). -/
  port : Nat
  /-- Frames that are being reclaimed, each with the context it passes to (R227). -/
  claims : AList Nat
  /-- DRAM segments of a withdrawn rank that wait for a frame whose quad is down, as (context, segment) (R294, R299). -/
  unplaced : List (Nat × Nat)
  /-- Promotions under way whose MODEL segment has been unmapped (R254). -/
  ghosts : List Ghost
  /-- The MODEL_INSTALL that waits for a decode table (R245, R255). -/
  installing : Option Nat
  deriving DecidableEq, Repr

def Tier.fresh : Tier :=
  { frames := [], promos := [], demos := [], extents := [], port := 8, claims := [], unplaced := [], ghosts := [], installing := none }

end Sys2Proof.Machine
end

