-- ==== Sys2Proof/Machine/Dram.lean ====
section
/-!
DEFINITION. Machine/Dram.lean: the DRAM subsystem's state (R267 to R301) and the operations on it: frame placement (R269 to
R271), block reads and writes (R274, R275, R280, R292), read choice (R278), write drains (R279), refresh debt (R283),
retraining (R286 to R289), rank retirement (R290 to R294), quad power (R297 to R299).
-/
namespace Sys2Proof.Machine

/-- A read that a channel has taken, with its class and who made it (R276, R277). `kept` is the block as it stood when a later write of it reached
the array (R280). -/
structure DramRead where
  rank : Nat
  block : Nat
  cls : Nat
  who : Requester
  tag : Nat
  kept : Option (Option Bytes)
  deriving DecidableEq, Repr

/-- A queued write of one block (R276). -/
structure DramWrite where
  rank : Nat
  block : Nat
  data : Bytes
  deriving DecidableEq, Repr

/-- State of a bank quad (R297, R299). -/
inductive QuadState where
  | on
  | closing (upPending : Bool)
  | off
  | rising
  deriving DecidableEq, Repr

/-- A retraining under way: slices done, whether a slice runs, and whether it is the second attempt (R287, R289). -/
structure Training where
  slices : Nat
  inSlice : Bool
  second : Bool
  deriving DecidableEq, Repr

/-- One channel controller (R276 to R301). -/
structure DramChan where
  /-- STATE of DRAM_CH_STATUS: 0 SERVING, 1 TRAINING, 2 SWITCHING, 3 DOWN. -/
  state : BitVec 2
  reads : List DramRead
  issued : List DramRead
  writes : List DramWrite
  /-- Open rows: (rank × 16 + bank group × 4 + bank, row) (R281). -/
  openRows : AList Nat
  /-- Refresh debt of each bank, and its debt of refresh management commands, which follow the same rules (R283). -/
  debt : AList Nat
  rfmDebt : AList Nat
  rate : BitVec 4
  ce : BitVec 16
  ue : BitVec 8
  pnr : BitVec 32
  /-- Activated (bank, row) pairs whose neighbour refresh is scheduled (R284). -/
  pnrDue : List (Nat × Nat)
  trainCnt : BitVec 8
  /-- Weighted round-robin: the class being granted and the grants it has had in the round (R278). -/
  wrrClass : Nat
  wrrUsed : Nat
  training : Option Training
  due : Bool
  /-- The temperature last reported, and the one at the last training (R286). -/
  temp : Int
  tempAtTrain : Int
  lastTrain : Nat
  retired0 : Bool
  retired1 : Bool
  /-- Quads of rank 0, then of rank 1. -/
  quads : List QuadState
  /-- Corrected errors as (time, rank, block), and corrected blocks waiting for rewrite (R274, R286, R290). -/
  ceLog : List (Nat × Nat × Nat)
  /-- Ranks on which an uncorrectable error that is no poisoned slot has been read (R290). -/
  ueRanks : List Nat
  /-- Frames that the tier engine reported, as (time, rank, block): copies that had to be discarded or expelled (R242, R434). -/
  reports : List (Nat × Nat × Nat)
  /-- Blocks whose poison bit the next write drain sets: POISON and POISON_INV disagreed on them (R274). -/
  repoison : List Nat
  /-- Whether sustained errors of the whole channel have already led to a retraining (R290). -/
  retrained : Bool
  deriving DecidableEq, Repr

/-- One channel group (R269, R291, R301). -/
structure DramGroup where
  spareCh : BitVec 2
  spareRank : Bool
  /-- SPARE_STATE: 0 READY, 1 RECLAIMING, 2 MIGRATING, 3 IN_USE. -/
  spareState : BitVec 2
  retired : Option (Nat × Bool)
  serviceBusy : Bool
  serviceCh : BitVec 2
  migProgress : BitVec 10
  partition : BitVec 4
  deriving DecidableEq, Repr

/-- The DRAM subsystem. -/
structure Dram where
  /-- Bytes of every block, by ((channel × 2 + rank) × 31,457,280 + block) × 64 + byte. -/
  data : Mem
  /-- Poisoned blocks, by (channel × 2 + rank) × 31,457,280 + block (R272, R274). -/
  poison : List Nat
  /-- Blocks that the patrol scrub has reported uncorrectable; the tier engine deals with them when they are next read (R285). -/
  bad : List Nat
  /-- Blocks whose contents are undefined since a power-up of their quad, and the number of power-ups of each quad (R299). -/
  wild : Ranges
  wildGen : AList Nat
  chans : List DramChan
  groups : List DramGroup
  speed : BitVec 2
  fspOk : BitVec 3
  /-- A set-point change under way: the target and the channel that switches (R295). -/
  change : Option (BitVec 2 × Nat)
  violCnt : BitVec 32
  /-- Next block of the patrol scrub (R285). -/
  patrol : Nat
  /-- Answers of reads, oldest first: (tag, the block, or none when uncorrectable) (R274). -/
  answers : List (Nat × Option Bytes)
  deriving DecidableEq, Repr

def rankBlocks : Nat := 31457280
def rankFrames : Nat := 960
def frameBlocks : Nat := 32768
def frameBytes : Nat := 2097152
def tileBytes : Nat := 65536
def groupFrames : Nat := 7200
def allFrames : Nat := 57600

def DramChan.fresh (spareRank : Option Nat) : DramChan :=
  let q (r : Nat) : List QuadState :=
    if spareRank = some r then [.on, .on, .off, .off] else [.on, .on, .on, .on]
  { state := 0, reads := [], issued := [], writes := [], openRows := [], debt := [], rfmDebt := [], rate := 0,
    ce := 0, ue := 0, pnr := 0, pnrDue := [], trainCnt := 0, wrrClass := 0, wrrUsed := 0, training := none, due := false, temp := 0, tempAtTrain := 0,
    lastTrain := 0,    retired0 := false, retired1 := false, quads := q 0 ++ q 1, ceLog := [], ueRanks := [], reports := [], repoison := [],
    retrained := false }

def DramGroup.fresh (partition : BitVec 4) : DramGroup :=
  { spareCh := 3, spareRank := true, spareState := 0, retired := none, serviceBusy := false, serviceCh := 0, migProgress := 0,
    partition := partition }

/-- The DRAM subsystem after boot training, with the spare rank of R269 in every group. -/
def Dram.fresh : Dram :=
  { data := [], poison := [], bad := [], wild := [], wildGen := [], chans := (List.range 32).map (fun c => DramChan.fresh (if c % 4 = 3 then some 1 else none)),
    groups := List.replicate 8 (DramGroup.fresh 0), speed := 0, fspOk := 7, change := none, violCnt := 0, patrol := 0, answers := [] }

def Dram.chan (d : Dram) (c : Nat) : DramChan := d.chans.getD c (DramChan.fresh none)
def Dram.group (d : Dram) (g : Nat) : DramGroup := d.groups.getD g (DramGroup.fresh 0)
def Dram.setChan (d : Dram) (c : Nat) (f : DramChan → DramChan) : Dram := { d with chans := d.chans.modify c f }
def Dram.setGroup (d : Dram) (g : Nat) (f : DramGroup → DramGroup) : Dram := { d with groups := d.groups.modify g f }

/-- The first channel from c on that is not DOWN. -/
def Dram.nextChan (d : Dram) (c : Nat) : Option Nat := ((List.range 32).drop c).find? (fun i => (d.chan i).state != 3)

/-- Begins the switch of the next channel of a set-point change: its rows close and it holds its queues; after the last channel the tile is
at the target (R295). -/
def Dram.switchFrom (d : Dram) (target : BitVec 2) (c : Nat) : Dram :=
  match d.nextChan c with
  | some i => { d.setChan i (fun x => { x with state := 2, openRows := [] }) with change := some (target, i) }
  | none => { d with change := none, speed := target }

/-- The highest set point, from `top` down, that every channel passed (R267, R268). When none of those passed, the nearest faster one that did
(notes/assumptions/50.md). -/
def Dram.allowed (d : Dram) (top : Nat) : BitVec 2 :=
  BitVec.ofNat 2 ((((List.range 3).drop top ++ (List.range top).reverse).find? (fun i => d.fspOk.toNat.testBit i)).getD top)

/-- Rank index within its group of the spare rank. -/
def DramGroup.spareIdx (g : DramGroup) : Nat := g.spareCh.toNat * 2 + b2n g.spareRank

/-- The home position of a frame: (channel, rank, frame within the rank), before any retirement (R270). -/
def Dram.frameHome (d : Dram) (f : Nat) : Nat × Nat × Nat :=
  let g := f / groupFrames
  let k := f % groupFrames
  let sp := (d.group g).spareIdx
  let r := if k < sp * rankFrames then (k / rankFrames, k % rankFrames)
    else if k < sp * rankFrames + 480 then (sp, k - sp * rankFrames)
    else ((k + 480) / rankFrames, (k + 480) % rankFrames)
  (g * 4 + r.1 / 2, r.1 % 2, r.2)

/-- Whether a frame number is one of the lendable frames of its group (R269). -/
def Dram.lendable (d : Dram) (f : Nat) : Bool :=
  let h := d.frameHome f
  let g := d.group (f / groupFrames)
  h.1 % 4 * 2 + h.2.1 == g.spareIdx

/-- Where a frame lies now: the spare rank once its rank is retired and the frame is copied (R270, R291). -/
def Dram.frameLoc (d : Dram) (f : Nat) : Nat × Nat × Nat :=
  let h := d.frameHome f
  let g := d.group (f / groupFrames)
  match g.retired with
  | some (ch, rk) =>
    if h.1 % 4 = ch ∧ h.2.1 = b2n rk ∧ (g.spareState = 3 ∨ (g.spareState = 2 ∧ h.2.2 < g.migProgress.toNat)) then
      (f / groupFrames * 4 + g.spareCh.toNat, b2n g.spareRank, h.2.2)
    else h
  | none => h

/-- The block index in its rank of block b of frame f of the rank (R271, R273). -/
def blockIndex (f b : Nat) : Nat := f % 240 * frameBlocks + b + f / 240 * (240 * frameBlocks)

/-- Bank (as rank × 16 + bank group × 4 + bank) and row of a block index (R271). -/
def blockBank (rank idx : Nat) : Nat × Nat :=
  let x := idx % (240 * frameBlocks)
  (rank * 16 + x % 4 * 4 + idx / (240 * frameBlocks), x / 4 / 30)

/-- Data slot of a block index within its row (R271). -/
def blockSlot (idx : Nat) : Nat := idx % (240 * frameBlocks) / 4 % 30

/-- Block index in its rank of a slot of a row of a bank, given as bank group × 4 + bank (R271). -/
def slotBlock (bank row slot : Nat) : Nat := ((row * 30 + slot) * 4 + bank / 4) + bank % 4 * (240 * frameBlocks)

def blockKey (c rank idx : Nat) : Nat := (c * 2 + rank) * rankBlocks + idx

def Dram.keyOf (d : Dram) (frame b : Nat) : Nat :=
  let l := d.frameLoc frame
  blockKey l.1 l.2.1 (blockIndex l.2.2 b)

def keyChan (k : Nat) : Nat := k / rankBlocks / 2
def keyRank (k : Nat) : Nat := k / rankBlocks % 2
def keyIdx (k : Nat) : Nat := k % rankBlocks

/-- The newest queued write to a block (R280). -/
def Dram.queued (d : Dram) (k : Nat) : Option Bytes :=
  ((d.chan (keyChan k)).writes.filter (fun w => w.rank == keyRank k && w.block == keyIdx k)).getLast?.map (·.data)

/-- The data bytes that the array holds in a block's slot, whatever its poison bit says (R272, R299). -/
def Dram.cells (d : Dram) (k : Nat) : Bytes :=
  if Ranges.has d.wild k then fixLen 64 (Config.dramWild (d.wildGen.getD (k / (240 * frameBlocks)) 0) k) else d.data.readN (k * 64) 64

/-- The bytes that the array returns for a block; none when it is poisoned, was reported uncorrectable, or the channel is DOWN (R274, R285,
R289). -/
def Dram.array (d : Dram) (k : Nat) : Option Bytes :=
  if (d.chan (keyChan k)).state = 3 ∨ d.poison.contains k ∨ d.bad.contains k then none else some (d.cells k)

/-- The bytes a read of a block returns that arrives now: the newest queued write, else the array (R280). -/
def Dram.readKey (d : Dram) (k : Nat) : Option Bytes :=
  match d.queued k with
  | some b => some b
  | none => d.array k

/-- POISON of a row, given by the key of its rank's block 0, its bank and its number (R272). POISON_INV is its complement. -/
def Dram.poisonWord (d : Dram) (base bank row : Nat) : Nat :=
  ((List.range 30).map (fun s => if d.poison.contains (base + slotBlock bank row s) then 2 ^ s else 0)).sum

/-- Reads that wait for blocks which are about to be written keep what those blocks hold (R280). -/
def Dram.keepReads (d : Dram) (c : Nat) (hit : Nat → Bool) : Dram :=
  let mine (r : DramRead) : Bool := r.kept.isNone && hit (blockKey c r.rank r.block)
  if (d.chan c).reads.any mine || (d.chan c).issued.any mine then
    let keep (r : DramRead) : DramRead := if mine r then { r with kept := some (d.array (blockKey c r.rank r.block)) } else r
    d.setChan c (fun x => { x with reads := x.reads.map keep, issued := x.issued.map keep })
  else d

/-- Places a block in the array and clears its poison bit (R274). -/
def Dram.store (d : Dram) (k : Nat) (b : Bytes) : Dram :=
  let e := d.keepReads (keyChan k) (fun x => x == k)
  { e with data := e.data.write (k * 64) (fixLen 64 b), poison := e.poison.filter (· != k), bad := e.bad.filter (· != k),
           wild := Ranges.remove e.wild k }

/-- Writes a block: into the queued entry it matches, else into the array; a DOWN channel drops it (R280, R289). -/
def Dram.writeKey (d : Dram) (k : Nat) (b : Bytes) : Dram :=
  let c := keyChan k
  if (d.chan c).state = 3 then d
  else if (d.queued k).isSome then
    d.setChan c (fun ch => { ch with writes := ch.writes.map (fun w =>
      if w.rank == keyRank k && w.block == keyIdx k then { w with data := fixLen 64 b } else w) })
  else d.store k b

/-- The second copy a write needs while its frame is being copied to the spare (R292). -/
def Dram.mirror (d : Dram) (frame b : Nat) : Option Nat :=
  let h := d.frameHome frame
  let g := d.group (frame / groupFrames)
  match g.retired with
  | some (ch, rk) =>
    if g.spareState = 2 ∧ h.1 % 4 = ch ∧ h.2.1 = b2n rk ∧ h.2.2 = g.migProgress.toNat then
      some (blockKey (frame / groupFrames * 4 + g.spareCh.toNat) (b2n g.spareRank) (blockIndex h.2.2 b))
    else none
  | none => none

def Dram.readBlock (d : Dram) (frame b : Nat) : Option Bytes := d.readKey (d.keyOf frame b)

def Dram.writeBlock (d : Dram) (frame b : Nat) (bs : Bytes) : Dram :=
  let d1 := d.writeKey (d.keyOf frame b) bs
  match d.mirror frame b with
  | some k => d1.writeKey k bs
  | none => d1

/-- Reads n bytes at offset off of a frame; none when a block is poisoned. -/
def Dram.readFrame (d : Dram) (frame off n : Nat) : Option Bytes :=
  let b0 := off / 64
  let nb := if n = 0 then 0 else (off + n - 1) / 64 + 1 - b0
  let blocks := (List.range nb).map (fun i => d.readBlock frame (b0 + i))
  if blocks.any Option.isNone then none
  else some (((blocks.map (fun o => o.getD [])).flatten.drop (off % 64)).take n)

/-- Blocks of an access of n bytes at an offset of a frame: the block number, and the part [lo, hi) of it that the access covers. -/
def blockParts (off n : Nat) : List (Nat × Nat × Nat) :=
  (List.range (if n = 0 then 0 else (off + n - 1) / 64 + 1 - off / 64)).map (fun i =>
    let b := off / 64 + i
    (b, max off (b * 64) - b * 64, min (off + n) ((b + 1) * 64) - b * 64))

/-- Writes one block of an access. The controllers take whole blocks only, so a part of a block is written with the rest of what the block
held; one that cannot be read keeps its poison and what it held (R274, R275). -/
def Dram.writePart (d : Dram) (frame off : Nat) (bs : Bytes) (p : Nat × Nat × Nat) : Dram :=
  let mid := (bs.drop (p.1 * 64 + p.2.1 - off)).take (p.2.2 - p.2.1)
  if p.2.1 = 0 ∧ p.2.2 = 64 then d.writeBlock frame p.1 mid
  else match d.readBlock frame p.1 with
    | some old => d.writeBlock frame p.1 (old.take p.2.1 ++ mid ++ old.drop p.2.2)
    | none => d

/-- Writes bytes at an offset of a frame, block by block. -/
def Dram.writeFrame (d : Dram) (frame off : Nat) (bs : Bytes) : Dram :=
  (blockParts off bs.length).foldl (fun acc p => acc.writePart frame off bs p) d

/-- Whether a write of n bytes at an offset of a frame needs the rest of a block that cannot be read (R274, R275). -/
def Dram.lostPart (d : Dram) (frame off n : Nat) : Bool :=
  (blockParts off n).any (fun p => !(p.2.1 == 0 && p.2.2 == 64) && (d.readBlock frame p.1).isNone)

/-- Whether a frame lies on a channel that is DOWN, which drops its writes (R289). -/
def Dram.dropsWrites (d : Dram) (frame : Nat) : Bool := (d.chan (d.frameLoc frame).1).state == 3

/-- Unreadable blocks of an access of n bytes at an offset of a frame. -/
def Dram.unreadable (d : Dram) (frame off n : Nat) : List Nat :=
  ((blockParts off n).filter (fun p => (d.readBlock frame p.1).isNone)).map (fun p => d.keyOf frame p.1)

/-- Sets the poison bits of blocks (R274). -/
def Dram.poisonAll (d : Dram) (ks : List Nat) : Dram :=
  { d with poison := ks ++ d.poison.filter (fun x => !ks.contains x), bad := d.bad.filter (fun x => !ks.contains x) }

/-- Zeroes m blocks from a key on, clearing poison. -/
def Dram.zeroKeys (d : Dram) (k m : Nat) : Dram :=
  let inside (x : Nat) : Bool := decide (k ≤ x) && decide (x < k + m)
  let e := d.keepReads (keyChan k) inside
  let d1 : Dram := { e with
    data := e.data.clear (k * 64) (m * 64), poison := e.poison.filter (fun x => !inside x), bad := e.bad.filter (fun x => !inside x),
    wild := Ranges.removeRun e.wild k m }
  d1.setChan (keyChan k) (fun ch =>
    { ch with writes := ch.writes.filter (fun w => !inside (blockKey (keyChan k) w.rank w.block)) })

/-- Zeroes n bytes (a multiple of 64) at a block-aligned offset of a frame, on both ranks while the frame is being copied (R292); a frame's blocks
have consecutive keys. -/
def Dram.zeroFrame (d : Dram) (frame off n : Nat) : Dram :=
  let e := d.zeroKeys (d.keyOf frame (off / 64)) (n / 64)
  match d.mirror frame (off / 64) with
  | some k => e.zeroKeys k (n / 64)
  | none => e

/-- The read a channel issues next, with the round-robin position after it (R278): an aged read, else weighted round-robin over the
classes with an eligible read, and within the class an open-row hit before the oldest. -/
def DramChan.choose (c : DramChan) (weights : List Nat) (aged : Bool) (eligible : DramRead → Bool) :
    Option (DramRead × Nat × Nat) :=
  let es := c.reads.filter eligible
  if aged then es.head?.map (fun r => (r, c.wrrClass, c.wrrUsed))
  else
    let has (k : Nat) : Bool := es.any (fun r => r.cls == k)
    let order : List (Nat × Nat) :=
      (if c.wrrUsed < weights.getD c.wrrClass 0 then [(c.wrrClass, c.wrrUsed)] else []) ++
        ((List.range 4).map (fun i => ((c.wrrClass + 1 + i) % 4, 0)))
    match order.find? (fun p => has p.1) with
    | none => none
    | some (k, used) =>
      let cand := es.filter (fun r => r.cls == k)
      let hit := cand.find? (fun r => let b := blockBank r.rank r.block; c.openRows.get? b.1 == some b.2)
      (hit.or cand.head?).map (fun r => (r, k, used + 1))

/-- Removes the first occurrence of a read. -/
def dropRead (l : List DramRead) (r : DramRead) : List DramRead := l.erase r

/-- Whether a quad takes requests: it is not OFF and not rising (R297). -/
def QuadState.accepts : QuadState → Bool
  | .on => true
  | .closing _ => true
  | _ => false

def DramChan.quad (c : DramChan) (rank q : Nat) : QuadState := c.quads.getD (rank * 4 + q) .off
def DramChan.setQuad (c : DramChan) (rank q : Nat) (v : QuadState) : DramChan :=
  { c with quads := c.quads.set (rank * 4 + q) v }

/-- The quad of a block index. -/
def blockQuad (idx : Nat) : Nat := idx / (240 * frameBlocks)

/-- Offline slices of a retraining (R287). -/
def trainSlices : Nat := 28

end Sys2Proof.Machine
end

