-- ==== Sys2Proof/Machine/Flash.lean ====
section
/-!
DEFINITION. Machine/Flash.lean: the flash array and its controller (R303 to R328): blocks and their states, die sequencers, page
programs, retirement, spare states, read levels, the flash map with its journal, allocation, relocation and recovery.
-/
namespace Sys2Proof.Machine

/-- Block states (R308). -/
inductive BlockState where
  | erased | opened | closed | erasing | incomplete | retired
  deriving DecidableEq, Repr

/-- Who writes a block (R311). -/
inductive FlashWriter where
  | none | install | relocation | spill | system
  deriving DecidableEq, Repr

/-- One flash block. `pages` counts the pages programmed or being programmed, `reads` the page reads since its last erase. -/
structure FlashBlock where
  state : BlockState
  pages : Nat
  erases : Nat
  reads : Nat
  writer : FlashWriter
  closedAt : Nat
  relocate : Bool
  deriving DecidableEq, Repr

def FlashBlock.fresh : FlashBlock :=
  { state := .erased, pages := 0, erases := 0, reads := 0, writer := .none, closedAt := 0, relocate := false }

/-- The operation of a plane (R307): a program with its target page, its writer and its data, or an erase of a block. -/
inductive DieWork where
  | program (addr : Nat) (writer : FlashWriter) (data : Bytes)
  | erase (block : Nat)
  deriving DecidableEq, Repr

def DieWork.isErase : DieWork → Bool
  | .erase _ => true
  | _ => false

/-- A program or erase under way: whether a pulse runs, and how often it has been suspended (R307). -/
structure PlaneOp where
  work : DieWork
  pulsing : Bool
  suspends : Nat
  deriving DecidableEq, Repr

/-- A page read of a die: its page, its tag, the ladder step it is at, the codewords still to decode, whether it is one of the probed upper reads
of R316, and whether a codeword has needed more than 72 corrections (R312 to R314). -/
structure FlashRead where
  addr : Nat
  tag : Nat
  ladder : Nat
  left : List Nat
  probe : Bool
  many : Bool
  deriving DecidableEq, Repr

/-- One die sequencer: the operations of its planes, the reads that wait and those that are being sensed, at most one on each plane (R307). -/
structure Die where
  ops : AList PlaneOp
  waiting : List FlashRead
  sensing : List FlashRead
  upperReads : Nat
  shiftCnt : BitVec 8
  deriving DecidableEq, Repr

def Die.fresh : Die := { ops := [], waiting := [], sensing := [], upperReads := 0, shiftCnt := 0 }

/-- The statistics of one die, level and bin (R316). -/
structure CalStat where
  words : Nat
  up : Nat
  dn : Nat
  deriving DecidableEq, Repr

/-- A record of the flash-map journal (R322, R325): a map entry of the model partition that changes, an erase that begins, and its end. -/
inductive JournalRec where
  | map (lpage : Nat) (addr : Option Nat)
  | eraseBegin (block : Nat)
  | eraseEnd (block : Nat)
  deriving DecidableEq, Repr

/-- Data that a requester keeps until its program succeeds (R309, R310): its writer, the plane (die × 8 + plane) it was meant for, the block it
cannot go to, and its bytes. -/
structure OwedPage where
  writer : FlashWriter
  plane : Nat
  shun : Nat
  data : Bytes
  deriving DecidableEq, Repr

structure Flash where
  /-- Programmed page bytes by page address × 16,384 + byte. -/
  cells : Mem
  /-- Blocks other than fresh ones, by (die × 8 + plane) × 144 + block. -/
  blocks : AList FlashBlock
  dies : AList Die
  /-- Flash map: logical page to page address (R322). -/
  map : AList Nat
  /-- The model part of the map as the last checkpoint saved it, and the journal records since (R322). -/
  checkpoint : AList Nat
  records : List JournalRec
  /-- Logical pages whose stored copy is uncorrectable (R314). -/
  lost : List Nat
  /-- Programs to make again (R309, R310). -/
  owed : List OwedPage
  /-- Blocks waiting for an erase. -/
  eraseQueue : List Nat
  /-- Blocks that managed use excludes: boot directory, firmware and configuration (R321). -/
  fixedBlocks : List Nat
  /-- Read-level offsets by (die × 8 + bin) × 3 + level, and their statistics (R315, R316). -/
  offsets : AList Int
  /-- The offsets as the last checkpoint saved them (R315). -/
  saved : AList Int
  stats : AList CalStat
  /-- The (quad, plane) pair each write stream takes next (R305). -/
  installPos : Nat
  relocPos : Nat
  spillPos : Nat
  /-- Retention clock in minutes (R315). -/
  clock : Nat
  state : BitVec 2
  brownoutLast : Bool
  /-- A brown-out warning has come since the last tile reset (R323). -/
  warned : Bool
  otpMirror : BitVec 2
  recoveryBusy : Bool
  blocked : Bool
  paused : Bool
  grownBad : BitVec 16
  retryCnt : BitVec 32
  softCnt : BitVec 16
  ueCnt : BitVec 16
  refused : BitVec 16
  progFail : BitVec 8
  eraseFail : BitVec 8
  /-- Answers of page reads: tag and data, none when uncorrectable. -/
  answers : List (Nat × Option Bytes)
  deriving DecidableEq, Repr

def pageBytes : Nat := 16384
def blocksPerPlane : Nat := 144
def allBlocks : Nat := 64 * 8 * blocksPerPlane

/-- Logical units of the spill partition lie behind every unit that a model object can take (notes/assumptions/18.md). -/
def spillUnit : Nat := 2 ^ 40

/-- Whether a logical page belongs to the spill partition (R322). -/
def isSpill (lpage : Nat) : Bool := decide (spillUnit * 128 ≤ lpage)

/-- The fixed blocks: die 0 and die 32 block 0 of plane 0, 64 firmware and 8 configuration blocks (R321). Which blocks the boot
directory lists is a DESIGN CHOICE (notes/assumptions/3.md). -/
def defaultFixed : List Nat :=
  [0, 32 * 8 * blocksPerPlane] ++ (List.range 64).map (fun d => d * 8 * blocksPerPlane + 1) ++
    (List.range 8).map (fun d => d * 8 * blocksPerPlane + 2)

def Flash.fresh : Flash :=
  { cells := [], blocks := [], dies := [], map := [], checkpoint := [], records := [], lost := [], owed := [], eraseQueue := [],
    fixedBlocks := defaultFixed, offsets := [], saved := [],
    stats := [], installPos := 0, relocPos := 0, spillPos := 0, clock := 0, state := 0, brownoutLast := false, warned := false, otpMirror := 0,
    recoveryBusy := false, blocked := false, paused := false, grownBad := 0, retryCnt := 0, softCnt := 0, ueCnt := 0, refused := 0,
    progFail := 0, eraseFail := 0, answers := [] }

/-- Fields of a page address (R304). -/
def paDie (a : Nat) : Nat := a % 64
def paPlane (a : Nat) : Nat := a / 64 % 8
def paBlock (a : Nat) : Nat := a / 512 % 256
def paPage (a : Nat) : Nat := a / 131072 % 1024
def pageAddr (die plane block page : Nat) : Nat := die + 64 * plane + 512 * block + 131072 * page
def paBlockId (a : Nat) : Nat := (paDie a * 8 + paPlane a) * blocksPerPlane + paBlock a
def blockIdDie (b : Nat) : Nat := b / (8 * blocksPerPlane)
def blockIdPlane (b : Nat) : Nat := b / blocksPerPlane % 8
/-- The address of page p of a block. -/
def blockPage (b p : Nat) : Nat := pageAddr (blockIdDie b) (blockIdPlane b) (b % blocksPerPlane) p

def Flash.block (f : Flash) (b : Nat) : FlashBlock := f.blocks.getD b FlashBlock.fresh
def Flash.setBlock (f : Flash) (b : Nat) (x : FlashBlock) : Flash := { f with blocks := f.blocks.set b x }
def Flash.die (f : Flash) (d : Nat) : Die := f.dies.getD d Die.fresh
def Flash.setDie (f : Flash) (d : Nat) (x : Die) : Flash := { f with dies := f.dies.set d x }
def Flash.modDie (f : Flash) (d : Nat) (g : Die → Die) : Flash := f.setDie d (g (f.die d))
def Flash.managed (f : Flash) (b : Nat) : Bool := decide (b < allBlocks) && !f.fixedBlocks.contains b

/-- The operation under way on a plane of a die. -/
def Flash.op (f : Flash) (die plane : Nat) : Option PlaneOp := (f.die die).ops.get? plane

/-- Pages that a block takes, and the page that its n-th program goes to: the fixed blocks are in SLC mode, in which only lower pages are
programmed (R311, R321). -/
def Flash.blockPages (f : Flash) (b : Nat) : Nat := if f.fixedBlocks.contains b then 512 else 1024
def Flash.nthPage (f : Flash) (b n : Nat) : Nat := if f.fixedBlocks.contains b then 2 * n else n

/-- Whether a program of a page is the one its block accepts (R308, R309, R311). -/
def Flash.accepts (f : Flash) (a : Nat) : Bool :=
  let b := f.block (paBlockId a)
  match b.state with
  | .erased => paPage a == 0
  | .opened => paPage a == f.nthPage (paBlockId a) b.pages
  | _ => false

/-- Blocks retired, and blocks open. -/
def Flash.count (f : Flash) (s : BlockState) : Nat := (f.blocks.filter (fun p => f.managed p.1 && p.2.state == s)).length

/-- Spare blocks (R320): managed blocks beyond the 65,500 that the model and spill partitions fill, without open and retired ones. -/
def Flash.spares (f : Flash) : Nat := allBlocks - f.fixedBlocks.length - 65500 - f.count .retired - f.count .opened

/-- The state that a spare count gives (R320). -/
def spareState (n : Nat) : BitVec 2 := if n < 128 then 2 else if n < 512 then 1 else 0

/-- Retires a block (R310). -/
def Flash.retire (f : Flash) (b : Nat) : Flash :=
  let x := f.block b
  { (f.setBlock b { x with state := .retired, relocate := true }) with grownBad := BitVec.ofNat 16 (satInc 65535 f.grownBad.toNat) }

/-- A program of a block's next page begins: the block moves on (R308). -/
def Flash.taken (f : Flash) (b : Nat) (w : FlashWriter) : Flash :=
  let x := f.block b
  let n := x.pages + 1
  let y : FlashBlock := { x with pages := n, state := if f.blockPages b ≤ n then .closed else .opened, writer := w }
  f.setBlock b (if f.blockPages b ≤ n then { y with closedAt := f.clock } else y)

/-- Places the bytes of a page. -/
def Flash.place (f : Flash) (a : Nat) (data : Bytes) : Flash := { f with cells := f.cells.write (a * pageBytes) (fixLen pageBytes data) }

def Flash.readPage (f : Flash) (a : Nat) : Bytes := f.cells.readN (a * pageBytes) pageBytes

/-- Whether a block is the target of an operation under way. -/
def Flash.inWork (f : Flash) (b : Nat) : Bool :=
  (f.op (blockIdDie b) (blockIdPlane b)).any (fun o => match o.work with
    | .program a _ _ => paBlockId a == b
    | .erase k => k == b)

/-- Managed blocks of a plane. -/
def Flash.planeBlocks (f : Flash) (die plane : Nat) : List Nat :=
  ((List.range blocksPerPlane).map (fun i => (die * 8 + plane) * blocksPerPlane + i)).filter f.managed

/-- The erased block of a plane with the lowest erase count (R319). -/
def Flash.freshest (f : Flash) (die plane : Nat) : Option Nat :=
  ((f.planeBlocks die plane).filter (fun b => (f.block b).state == .erased)).foldl (fun (acc : Option Nat) b =>
    match acc with
    | none => some b
    | some c => if (f.block b).erases < (f.block c).erases then some b else some c) none

/-- The block a write takes on a die and plane: its own open block, which no program under way uses, else the erased block with the lowest erase
count (R311, R319). -/
def Flash.pick (f : Flash) (w : FlashWriter) (die plane : Nat) : Option Nat :=
  ((f.planeBlocks die plane).find? (fun b => let x := f.block b; x.state == .opened && x.writer == w && !f.inWork b)).or (f.freshest die plane)

/-- Programs one page for a writer on a die and plane: the page address, or none when no block is free. -/
def Flash.append (f : Flash) (w : FlashWriter) (die plane : Nat) (data : Bytes) : Option (Flash × Nat) :=
  match f.pick w die plane with
  | none => none
  | some b => let a := blockPage b (f.block b).pages; some ((f.taken b w).place a data, a)

/-- Changes a map entry: a change of the model part is journalled first (R322), and what was lost at the logical page is gone with it. -/
def Flash.setMap (f : Flash) (lpage : Nat) (a : Option Nat) : Flash :=
  { f with
    map := match a with
      | some x => f.map.set lpage x
      | none => f.map.erase lpage
    records := if isSpill lpage then f.records else f.records ++ [.map lpage a]
    lost := f.lost.filter (· != lpage) }

/-- Writes up to four pages of a tile on the dies of the next (quad, plane) pair of the stream and maps its logical pages; logical
pages of the tile beyond the data are unmapped (R305, R260). -/
def Flash.writeTile (f : Flash) (w : FlashWriter) (lpage : Nat) (data : Bytes) : Option Flash :=
  let pos := match w with | .install => f.installPos | .spill => f.spillPos | _ => f.relocPos
  let quad := pos % 16
  let plane := pos / 16 % 8
  let n := min 4 (cdiv data.length pageBytes)
  let base : Flash := (((List.range 4).map (· + lpage)).filter f.map.has).foldl (fun (g : Flash) l => g.setMap l none) f
  let r := (List.range n).foldl (fun (acc : Option Flash) i =>
    acc.bind (fun g => (g.append w (4 * quad + i) plane ((data.drop (i * pageBytes)).take pageBytes)).map
      (fun p => p.1.setMap (lpage + i) (some p.2)))) (some base)
  r.map (fun g => match w with
    | .install => { g with installPos := (pos + 1) % 128 }
    | .spill => { g with spillPos := (pos + 1) % 128 }
    | _ => { g with relocPos := (pos + 1) % 128 })

/-- Reads the mapped bytes of consecutive logical pages; an unmapped page reads zero. -/
def Flash.readPages (f : Flash) (lpage n : Nat) : Bytes :=
  (List.range n).flatMap (fun i => match f.map.get? (lpage + i) with
    | some a => f.readPage a
    | none => List.replicate pageBytes 0#8)

/-- Whether one of some consecutive logical pages is lost (R314). -/
def Flash.anyLost (f : Flash) (lpage n : Nat) : Bool := (List.range n).any (fun i => f.lost.contains (lpage + i))

/-- Marks logical pages as lost (R314). -/
def Flash.lose (f : Flash) (ls : List Nat) : Flash := { f with lost := f.lost ++ (ls.filter (fun l => !f.lost.contains l)).dedup }

/-- Logical pages that a block holds, with their pages (R318). -/
def Flash.validPages (f : Flash) (b : Nat) : List (Nat × Nat) := f.map.filter (fun p => paBlockId p.2 == b)

/-- Pads the writer's open blocks to the end of the wordline and closes them (R311). -/
def Flash.padClose (f : Flash) (w : FlashWriter) : Flash :=
  { f with blocks := f.blocks.map (fun p =>
      if p.2.state = .opened ∧ p.2.writer = w ∧ !f.inWork p.1 then
        (p.1, { p.2 with state := .closed, pages := p.2.pages + p.2.pages % 2, closedAt := f.clock })
      else p) }

/-- Unmaps logical pages; the blocks that then hold no valid page and are closed are queued for erase. -/
def Flash.unmap (f : Flash) (pages : List Nat) : Flash :=
  let mapped := f.map.filter (fun p => pages.contains p.1)
  let g := mapped.foldl (fun (h : Flash) p => h.setMap p.1 none) { f with lost := f.lost.filter (fun l => !pages.contains l) }
  let dead := ((mapped.map (fun p => paBlockId p.2)).dedup).filter (fun b =>
    (g.block b).state == .closed && (g.validPages b).isEmpty && !g.eraseQueue.contains b)
  { g with eraseQueue := g.eraseQueue ++ dead }

/-- Moves pages of a block, as (logical page, page), to a new block in order, closes that block and queues the old one for erase (R311, R318). The
new block stands for the writer of the old one. -/
def Flash.moveInto (f : Flash) (b into : Nat) (pages : List (Nat × Nat)) : Flash :=
  let r := pages.foldl (fun (g : Flash) p =>
    let a := blockPage into (g.block into).pages
    ((g.taken into .relocation).place a (g.readPage p.2)).setMap p.1 (some a)) f
  let g := r.padClose .relocation
  let h := if pages.isEmpty then g else g.setBlock into { g.block into with writer := (f.block b).writer }
  let x := h.block b
  { (h.setBlock b { x with relocate := false, state := if x.state = .opened then .closed else x.state }) with
    eraseQueue := if x.state = .retired ∨ h.eraseQueue.contains b then h.eraseQueue else h.eraseQueue ++ [b] }

/-- The new block of a relocation: on the plane of the old one, so that the pages of a tile stay on different dies, else on another plane of its
die (R305, R318, R319). -/
def Flash.target (f : Flash) (b : Nat) : Option Nat :=
  (List.range 8).findSome? (fun i => f.freshest (blockIdDie b) ((blockIdPlane b + i) % 8))

/-- An erased block: empty, with one more erase (R308). -/
def Flash.erased (f : Flash) (b : Nat) : Flash :=
  let x := f.block b
  { (f.setBlock b { FlashBlock.fresh with erases := x.erases + 1 }) with
    cells := (List.range 1024).foldl (fun m p => m.clear (blockPage b p * pageBytes) pageBytes) f.cells,
    eraseQueue := f.eraseQueue.filter (· != b) }

/-- The map that a checkpoint and the journal records after it give (R325). -/
def replayMap (checkpoint : AList Nat) (records : List JournalRec) : AList Nat :=
  records.foldl (fun (m : AList Nat) r => match r with
    | .map l (some a) => m.set l a
    | .map l none => m.erase l
    | _ => m) checkpoint

/-- Blocks whose records tell of an erase that was begun and not completed (R325). -/
def openErases (records : List JournalRec) : List Nat :=
  records.foldl (fun (l : List Nat) r => match r with
    | .eraseBegin b => b :: l.filter (· != b)
    | .eraseEnd b => l.filter (· != b)
    | _ => l) []

/-- Writes a checkpoint: the model part of the map and the read-level offsets; the records of erases under way stay (R315, R322). -/
def Flash.save (f : Flash) : Flash :=
  { f with checkpoint := f.map.filter (fun p => !isSpill p.1), records := (openErases f.records).reverse.map .eraseBegin, saved := f.offsets }

/-- Recovery at boot (R325), in its order: the map is that of the checkpoint and the journal, interrupted erases are erased again, pages that
belong to no committed object and the spill partition are unmapped, open blocks are closed, and blocks with no valid page are queued for erase. `keep`
tells which logical pages belong to a committed object. A record is journalled whole in one event, so none fails its CRC. -/
def Flash.recover (f : Flash) (keep : Nat → Bool) : Flash :=
  let cut := openErases f.records
  let blocks : AList FlashBlock := f.blocks.map (fun p =>
    if cut.contains p.1 then (p.1, { p.2 with state := .incomplete })
    else if p.2.state = .opened then (p.1, { p.2 with state := .closed, closedAt := f.clock }) else p)
  let all := replayMap f.checkpoint f.records
  let gone := (all.map (·.1)).filter (fun l => !keep l)
  let g : Flash := gone.foldl (fun (h : Flash) l => h.setMap l none)
    { f with blocks := blocks, map := all, dies := [], eraseQueue := [], owed := [], blocked := false,
             lost := f.lost.filter (fun l => !isSpill l) }
  let dead := (blocks.filter (fun p => g.managed p.1 && (p.2.state == .incomplete ||
    (p.2.state == .closed && (g.validPages p.1).isEmpty)))).map (·.1)
  { g with eraseQueue := dead, state := spareState g.spares }

/-- Mean, highest and lowest erase counts of the managed blocks (R319, R328). -/
def Flash.meanPe (f : Flash) : Nat := ((f.blocks.filter (fun p => f.managed p.1)).map (·.2.erases)).sum / (allBlocks - f.fixedBlocks.length)
def Flash.maxPe (f : Flash) : Nat := ((f.blocks.filter (fun p => f.managed p.1)).map (·.2.erases)).foldl max 0
def Flash.minPe (f : Flash) : Nat :=
  let l := f.blocks.filter (fun p => f.managed p.1)
  if l.length < allBlocks - f.fixedBlocks.length then 0 else (l.map (·.2.erases)).foldl min f.maxPe

/-- Retention bin of a block (R315). -/
def Flash.bin (f : Flash) (b : Nat) : Nat :=
  let m := f.clock - (f.block b).closedAt
  if m < 60 then 0 else if m < 480 then 1 else if m < 1440 then 2 else if m < 10080 then 3 else if m < 43200 then 4
  else if m < 129600 then 5 else if m < 525600 then 6 else 7

end Sys2Proof.Machine
end

