-- ==== Sys2Proof/Machine/Otp.lean ====
section
/-!
DEFINITION. Machine/Otp.lean: the one-time-programmable rows of dies 0 and 32 (R326, R327).
-/
namespace Sys2Proof.Machine

/-- A row by its fields; the bytes between them are zero (R326). -/
structure OtpRow where
  magic : BitVec 32
  layout : BitVec 16
  serial : BitVec 64
  part : Bytes
  mfg : Bytes
  idkPub : Bytes
  idkPriv : Bytes
  memRoot : Bytes
  linkRoot : Bytes
  signerHash : Bytes
  rollback : BitVec 256
  rowHash : Bytes
  deriving DecidableEq, Repr

/-- The bytes that ROW_HASH is taken over: 0 to 511 and 544 to 4,031 (R326). -/
def OtpRow.hashed (r : OtpRow) : Bytes :=
  fixLen 512 (toLe r.magic.toNat 4 ++ toLe r.layout.toNat 4 ++ toLe r.serial.toNat 8 ++ fixLen 16 r.part ++ fixLen 32 r.mfg ++
    fixLen 128 (fixLen 97 r.idkPub) ++ fixLen 64 (fixLen 48 r.idkPriv) ++ fixLen 32 r.memRoot ++ fixLen 32 r.linkRoot ++
    fixLen 48 r.signerHash) ++ List.replicate 3488 0#8

/-- A copy is valid when its ROW_HASH matches (R327). -/
def OtpRow.valid (r : OtpRow) : Bool := decide (r.rowHash = fixLen 48 (Config.sha384 r.hashed))

/-- The row with its ROW_HASH, as it is programmed at manufacture (R326). -/
def OtpRow.hash (r : OtpRow) : OtpRow := { r with rowHash := fixLen 48 (Config.sha384 r.hashed) }

/-- Programs bits of ROLLBACK: each goes once from 0 to 1 (R326). -/
def OtpRow.burn (r : OtpRow) (bits : BitVec 256) : OtpRow := { r with rollback := r.rollback ||| bits }

/-- The same with ROLLBACK out of sight: two valid copies must agree on this (R327). -/
def OtpRow.fixedPart (r : OtpRow) : OtpRow := { r with rollback := 0 }

/-- The two copies: of die 0 and of die 32. -/
structure Otp where
  die0 : OtpRow
  die32 : OtpRow
  deriving DecidableEq, Repr

/-- Whether boot may use the rows: one copy is valid, or both are and are equal outside ROLLBACK (R327). -/
def Otp.usable (o : Otp) : Bool :=
  (o.die0.valid || o.die32.valid) && (!o.die0.valid || !o.die32.valid || decide (o.die0.fixedPart = o.die32.fixedPart))

/-- The copy whose fields are used (R327). -/
def Otp.row (o : Otp) : OtpRow := if o.die0.valid then o.die0 else o.die32

/-- OTP_MIRROR: 0 both copies valid, 1 only that of die 0, 2 only that of die 32 (R327, R328). -/
def Otp.mirror (o : Otp) : BitVec 2 := if !o.die32.valid then 1 else if !o.die0.valid then 2 else 0

/-- ROLLBACK: the OR of the valid copies (R327). -/
def Otp.rollback (o : Otp) : BitVec 256 := (if o.die0.valid then o.die0.rollback else 0) ||| (if o.die32.valid then o.die32.rollback else 0)

/-- Programs ROLLBACK bits into the copies, die 0 first; an invalid copy is never written (R327). -/
def Otp.burn (o : Otp) (bits : BitVec 256) : Otp :=
  { die0 := if o.die0.valid then o.die0.burn bits else o.die0, die32 := if o.die32.valid then o.die32.burn bits else o.die32 }

/-- ROLLBACK is the one field that changes after manufacture, and its bits are only ever set (R326). -/
def Otp.burnedOf (o r : Otp) : Otp := { die0 := o.die0.burn r.die0.rollback, die32 := o.die32.burn r.die32.rollback }

end Sys2Proof.Machine
end

