-- ==== Sys2Proof/Machine/FwState.lean ====
section
/-!
DEFINITION. Machine/FwState.lean: the tile's life and boot (R402 to R405, R457, R487), the state kept over resets (R326, R399), the
configuration parameters (R408, R451, R474) and records (R406 to R411), the firmware cores (R394 to R417), the log queue (R414,
R419) and the power governor (R453 to R475).
-/
namespace Sys2Proof.Machine

/-- What the tile is doing as a whole (R402, R404, R405, R457, R460, R461, R466, R471). -/
inductive Life where
  | off
  /-- The reset is released and the boot ROM has not yet run. -/
  | rom
  | booting
  /-- Halted under R405. -/
  | halted
  | serving
  /-- THERMTRIP_N is asserted (R466). -/
  | tripped
  | entering
  | bivouac
  | waking
  deriving DecidableEq, Repr

/-- FW_BOOT_STATUS, FW_RESET_CAUSE and the recovery registers (R427). -/
structure Boot where
  life : Life
  ready : Bool
  phase : BitVec 3
  haltCode : BitVec 3
  slot : BitVec 2
  recoveryFail : Bool
  cause : BitVec 3
  wdtCore : BitVec 2
  /-- A tile reset that has been asked for, with its cause (R323, R416). -/
  resetReq : Option (BitVec 3)
  /-- The slot that a second-stage watchdog reset makes the ROM skip (R418). -/
  skip : Option Nat
  skipped : Bool
  recoveryAddr : BitVec 64
  recoveryLen : BitVec 24
  wakeQueued : Bool
  thermtrip : Bool
  /-- The tile timer, in microseconds (R394). -/
  timer : Nat
  deriving DecidableEq, Repr

/-- A commit record (R400). -/
structure Commit where
  slot : Nat
  seq : Nat
  svn : Nat
  digest : Bytes
  size : Nat
  deriving DecidableEq, Repr

/-- What the tile keeps over a reset beside the flash array (R326, R399, R472). -/
structure Nv where
  otp : Otp
  /-- The certificate chain in the firmware partition: the DER forms of the root and of the leaf certificate (R365). -/
  rootCert : Bytes
  leafCert : Bytes
  dirOk : Bool × Bool
  slotA : Bytes
  slotB : Bytes
  commits : List Commit
  cfg0 : Bytes
  cfg1 : Bytes
  /-- Service record: ranks retired onto the spare and ranks withdrawn, as (channel, rank) (R291, R294); the core switched to CS with its old
  carrier (R98); cores left without a carrier (R442). -/
  sparedRanks : List (Nat × Bool)
  withdrawnRanks : List (Nat × Bool)
  switched : Option (Nat × Nat)
  carrierless : List Nat
  gens : AList Gen
  models : AList Model
  nextSerial : Nat
  deriving DecidableEq, Repr

/-- The stored chain: at most 8 KiB (R365). -/
def Nv.madeRoot : Bytes := Config.rootCert.take 8192
def Nv.madeLeaf : Bytes := Config.leafCert.take (8192 - Nv.madeRoot.length)

/-- The row as manufacture leaves it, with the certified keys of the chain: what the other fields hold is this tile's own and the model's choice
(notes/assumptions/3.md). -/
def OtpRow.made : OtpRow := OtpRow.hash
  { magic := 0x4F545031, layout := 1, serial := 0, part := [], mfg := [], idkPub := Config.certKey Nv.madeLeaf, idkPriv := [],
    memRoot := [], linkRoot := [], signerHash := fixLen 48 (Config.sha384 (Config.certKey Nv.madeRoot)), rollback := 0, rowHash := [] }

def Nv.blank : Nv :=
  { otp := { die0 := OtpRow.made, die32 := OtpRow.made }, rootCert := Nv.madeRoot, leafCert := Nv.madeLeaf,
    dirOk := (true, true), slotA := [], slotB := [], commits := [], cfg0 := [], cfg1 := [], sparedRanks := [], withdrawnRanks := [], switched := none,
    carrierless := [], gens := [], models := [], nextSerial := 0 }

/-- Parameters that differ from their defaults, by PARAM × 65,536 + INDEX. -/
abbrev Params := AList Nat

/-- Row of the parameter tables: lowest and highest value, highest INDEX, whether it is boot-only (R408, R451, R474). -/
structure ParamRow where
  lo : Nat
  hi : Nat
  idx : Nat
  bootOnly : Bool
  deriving DecidableEq, Repr

def paramRow (p : Nat) : Option ParamRow :=
  match p with
  | 0x0101 => some ⟨0, 1, 0, true⟩
  | 0x0102 => some ⟨0, 4096, 255, true⟩
  | 0x0103 => some ⟨0, 32768, 255, true⟩
  | 0x0104 => some ⟨0, 255, 255, true⟩
  | 0x0201 => some ⟨0, 2, 0, false⟩
  | 0x0202 => some ⟨1, 255, 3, false⟩
  | 0x0203 => some ⟨0, 3, 0, false⟩
  | 0x0204 => some ⟨10, 10000, 0, false⟩
  | 0x0205 => some ⟨4, 12, 0, false⟩
  | 0x0206 => some ⟨1, 720, 0, false⟩
  | 0x0207 => some ⟨10, 86400, 0, false⟩
  | 0x0208 => some ⟨1, 200, 0, false⟩
  | 0x0209 => some ⟨2, 1024, 0, false⟩
  | 0x020A => some ⟨2, 64, 0, false⟩
  | 0x020B => some ⟨1, 3600000, 0, false⟩
  | 0x020C => some ⟨0, 7, 7, true⟩
  | 0x020D => some ⟨0, 7, 7, true⟩
  | 0x0301 => some ⟨256, 4096, 0, true⟩
  | 0x0302 => some ⟨0, 1, 0, false⟩
  | 0x0303 => some ⟨0, 700000, 3, false⟩
  | 0x0304 => some ⟨1, 255, 3, false⟩
  | 0x0401 => some ⟨0, 507904, 0, true⟩
  | 0x0501 => some ⟨16, 64000, 0, false⟩
  | 0x0601 => some ⟨0, 3, 3, false⟩
  | 0x0602 => some ⟨0, 0x7F, 3, false⟩
  | 0x0603 => some ⟨1, 3600, 0, false⟩
  | 0x0604 => some ⟨1, 168, 0, false⟩
  | 0x0605 => some ⟨1, 16, 0, false⟩
  | 0x0606 => some ⟨0, 86400, 0, false⟩
  | 0x0607 => some ⟨0, 1, 0, false⟩
  | 0x0701 => some ⟨10000, 75000, 0, false⟩
  | 0x0702 => some ⟨70, 105, 0, false⟩
  | 0x0703 => some ⟨650, 950, 0, false⟩
  | 0x0704 => some ⟨10, 1000000, 0, false⟩
  | 0x0705 => some ⟨0, 1, 0, false⟩
  | 0x0801 => some ⟨1, 1000, 0, false⟩
  | 0x0802 => some ⟨0, 1, 0, false⟩
  | _ => none

/-- Default values (R408, R451, R474). -/
def paramDefault (p idx : Nat) : Nat :=
  match p with
  | 0x0102 => 4096
  | 0x0103 => 32768
  | 0x0104 => idx
  | 0x0202 => [8, 4, 2, 1].getD idx 1
  | 0x0203 => 3
  | 0x0204 => 100
  | 0x0205 => 8
  | 0x0206 => 24
  | 0x0207 => 600
  | 0x0208 => 30
  | 0x0209 => 16
  | 0x020A => 4
  | 0x020B => 1000
  | 0x020D => 7
  | 0x0301 => 512
  | 0x0302 => 1
  | 0x0304 => [8, 4, 2, 1].getD idx 1
  | 0x0401 => 393216
  | 0x0501 => 1000
  | 0x0601 => 1
  | 0x0602 => 0x40
  | 0x0603 => 10
  | 0x0604 => 4
  | 0x0605 => 3
  | 0x0606 => 3600
  | 0x0607 => 1
  | 0x0701 => 75000
  | 0x0702 => 100
  | 0x0703 => 800
  | 0x0704 => 1000
  | 0x0705 => 1
  | 0x0801 => 20
  | 0x0802 => 1
  | _ => 0

/-- The value of a parameter in force. -/
def Params.val (ps : Params) (p idx : Nat) : Nat := AList.getD ps (p * 65536 + idx) (paramDefault p idx)

/-- An entry of a configuration record (R407). -/
structure CfgEntry where
  param : Nat
  index : Nat
  value : Nat
  deriving DecidableEq, Repr

/-- An accepted update record that waits for its subsystem's quiescent point (R410). -/
structure CfgPending where
  k : Nat
  subsys : Nat
  fid : Nat
  entries : List CfgEntry
  deriving DecidableEq, Repr

/-- The configuration in force (R403, R409, R410, R427). `digest` is Dₖ. -/
structure CfgM where
  source : BitVec 2
  seq : Nat
  k : Nat
  digest : Bytes
  pending : List CfgPending
  deriving DecidableEq, Repr

/-- One firmware core (R366, R413, R416, R427). -/
structure FwCore where
  restarting : Bool
  slot : BitVec 2
  svn : BitVec 9
  restarts : BitVec 8
  digest : Bytes
  ipc : Nat
  /-- Moments of its first-stage watchdog expiries, and the moment of its last restart by a watchdog (R416). -/
  expiries : List Nat
  restartAt : Option Nat
  deriving DecidableEq, Repr

def FwCore.fresh : FwCore :=
  { restarting := false, slot := 0, svn := 0, restarts := 0, digest := [], ipc := 0, expiries := [], restartAt := none }

/-- The image that a core runs and the one it ran before (R413). -/
structure FwImage where
  slot : BitVec 2
  svn : Nat
  digests : List Bytes
  ipc : Nat
  stateMin : Nat
  stateMax : Nat
  stateVer : Nat
  size : Nat
  deriving DecidableEq, Repr

/-- An FW_ACTIVATE under way (R413): its command, the image, the cores still to restart, those restarted with what they ran before. -/
structure Activate where
  fid : Nat
  image : FwImage
  todo : List Nat
  done : List (Nat × FwCore)
  deriving DecidableEq, Repr

/-- A queued log entry (R419): its function, the ring the function had when the event occurred, its LSN and its 64 bytes. -/
structure LogItem where
  func : Nat
  ring : Option LogRing
  lsn : Nat
  entry : Bytes
  deriving DecidableEq, Repr

/-- Firmware state (R394 to R419). -/
structure Fw where
  cores : List FwCore
  expiryCnt : BitVec 8
  stateVer : Nat
  activate : Option Activate
  logQ : List LogItem
  deriving DecidableEq, Repr

def Fw.fresh : Fw :=
  { cores := List.replicate 4 FwCore.fresh, expiryCnt := 0, stateVer := 0, activate := none, logQ := [] }

/-- The power governor and its registers (R453 to R475). -/
structure Power where
  /-- VCORE requested, in 5 mV units. -/
  vcore : BitVec 8
  limiter : BitVec 2
  /-- Pacing in steps of 5 % of the step period. -/
  pacing : Nat
  droopCnt : BitVec 16
  throttle : BitVec 2
  throttleAt : Option Nat
  capMw : BitVec 17
  power : BitVec 14
  stepPs : BitVec 16
  tjMax : BitVec 8
  dramMax : BitVec 8
  flashMax : BitVec 8
  domSel : BitVec 4
  /-- Regions in which handshakes hold their acknowledges (R456). -/
  holds : List Nat
  /-- Step times of the twelve replica lines, in ps (R454). -/
  replicas : List (BitVec 16)
  current : Nat
  /-- The set point to restore once the DRAM dies are cool (R464). -/
  derated : Option (BitVec 2)
  deriving DecidableEq, Repr

def Power.fresh : Power :=
  { vcore := 0xA0, limiter := 0, pacing := 0, droopCnt := 0, throttle := 0, throttleAt := none, capMw := 75000, power := 0,
    stepPs := 0x271, tjMax := 0, dramMax := 0, flashMax := 0, domSel := 0, holds := [], replicas := List.replicate 12 0x271,
    current := 0, derated := none }

end Sys2Proof.Machine
end

