-- ==== Sys2Proof/Machine/State.lean ====
section
/-!
DEFINITION. Machine/State.lean: the tile's state as plain data, component by component, the reasons an event can stop, and the state
just after the internal reset of a power-on is released (R470, R402).
-/
namespace Sys2Proof.Machine

/-- Select registers and event registers of the PF's window, and the count of writes that have entered a mailbox (R10, R340). -/
structure PfRegs where
  dramChSel : BitVec 5
  flCalSel : BitVec 9
  dramEv : EvReg
  flEv : EvReg
  cmpEv : EvReg
  fwEv : EvReg
  pwrEv : EvReg
  uciEv : EvReg
  spareEv : EvReg
  arrivals : Nat
  /-- The function whose mailbox was drained last (R29, R338). -/
  turn : Nat
  /-- The function served last in the shared slot of isolation mode (R388). -/
  sharedTurn : Nat
  deriving DecidableEq, Repr

def PfRegs.fresh : PfRegs :=
  { dramChSel := 0, flCalSel := 0, dramEv := [], flEv := [], cmpEv := [], fwEv := [], pwrEv := [], uciEv := [], spareEv := [],
    arrivals := 0, turn := 255, sharedTurn := 255 }

/-- The spare core (R96 to R100) and the scratchpad error counters (R128). -/
structure Sparing where
  usable : Bool
  /-- The logical core whose switch is in progress. -/
  busy : Option Nat
  /-- A switch that waits for the step on its core to end (R100). -/
  wanted : Option Nat
  retired : BitVec 4
  ceCnt : BitVec 16
  ueCnt : BitVec 8
  ueLast : BitVec 4
  /-- Uncorrectable scratchpad errors as (time, physical core) (R442). -/
  ueLog : List (Nat × Nat)
  deriving DecidableEq, Repr

def Sparing.fresh : Sparing :=
  { usable := false, busy := none, wanted := none, retired := 0xF, ceCnt := 0, ueCnt := 0, ueLast := 0xF, ueLog := [] }

/-- The tile. -/
structure State where
  /-- The events that wait, first in, first out (the model's own). -/
  pending : List Instr
  boot : Boot
  nv : Nv
  params : Params
  cfgm : CfgM
  fw : Fw
  power : Power
  link : Link
  pf : PfRegs
  sparing : Sparing
  /-- Functions by number; one that is not listed is as after reset (R330). -/
  funcs : AList Func
  queues : AList Queue
  cmds : Cmds
  ctxs : AList Ctx
  strms : AList Strm
  images : Images
  steps : Steps
  lcores : List LCore
  pcores : List PCore
  rope : Rope
  coll : Coll
  tier : Tier
  cmp : Cmp
  dram : Dram
  flash : Flash
  /-- What the tile has sent, oldest first (the model's own record of R356). -/
  out : List Out
  /-- Entropy draws made, the index of the free value `Config.entropy` (the model's own, notes/assumptions/6.md). -/
  draws : Nat
  deriving DecidableEq, Repr

/-- Reasons for which the block stops. -/
inductive Fault where
  /-- Raised by the DRAM rows for a frame number or channel that the tile does not have (R269). Safe: no such request exists. -/
  | absentDram
  /-- Raised by the flash rows for a die, block or page that the array does not have (R303). Safe: no such request exists. -/
  | absentFlash
  deriving DecidableEq, Repr

/-- Reasons for which the model gives an event no meaning. -/
inductive Refusal where
  /-- Raised by an arm of `exec` whose row has no meaning yet. Safe: nothing is claimed of the row. -/
  | notModelled (mnemonic : String)
  deriving DecidableEq, Repr

def Boot.fresh (cause : BitVec 3) : Boot :=
  { life := .rom, ready := false, phase := 0, haltCode := 0, slot := 0, recoveryFail := false, cause := cause, wdtCore := 0,
    resetReq := none, skip := none, skipped := false, recoveryAddr := 0, recoveryLen := 0, wakeQueued := false, thermtrip := false,
    timer := 0 }

def CfgM.fresh : CfgM := { source := 2, seq := 0, k := 0, digest := [], pending := [] }

/-- Everything that a tile reset does not keep, as it is when the reset is released (R472, R12). The physical core CS is number 8. -/
def State.afterReset (pending : List Instr) (nv : Nv) (flash : Flash) (boot : Boot) (link : Link) (out : List Out) (draws : Nat) : State :=
  { pending := pending, boot := boot, nv := nv, params := [], cfgm := CfgM.fresh, fw := Fw.fresh, power := Power.fresh, link := link,
    pf := PfRegs.fresh, sparing := Sparing.fresh, funcs := [], queues := [], cmds := { list := [], next := 0 }, ctxs := [], strms := [],
    images := { imgs := [], nextGen := [] }, steps := Steps.fresh, lcores := (List.range 8).map LCore.fresh,
    pcores := (List.range 9).map (fun i => PCore.fresh (i == 8)), rope := Rope.fresh, coll := Coll.fresh,
    tier := Tier.fresh, cmp := Cmp.fresh, dram := Dram.fresh, flash := flash, out := out, draws := draws }

/-- The tile just after the internal reset of a power-on is released, before the boot ROM runs. -/
def State.reset : State :=
  State.afterReset [] Nv.blank Flash.fresh (Boot.fresh 0) Link.fresh [] 0

end Sys2Proof.Machine
end

