-- ==== Sys2Proof/Machine/Ops.lean ====
section
/-!
DEFINITION. Machine/Ops.lean: the named operations that every event uses: reading and changing a component, event bits (R10), log
entries (R419 to R421), posted writes and messages (R356, R357, R359), entropy draws (R364) and command-entry fields (R348).
-/
namespace Sys2Proof.Machine

abbrev Result := Host.Outcome State Fault Refusal

def State.param (s : State) (p idx : Nat) : Nat := s.params.val p idx

/-- The owner of a function (R408): two functions of one owner share partitions and core sets (R296, R353). -/
def State.owner (s : State) (func : Nat) : Nat := s.param 0x0104 func

def State.ctx (s : State) (n : Nat) : Option Ctx := s.ctxs.get? n
def State.modCtx (s : State) (n : Nat) (f : Ctx → Ctx) : State := { s with ctxs := s.ctxs.upd n f }

def State.func (s : State) (n : Nat) : Func := s.funcs.getD n Func.fresh
def State.modFunc (s : State) (n : Nat) (f : Func → Func) : State := { s with funcs := s.funcs.set n (f (s.func n)) }

def State.lc (s : State) (c : Nat) : LCore := s.lcores.getD c (LCore.fresh c)
def State.modLc (s : State) (c : Nat) (f : LCore → LCore) : State := { s with lcores := s.lcores.modify c f }

def State.pcr (s : State) (p : Nat) : PCore := s.pcores.getD p (PCore.fresh false)
def State.modPc (s : State) (p : Nat) (f : PCore → PCore) : State := { s with pcores := s.pcores.modify p f }

/-- The physical core that carries a logical core, and none when it has no carrier (R18, R442). -/
def State.carrier (s : State) (c : Nat) : Option Nat :=
  let k := (s.lc c).carrier.toNat
  if k = 15 then none else some k

/-- The logical core that a physical core carries. -/
def State.carried (s : State) (p : Nat) : Option Nat := (List.range 8).find? (fun c => (s.lc c).carrier.toNat == p)

/-- The scratchpad of a logical core; one without a carrier reads as a fresh one. -/
def State.scratch (s : State) (c : Nat) : PCore :=
  match s.carrier c with
  | some p => s.pcr p
  | none => PCore.fresh false

def State.modScratch (s : State) (c : Nat) (f : PCore → PCore) : State :=
  match s.carrier c with
  | some p => s.modPc p f
  | none => s

def State.modStep (s : State) (n : Nat) (f : StepRec → StepRec) : State :=
  { s with steps := { s.steps with list := s.steps.list.upd n f } }

def State.step? (s : State) (n : Nat) : Option StepRec := s.steps.list.get? n

/-- Whether the tile serves: READY is set and nothing has stopped fetching (R404, R460, R466). -/
def State.serving (s : State) : Bool := s.boot.life == .serving

/-- Whether engines and firmware still run: the tile serves, is entering Bivouac (R460) or has tripped and only stopped fetching (R466). -/
def State.running (s : State) : Bool := s.boot.life == .serving || s.boot.life == .entering || s.boot.life == .tripped

/-- Whether the tile is in a life in which the host can address its functions (R404, R405, R457, R460). -/
def State.hostLives (s : State) : Bool := s.boot.life == .booting || s.boot.life == .halted || s.running

/-- Whether the link carries TLPs (R334, R336). -/
def State.linkOpen (s : State) : Bool := s.link.up && (!s.link.ideEnabled || s.link.ideSecure)

/-- Sends something on the link; what is sent while the link carries nothing is discarded (R334, R336). -/
def State.send (s : State) (o : Out) : State := if s.linkOpen then { s with out := s.out ++ [o] } else s

/-- A signal on a wire of the package. -/
def State.signal (s : State) (o : Out) : State := { s with out := s.out ++ [o] }

/-- The pieces of a transfer: none crosses a 4 KiB boundary or exceeds a size (R357). -/
def pieces (top : Nat) : Nat → Nat → Nat → List (Nat × Nat)
  | 0, _, _ => []
  | fuel + 1, addr, len =>
    if len = 0 then []
    else
      let n := min len (min top (4096 - addr % 4096))
      (addr, n) :: pieces top fuel (addr + n) (len - n)

/-- The requests of a read: at most 512 bytes each (R330, R357). -/
def readPieces (addr n : Nat) : List (Nat × Nat) := pieces 512 (n / 512 + n / 4096 + 3) addr n

/-- A posted write of bytes to host memory: no request exceeds the max payload size (R330, R356, R357). -/
def State.hostWrite (s : State) (func : Nat) (pasid : Option Nat) (addr : Nat) (data : Bytes) : State :=
  (pieces s.link.mps (data.length / s.link.mps + data.length / 4096 + 3) addr data.length).foldl
    (fun t p => t.send (.write func pasid p.1 ((data.drop (p.1 - addr)).take p.2))) s

/-- An MSI-X message on a vector of a function; a masked vector sets its pending bit (R359). -/
def State.msix (s : State) (func vector : Nat) : State :=
  let v := (s.func func).vectors.getD vector Vector'.fresh
  if v.masked then s.modFunc func (fun f => { f with vectors := f.vectors.set vector { v with pend := true } })
  else s.send (.msix func vector)

/- Event bits of the PF's registers, each stamped with the arrivals so far (R10). -/
def State.dramEvent (s : State) (bit : Nat) : State := { s with pf := { s.pf with dramEv := s.pf.dramEv.raise bit s.pf.arrivals } }
def State.flashEvent (s : State) (bit : Nat) : State := { s with pf := { s.pf with flEv := s.pf.flEv.raise bit s.pf.arrivals } }
def State.cmpEvent (s : State) (bit : Nat) : State := { s with pf := { s.pf with cmpEv := s.pf.cmpEv.raise bit s.pf.arrivals } }
def State.fwEvent (s : State) (bit : Nat) : State := { s with pf := { s.pf with fwEv := s.pf.fwEv.raise bit s.pf.arrivals } }
def State.pwrEvent (s : State) (bit : Nat) : State := { s with pf := { s.pf with pwrEv := s.pf.pwrEv.raise bit s.pf.arrivals } }
def State.uciEvent (s : State) (bit : Nat) : State := { s with pf := { s.pf with uciEv := s.pf.uciEv.raise bit s.pf.arrivals } }
def State.spareEvent (s : State) : State := { s with pf := { s.pf with spareEv := s.pf.spareEv.raise 6 s.pf.arrivals } }

/- Event bits of a context's registers. -/
def State.strmEvent (s : State) (n bit : Nat) : State := s.modCtx n (fun c => { c with strmEv := c.strmEv.raise bit s.pf.arrivals })
def State.kvEvent (s : State) (n bit : Nat) : State := s.modCtx n (fun c => { c with kvEv := c.kvEv.raise bit s.pf.arrivals })
def State.tierEvent (s : State) (n bit : Nat) : State := s.modCtx n (fun c => { c with tierEv := c.tierEv.raise bit s.pf.arrivals })
def State.secEvent (s : State) (n bit : Nat) : State :=
  s.modCtx n (fun c => { c with sec := { c.sec with events := EvReg.raise c.sec.events bit s.pf.arrivals } })

/-- A fresh draw of the entropy source (R284, R364), a free value. -/
def State.draw (s : State) : Bytes × State := (Config.entropy s.draws, { s with draws := s.draws + 1 })

/-- The fields of a log entry beyond its function, LSN, time and SEVERITY (R420). -/
structure LogRec where
  event : Nat
  ctx : Option Nat
  tag : Nat
  desc : Option Nat
  core : Option Nat
  /-- DETAIL as bit offsets and values, with the fields marked PF apart (R421). -/
  detail : List (Nat × Nat)
  pfDetail : List (Nat × Nat)
  deriving DecidableEq, Repr

/-- The 64 bytes of a log entry (R420). -/
def LogRec.bytes (r : LogRec) (pf : Bool) (lsn time : Nat) : Bytes :=
  toLe lsn 8 ++ toLe time 8 ++ toLe r.event 2 ++ toLe (Config.logSeverity r.event).toNat 1 ++ [0#8] ++ toLe (r.ctx.getD 0xFFF) 2 ++ toLe r.tag 2 ++
    toLe (r.desc.getD 0xFFFFFFFF) 4 ++ toLe (match r.core with | some c => c + 8 | none => 0) 4 ++
    toLe (packBits (r.detail ++ (if pf then r.pfDetail else []))) 32

/-- Set bits of ROLLBACK: the firmware security version that reports and captures carry (R327, R368). -/
def Nv.svn (nv : Nv) : Nat := ((List.range 256).filter (fun i => nv.otp.rollback.toNat.testBit i)).length

def Nv.serial (nv : Nv) : Nat := nv.otp.row.serial.toNat

/-- The certificate chain as it is read (R365). -/
def Nv.certChain (nv : Nv) : Bytes := nv.rootCert ++ nv.leafCert

/-- The chain is at most 8 KiB long, its root key hashes to SIGNER_HASH and its leaf certifies IDK_PUB (R365). -/
def Nv.chainOk (nv : Nv) : Bool :=
  decide (nv.certChain.length ≤ 8192) && decide (fixLen 48 nv.otp.row.signerHash = fixLen 48 (Config.sha384 (Config.certKey nv.rootCert))) &&
    decide (nv.otp.row.idkPub = Config.certKey nv.leafCert)

/- Parts of the kept state that groups of rows may change; what is burned into OTP stands in none of them (R326). -/

/-- The installed objects, the decode-table generations they hold, and the next serial. -/
def Nv.modelsOf (nv r : Nv) : Nv := { nv with models := r.models, gens := r.gens, nextSerial := r.nextSerial }

/-- The installed objects, and the service record of the cores. -/
def Nv.coresOf (nv r : Nv) : Nv := { nv with models := r.models, switched := r.switched, carrierless := r.carrierless }

/-- The installed objects, and the service record of the DRAM ranks. -/
def Nv.ranksOf (nv r : Nv) : Nv := { nv with models := r.models, sparedRanks := r.sparedRanks, withdrawnRanks := r.withdrawnRanks }

/-- The installed objects, and the service record. -/
def Nv.serviceOf (nv r : Nv) : Nv :=
  { nv with models := r.models, switched := r.switched, carrierless := r.carrierless, sparedRanks := r.sparedRanks, withdrawnRanks := r.withdrawnRanks }

/-- The firmware slots, the commit records and the copies of the configuration. -/
def Nv.slotsOf (nv r : Nv) : Nv :=
  { nv with slotA := r.slotA, slotB := r.slotB, commits := r.commits, cfg0 := r.cfg0, cfg1 := r.cfg1 }

/-- ROLLBACK of the OTP rows (R326). -/
def Nv.burnedOf (nv r : Nv) : Nv := { nv with otp := nv.otp.burnedOf r.otp }

/-- An event destined for one function takes its next LSN and enters the log queue, or is dropped when the queue is full (R419). -/
def State.logTo (s : State) (func : Nat) (r : LogRec) : State :=
  let f := s.func func
  let item : LogItem := { func := func, ring := f.ring, lsn := f.lsn.toNat, entry := r.bytes (func == 0) f.lsn.toNat s.boot.timer }
  if s.fw.logQ.length < 4096 then
    { s.modFunc func (fun g => { g with lsn := g.lsn + 1 }) with fw := { s.fw with logQ := s.fw.logQ ++ [item] } }
  else s.modFunc func (fun g => { g with lsn := g.lsn + 1, logDrop := BitVec.ofNat 32 (satInc 65535 g.logDrop.toNat) })

/-- An event sent to the PF alone. -/
def State.logPf (s : State) (r : LogRec) : State := s.logTo 0 r

/-- An event sent to the owning function of a context and to the PF, once when they are the same (R421). -/
def State.logBoth (s : State) (owner : Nat) (r : LogRec) : State :=
  let t := s.logTo owner r
  if owner = 0 then t else t.logTo 0 r

/-- Delivers one queued log entry: a 64-byte posted write at its ring index, or nothing when its function has no ring (R419). -/
def State.deliverLog (s : State) (i : LogItem) : State :=
  match i.ring, (s.func i.func).ring with
  | some r, some _ => s.hostWrite i.func r.pasid (r.base + i.lsn % r.depth * 64) i.entry
  | _, _ => s

/-- Issues the queued log entries of a function, which go before the completion that follows them (R419). -/
def State.flushLog (s : State) (func : Nat) : State :=
  let mine := s.fw.logQ.filter (fun i => i.func == func)
  let t := mine.foldl State.deliverLog s
  { t with fw := { t.fw with logQ := t.fw.logQ.filter (fun i => i.func != func) } }

def mkLog (event : Nat) (detail : List (Nat × Nat)) : LogRec :=
  { event := event, ctx := none, tag := 0, desc := none, core := none, detail := detail, pfDetail := [] }

/- Fields of a command entry (R348). -/
def Cmd.fld (c : Cmd) (off n : Nat) : Nat := leAt c.entry off n
def Cmd.opcode (c : Cmd) : Nat := c.fld 0 1
def Cmd.irq (c : Cmd) : Bool := bit? (c.fld 1 1) 0
def Cmd.cid (c : Cmd) : Nat := c.fld 2 2
def QRef.isAdmin : QRef → Bool
  | .admin _ => true
  | .pair _ => false

/-- Whether every bit of the entry outside the header fields and the named argument bits is zero (R348, R351): the pairs are
(first bit, bits). -/
def Cmd.reservedZero (c : Cmd) (named : List (Nat × Nat)) : Bool :=
  let x := leAt c.entry 0 64
  let m := ([(0, 8), (8, 1), (16, 16)] ++ named).foldl (fun (a : Nat) (p : Nat × Nat) => a ||| (2 ^ (p.1 + p.2) - 2 ^ p.1)) 0
  x &&& m == x

/-- Appends bits to a saturating counter of w bits (R479). -/
def satUp {w : Nat} (x : BitVec w) : BitVec w := BitVec.ofNat w (satInc (2 ^ w - 1) x.toNat)
def satPlus {w : Nat} (x : BitVec w) (k : Nat) : BitVec w := BitVec.ofNat w (satAdd (2 ^ w - 1) x.toNat k)

end Sys2Proof.Machine
end

