-- ==== Sys2Proof/Machine/Protect.lean ====
section
/-!
DEFINITION. Machine/Protect.lean: the form in which protected bytes leave the engine die: keys (R362, R364), sealed sectors and their MACs (R374, R383,
R384; notes/assumptions/13.md).
-/
namespace Sys2Proof.Machine

def asciiBytes (t : String) : Bytes := t.toList.map (fun ch => BitVec.ofNat 8 ch.toNat)

/- Keys under MEM_ROOT (R364). -/
def Nv.ctxXts (nv : Nv) (nonce : Bytes) (ctx : Nat) : Bytes := Config.hkdf nv.otp.row.memRoot nonce (asciiBytes "IVN ctx xts" ++ toLe ctx 2) 64
def Nv.ctxMac (nv : Nv) (nonce : Bytes) (ctx : Nat) : Bytes := Config.hkdf nv.otp.row.memRoot nonce (asciiBytes "IVN ctx mac" ++ toLe ctx 2) 32
def Nv.objXts (nv : Nv) (nonce : Bytes) (serial : Nat) : Bytes :=
  Config.hkdf nv.otp.row.memRoot nonce (asciiBytes "IVN obj xts" ++ toLe serial 4) 64
def Nv.objMac (nv : Nv) (nonce : Bytes) (serial : Nat) : Bytes :=
  Config.hkdf nv.otp.row.memRoot nonce (asciiBytes "IVN obj mac" ++ toLe serial 4) 32

def sectorBytes : Nat := 512

/-- The tweak of the sector that begins at an address: bits [47:9] (R383). -/
def sectorTweak (addr : Nat) : Nat := addr % 2 ^ 48 / sectorBytes

/-- Sectors from an address on, encrypted and decrypted one by one (R383). -/
def sealSectors (key : Bytes) (addr : Nat) (b : Bytes) : Bytes :=
  (List.range (b.length / sectorBytes)).flatMap (fun i =>
    toLe (Config.xts key (sectorTweak (addr + sectorBytes * i)) (BitVec.ofNat 4096 (leAt b (sectorBytes * i) sectorBytes))).toNat sectorBytes)
def openSectors (key : Bytes) (addr : Nat) (b : Bytes) : Bytes :=
  (List.range (b.length / sectorBytes)).flatMap (fun i =>
    toLe ((Config.xts key (sectorTweak (addr + sectorBytes * i))).symm (BitVec.ofNat 4096 (leAt b (sectorBytes * i) sectorBytes))).toNat sectorBytes)

/-- The MAC of a sector: over its address, the context number or install serial, and its ciphertext (R383). -/
def sectorMac (key : Bytes) (addr ident : Nat) (sector : Bytes) : Bytes := (Config.cmac key (toLe addr 8 ++ toLe ident 4 ++ sector)).take 8

/-- What the sectors of a tile are sealed with: the XTS and MAC keys, the address of the tile and the number that the MAC binds. -/
structure SealKeys where
  xts : Bytes
  mac : Bytes
  base : Nat
  ident : Nat
  deriving DecidableEq, Repr

/-- Those of a tile of a model object: an object has its keys and its own addresses before it is attached anywhere (R364, R374; notes/assumptions/13.md). -/
def Nv.objKeys (nv : Nv) (nonce : Bytes) (serial tile : Nat) : SealKeys :=
  { xts := nv.objXts nonce serial, mac := nv.objMac nonce serial, base := tile * tileBytes, ident := serial }

/-- Those of a tile of a segment, when it is PROTECTED (R383). -/
def State.tileKeys (s : State) (ctx seg : Nat) (g : Seg) (tile : Nat) : Option SealKeys :=
  match g.kind with
  | .model => ((s.nv.models.get? g.handle).filter (·.prot)).map (fun m => s.nv.objKeys m.nonce m.serial (g.lower * 32 + tile))
  | _ =>
    if !g.prot then none
    else (s.ctx ctx).map (fun x =>
      { xts := s.nv.ctxXts x.sec.nonce ctx, mac := s.nv.ctxMac x.sec.nonce ctx, base := seg * 2097152 + tile * tileBytes, ident := ctx })

/-- Bytes from an offset of a tile on as they leave the engine die, and back. -/
def SealKeys.close (k : SealKeys) (off : Nat) (b : Bytes) : Bytes := sealSectors k.xts (k.base + off) b
def SealKeys.open (k : SealKeys) (off : Nat) (b : Bytes) : Bytes := openSectors k.xts (k.base + off) b
def closeWith (k : Option SealKeys) (b : Bytes) : Bytes := k.elim b (fun x => x.close 0 b)
def openWith (k : Option SealKeys) (b : Bytes) : Bytes := k.elim b (fun x => x.open 0 b)

/-- The MACs of a tile in its MAC store, sector by sector (R384). -/
def SealKeys.macs (k : SealKeys) (b : Bytes) : List Bytes :=
  (List.range (b.length / sectorBytes)).map (fun i =>
    sectorMac k.mac (k.base + sectorBytes * i) k.ident (((k.close 0 b).drop (sectorBytes * i)).take sectorBytes))

end Sys2Proof.Machine
end

