-- ==== Sys2Proof/Machine/TierOps.lean ====
section
/-!
DEFINITION. Machine/TierOps.lean: DRAM frames and guarantees (R226 to R228, R269, R296, R485), cache slots and the clock (R235), tile
eviction, promotion and demotion (R230 to R237, R257 to R260), and decode-table generations (R254, R255).
-/
namespace Sys2Proof.Machine

/-- The rank ranges of a group: channel, first frame, frame after the last, whether the rank is the spare (R269, R270). -/
def State.rankRanges (s : State) (g : Nat) : List (Nat × Nat × Nat × Bool) :=
  let sp := (s.dram.group g).spareIdx
  (List.range 8).map (fun i =>
    let lo := if i ≤ sp then i * rankFrames else i * rankFrames - 480
    (g * 4 + i / 2, g * groupFrames + lo, g * groupFrames + lo + (if i = sp then 480 else rankFrames), i == sp))

/-- The first frame of a range that firmware does not keep: firmware keeps the lowest in-service frames of group 0 (R226). -/
def State.pastFirmware (s : State) (lo hi : Nat) : Nat :=
  let sp := (s.dram.group 0).spareIdx
  let before := if lo ≤ sp * rankFrames then lo else lo - 480
  if groupFrames ≤ lo then lo else min hi (lo + (s.param 0x0301 0 - before))

/-- Whether firmware keeps a frame (R226). -/
def State.firmwareFrame (s : State) (f : Nat) : Bool :=
  decide (f < groupFrames) && !s.dram.lendable f &&
    decide ((if f < (s.dram.group 0).spareIdx * rankFrames then f else f - 480) < s.param 0x0301 0)

/-- Whether a rank of a group has been withdrawn without a spare (R294). -/
def State.withdrawnRank (s : State) (chan : Nat) (rank : Bool) : Bool :=
  let c := s.dram.chan chan
  (if rank then c.retired1 else c.retired0) && (s.dram.group (chan / 4)).retired != some (chan % 4, rank)

/-- Whether the rank that a rank's frame numbers now name has been withdrawn (R270, R294). -/
def State.rankGone (s : State) (chan : Nat) (rank : Bool) : Bool :=
  let g := s.dram.group (chan / 4)
  s.withdrawnRank chan rank ||
    (g.retired == some (chan % 4, rank) && g.spareState == 3 && s.withdrawnRank (chan / 4 * 4 + g.spareCh.toNat) g.spareRank)

/-- The rank ranges of a group where their frames lie now, each with the channel it lies on: the frames of a retired rank that have been copied lie
on the spare rank (R270, R291). -/
def State.placedRanges (s : State) (g : Nat) : List (Nat × Nat × Nat × Bool) :=
  let x := s.dram.group g
  (s.rankRanges g).zipIdx.flatMap (fun (r, i) =>
    match x.retired with
    | some (ch, rk) =>
      if i = ch * 2 + b2n rk then
        let n := if x.spareState = 3 then rankFrames else if x.spareState = 2 then x.migProgress.toNat else 0
        [(g * 4 + x.spareCh.toNat, r.2.1, r.2.1 + n, false), (r.1, r.2.1 + n, r.2.2.1, false)]
      else [r]
    | none => [r])

/-- Whether a frame may be given to anyone: it exists, is not firmware's, is not withdrawn, and, when it is lendable, its group's
spare is still ready (R226, R269, R270, R294). -/
def State.usableFrame (s : State) (f : Nat) : Bool :=
  let h := s.dram.frameHome f
  decide (f < allFrames) && !s.firmwareFrame f && !s.rankGone h.1 (h.2.1 == 1) &&
    (!s.dram.lendable f || (s.dram.group (f / groupFrames)).spareState == 0)

def FrameUse.owner : FrameUse → Option Nat
  | .segment c _ => some c
  | .cache c _ _ => some c
  | .charged c => some c
  | .zeroing (some (c, _)) => some c
  | _ => none

def FrameUse.isBorrowed : FrameUse → Bool
  | .cache _ b _ => b
  | _ => false

/-- Frames that a context holds within its guarantee, and frames it has borrowed (R245). -/
def State.heldFrames (s : State) (ctx : Nat) : Nat :=
  (s.tier.frames.filter (fun p => p.2.owner == some ctx && !p.2.isBorrowed)).length
def State.borrowedFrames (s : State) (ctx : Nat) : Nat :=
  (s.tier.frames.filter (fun p => p.2.owner == some ctx && p.2.isBorrowed)).length

/-- Tiles charged to a context beside whole frames (R226). -/
def Ctx.chargeTiles (c : Ctx) : Nat := (c.charges.map (·.2)).sum

/-- 64 KiB tiles charged against the guarantee: whole frames of segments and cache, and the charged tiles. -/
def State.quotaTiles (s : State) (ctx : Nat) : Nat :=
  let whole := (s.tier.frames.filter (fun p => p.2.owner == some ctx && !p.2.isBorrowed && p.2 != .charged ctx)).length
  32 * whole + ((s.ctx ctx).map Ctx.chargeTiles).getD 0

/-- Whether further tiles fit a context's guarantee. -/
def State.fits (s : State) (ctx tiles : Nat) : Bool :=
  decide (s.quotaTiles ctx + tiles ≤ 32 * ((s.ctx ctx).map (·.guarantee)).getD 0)

/-- Guaranteeable frames (R226, R294): in-service frames that are not firmware's, of one partition or of all. -/
def State.guaranteeable (s : State) (part : Option Nat) : Nat :=
  ((List.range 8).map (fun g =>
    if part.any (fun p => s.param 0x020C g != p) then 0
    else ((s.rankRanges g).map (fun r =>
      if r.2.2.2 || s.rankGone r.1 ((s.dram.frameHome r.2.1).2.1 == 1) then 0
      else r.2.2.1 - s.pastFirmware r.2.1 r.2.2.1)).sum)).sum

/-- Frames that are neither held nor borrowed nor kept by firmware (R245). -/
def State.freeFrames (s : State) : Nat :=
  let lend := ((List.range 8).map (fun g => if (s.dram.group g).spareState = 0 then 480 else 0)).sum
  s.guaranteeable none + lend - (s.tier.frames.filter (fun p => p.2.owner.isSome)).length

/-- The answer of the frame allocator: a frame, a wait until its bank quad is up (R297, R299), or no free frame. -/
inductive AllocRes where
  | ok (frame : Nat)
  | wait
  | full
  deriving DecidableEq, Repr

/-- Allocates a frame for a context: on the allowed channel with a free frame that holds the fewest of the context's frames, the lowest
channel on a tie, its lowest free frame number (R485). A frame that was reclaimed for the context comes first (R227). Lendable frames serve only
borrowing (R269), and a DOWN channel serves nothing (notes/assumptions/29.md). -/
def State.findFrame (s : State) (ctx : Nat) (borrow : Bool) : AllocRes :=
  match if borrow then none else s.tier.frames.find? (fun p => p.2 == .kept ctx) with
  | some p => .ok p.1
  | none =>
  let part := ((s.ctx ctx).map (·.partition)).getD 0
  let groups := (List.range 8).filter (fun g => s.param 0x020C g == part)
  let ranges := groups.flatMap s.placedRanges
  let pick (chan : Nat) : Option Nat :=
    ((ranges.filter (fun r => r.1 == chan && (s.dram.chan chan).state != 3 && (!r.2.2.2 || (borrow && (s.dram.group (chan / 4)).spareState == 0)))).filterMap
      (fun r =>
        let f := s.tier.frames.firstFree (s.pastFirmware r.2.1 r.2.2.1) r.2.2.1
        f.filter s.usableFrame)).head?
  let mine := s.tier.frames.filter (fun p => p.2.owner == some ctx)
  let count (chan : Nat) : Nat := (mine.filter (fun p => (s.dram.frameLoc p.1).1 == chan)).length
  let cands := (groups.flatMap (fun g => [4 * g, 4 * g + 1, 4 * g + 2, 4 * g + 3])).filterMap (fun c => (pick c).map (fun f => (count c, f)))
  match cands.foldl (fun (acc : Option (Nat × Nat)) x =>
    match acc with | none => some x | some y => if x.1 < y.1 then some x else some y) none with
  | none => .full
  | some (_, f) =>
    let l := s.dram.frameLoc f
    if (s.dram.chan l.1).quad l.2.1 (l.2.2 / 240) = .on then .ok f else .wait

def State.setFrame (s : State) (f : Nat) (u : FrameUse) : State := { s with tier := { s.tier with frames := s.tier.frames.set f u } }
def State.freeFrame (s : State) (f : Nat) : State := { s with tier := { s.tier with frames := s.tier.frames.erase f } }

/-- A frame that is given up: F2 zeroes it before it rejoins the pool (R386). -/
def State.releaseFrame (s : State) (f : Nat) : State := s.setFrame f (.zeroing none)

/-- Frame and slot of a tile's DRAM copy (R229). -/
def Tile.frame (t : Tile) : Nat := t.slot / 32
def Tile.off (t : Tile) : Nat := t.slot % 32 * tileBytes

def State.seg (s : State) (ctx seg : Nat) : Option Seg := (s.ctx ctx).bind (fun c => c.segs.get? seg)
def State.modSeg (s : State) (ctx seg : Nat) (f : Seg → Seg) : State :=
  s.modCtx ctx (fun c => { c with segs := c.segs.upd seg f })
def State.tile (s : State) (ctx seg tile : Nat) : Option Tile := (s.seg ctx seg).bind (fun g => g.tiles[tile]?)
def State.modTile (s : State) (ctx seg tile : Nat) (f : Tile → Tile) : State :=
  s.modSeg ctx seg (fun g => { g with tiles := g.tiles.modify tile f })

/-- Whether a tile has a DRAM slot (R229). -/
def TileSt.present : TileSt → Bool
  | .promoting => true
  | .upper => true
  | .evictPending => true
  | .demoting => true
  | .poisoned => true
  | _ => false

/-- First logical page of a tile: in its model object, or in its spill extent (R321). -/
def State.lpage (s : State) (g : Seg) (tile : Nat) : Nat :=
  match g.kind with
  | .model => ((s.nv.models.get? g.handle).elim 0 (fun m => m.units.getD g.lower 0)) * 128 + 4 * tile
  | _ => (spillUnit + g.serial) * 128 + 4 * tile

/-- The generation that a tile of a MODEL segment names (R254). -/
def State.tileGen (s : State) (g : Seg) (tile : Nat) : Option Nat :=
  (s.nv.models.get? g.handle).bind (fun x => (x.tiles[g.lower * 32 + tile]?).bind (·.gen))

/-- Tiles naming a generation that are in flight (R254). -/
def State.genInFlight (s : State) (k : Nat) : Nat :=
  (s.tier.ghosts.filter (fun g => g.gen == some k)).length + (s.ctxs.map (fun c => (c.2.segs.map (fun p =>
    if p.2.kind ≠ .model then 0
    else ((p.2.tiles.zipIdx).filter (fun t => t.1.st.present && t.1.st != .poisoned && s.tileGen p.2 t.2 == some k)).length)).sum)).sum

/-- Generations without a hold and without in-flight tiles become FREE; without a hold, RETIRING (R254). -/
def State.settleGens (s : State) : State :=
  { s with cmp := { s.cmp with gens := s.cmp.gens.map (fun p =>
      if p.2.state = .free ∨ p.2.holds ≠ 0 then p
      else if s.genInFlight p.1 = 0 then (p.1, Gen.fresh) else (p.1, { p.2 with state := .retiring })) } }

/-- Frees the slot of a tile; a cache frame that then has no occupied slot is given up (R226). -/
def State.freeSlot (s : State) (slot : Nat) : State :=
  match s.tier.frames.get? (slot / 32) with
  | some (.cache c b slots) =>
    let rest := slots.erase (slot % 32)
    if rest.isEmpty then s.releaseFrame (slot / 32) else s.setFrame (slot / 32) (.cache c b rest)
  | _ => s

/-- A clean tile leaves its slot (R230). -/
def State.leave (s : State) (ctx seg tile : Nat) (t : Tile) : State :=
  ((s.freeSlot t.slot).modTile ctx seg tile (fun x => { x with st := .lower, dirty := false, ref := false, slot := 0 })).settleGens

/-- Begins a demotion (R230, R236). -/
def State.demote (s : State) (ctx seg tile : Nat) : State :=
  let t := s.modTile ctx seg tile (fun x => { x with st := .demoting })
  { t with tier := { t.tier with demos := t.tier.demos ++ [(ctx, seg, tile)] } }

/-- Evicts a tile (R230, R232): a clean unpinned tile leaves, a dirty one is demoted, a pinned or PROMOTING one is deferred. -/
def State.evict (s : State) (ctx seg tile : Nat) : State :=
  match s.tile ctx seg tile with
  | none => s
  | some t =>
    match t.st with
    | .upper =>
      if t.pins = 0 then (if t.dirty then s.demote ctx seg tile else s.leave ctx seg tile t)
      else (s.modTile ctx seg tile (fun x => { x with st := .evictPending, evictAt := s.steps.dispatched })).tierEvent ctx 0
    | .promoting =>
      (s.modTile ctx seg tile (fun x => { x with st := .evictPending, evictAt := s.steps.dispatched })).tierEvent ctx 0
    | _ => s

/-- An EVICT_PENDING tile whose pins have drained and whose data is in DRAM leaves (R230, R232). -/
def State.settleEvict (s : State) (ctx seg tile : Nat) : State :=
  match s.tile ctx seg tile with
  | some t =>
    if t.st = .evictPending ∧ t.pins = 0 ∧ !s.tier.promos.contains (ctx, seg, tile) then
      (if t.dirty then s.demote ctx seg tile else s.leave ctx seg tile t)
    else s
  | none => s

/-- The segment number under which a slot stands whose promotion outlives its segment; no context has it (R221). -/
def ghostSeg : Nat := 2 ^ 27

/-- A promotion goes on without its tile, whose segment is being unmapped: its slot and its generation stay taken until it ends (R254). -/
def State.orphan (s : State) (ctx seg tile : Nat) : State :=
  match s.seg ctx seg, s.tile ctx seg tile with
  | some g, some t =>
    let x : Ghost := { ctx := ctx, seg := seg, tile := tile, slot := t.slot, gen := s.tileGen g tile }
    let u : State := { s with tier := { s.tier with
      promos := s.tier.promos.filter (fun p => p != (ctx, seg, tile)), ghosts := s.tier.ghosts ++ [x],
      frames := s.tier.frames.upd (t.slot / 32) (fun f => match f with
        | .cache c b slots => .cache c b (slots.set (t.slot % 32) (ghostSeg, tile))
        | y => y) } }
    u.modTile ctx seg tile (fun y => { y with st := .lower, slot := 0 })
  | _, _ => s

/-- The promotion of a tile whose segment is gone ends: its slot is free, and its generation may become FREE (R254). -/
def State.endGhost (s : State) (g : Ghost) : State :=
  (({ s with tier := { s.tier with ghosts := s.tier.ghosts.erase g } } : State).freeSlot g.slot).settleGens

/-- The occupied slots of a context as (slot, segment, tile), ascending. -/
def State.slotsOf (s : State) (ctx : Nat) : List (Nat × Nat × Nat) :=
  s.tier.frames.flatMap (fun p => match p.2 with
    | .cache c _ slots => if c = ctx then slots.map (fun q => (p.1 * 32 + q.1, q.2.1, q.2.2)) else []
    | _ => [])

/-- Whether the flash array has reached WORN (R320). -/
def State.worn (s : State) : Bool := s.flash.state == 2

/-- Advances a context's clock to the first tile it may evict and evicts it; none when it finds none (R235, R320). -/
def State.clockEvict (s : State) (ctx : Nat) : Option State :=
  let hand := ((s.ctx ctx).map (fun c => c.hand.1)).getD 0
  let all := s.slotsOf ctx
  let order := all.filter (fun x => decide (hand ≤ x.1)) ++ all.filter (fun x => decide (x.1 < hand))
  let able (t : State) (x : Nat × Nat × Nat) : Bool :=
    match t.tile ctx x.2.1 x.2.2 with
    | some u => u.st == .upper && u.pins == 0 && !(u.dirty && s.worn)
    | none => false
  let r := (order ++ order).foldl (fun (acc : State × Option State) x =>
    match acc.2 with
    | some _ => acc
    | none =>
      if !able acc.1 x then acc
      else if ((acc.1.tile ctx x.2.1 x.2.2).map (·.ref)).getD false then
        (acc.1.modTile ctx x.2.1 x.2.2 (fun u => { u with ref := false }), none)
      else (acc.1, some ((acc.1.evict ctx x.2.1 x.2.2).modCtx ctx (fun c => { c with hand := (x.1 + 1, 0) })))) (s, none)
  r.2

/-- Free slots of the frames a context holds, and of those it may still take within its guarantee (R235; notes/assumptions/18.md). -/
def State.freeSlots (s : State) (ctx : Nat) : Nat :=
  (s.tier.frames.map (fun p => match p.2 with
    | .cache c _ slots => if c = ctx then 32 - slots.length else 0
    | _ => 0)).sum + (32 * ((s.ctx ctx).map (·.guarantee)).getD 0 - s.quotaTiles ctx) / 32 * 32

/-- Whether a context may borrow (R227, R228). -/
def State.mayBorrow (s : State) (ctx : Nat) : Bool :=
  ((s.ctx ctx).map (·.borrow)).getD false && s.param 0x0302 0 == 1 && s.param 0x0101 0 == 0 &&
    !(s.ctxs.any (fun p => p.2.isolated && p.2.partition == ((s.ctx ctx).map (·.partition)).getD 0 && p.1 != ctx))

/-- The measure by which a borrowed frame is chosen (R227): frames with no pinned and no PROMOTING tile first, in the order in which the clock of the
owner reaches them, then the others by their pinned tiles and their number. -/
def State.reclaimRank (s : State) (f c : Nat) (slots : AList (Nat × Nat)) : Nat × Nat :=
  let tiles := slots.filterMap (fun q => (s.tile c q.2.1 q.2.2).map (fun t => (t, s.tier.promos.contains (c, q.2.1, q.2.2))))
  let pinned := (tiles.filter (fun t => t.1.pins != 0)).length
  if pinned = 0 ∧ !tiles.any (·.2) then
    (0, if ((s.ctx c).map (fun x => x.hand.1)).getD 0 ≤ f * 32 + 31 then f else f + allFrames)
  else (pinned + 1, f)

/-- The borrowed frame to reclaim for a claimant of a partition (R227). -/
def State.reclaimable (s : State) (part : Nat) : Option Nat :=
  let cands := s.tier.frames.filterMap (fun p => match p.2 with
    | .cache c true slots =>
      if s.param 0x020C (p.1 / groupFrames) = part ∧ !s.dram.lendable p.1 ∧ !s.tier.claims.has p.1 then
        some (s.reclaimRank p.1 c slots, p.1)
      else none
    | _ => none)
  (cands.foldl (fun (acc : Option ((Nat × Nat) × Nat)) x =>
    match acc with
    | none => some x
    | some y => if x.1.1 < y.1.1 ∨ (x.1.1 = y.1.1 ∧ x.1.2 < y.1.2) then some x else some y) none).map (·.2)

def State.partOf (s : State) (ctx : Nat) : Nat := ((s.ctx ctx).map (·.partition)).getD 0

/-- Reclaims one borrowed frame for a claimant: every tile of it is evicted, and FRAME_RECLAIMED is set for its owner. The frame passes to the claimant
when its last tile has left and it is zero (R227, R386). -/
def State.reclaim (s : State) (ctx : Nat) : State :=
  match s.reclaimable (s.partOf ctx) with
  | none => s
  | some f =>
    match s.tier.frames.get? f with
    | some (.cache c _ slots) =>
      (slots.foldl (fun (t : State) q => t.evict c q.2.1 q.2.2) { s with tier := { s.tier with claims := s.tier.claims.set f ctx } }).tierEvent c 1
    | _ => s

/-- Frames on their way to a claimant. -/
def State.claimed (s : State) (ctx : Nat) : Nat := (s.tier.claims.filter (fun p => p.2 == ctx)).length

/-- Reclaims borrowed frames for a claimant until as many as it lacks are on their way or none is left (R227). -/
def State.reclaimFor (s : State) (ctx lack : Nat) : State :=
  (List.range lack).foldl (fun (t : State) _ => if t.claimed ctx < lack then t.reclaim ctx else t) s

/-- The answer of a slot request: a slot taken, a wait, or a worn-out array with nothing to evict (R235, R320). -/
inductive SlotRes where
  | ok (s : State) (slot : Nat)
  | wait (s : State)
  | worn

/-- Takes the lowest free slot of a cache frame of the context for a tile; a frame that is being reclaimed takes none (R227). -/
def State.takeFree (s : State) (ctx seg tile : Nat) : Option (State × Nat) :=
  (s.tier.frames.findSome? (fun p => match p.2 with
    | .cache c b slots =>
      if c = ctx ∧ slots.length < 32 ∧ !s.tier.claims.has p.1 then (slots.firstFree 0 32).map (fun k => (p.1, b, slots, k)) else none
    | _ => none)).map (fun r => (s.setFrame r.1 (.cache ctx r.2.1 (r.2.2.1.set r.2.2.2 (seg, tile))), r.1 * 32 + r.2.2.2))

/-- A slot for a tile, in the order of R235. -/
def State.takeSlot (s : State) (ctx seg tile : Nat) : SlotRes :=
  match s.takeFree ctx seg tile with
  | some (t, k) => .ok t k
  | none =>
    let inside := s.fits ctx 32
    let tryFrame (borrowed : Bool) : Option SlotRes :=
      match s.findFrame ctx borrowed with
      | .ok f => some (.ok (s.setFrame f (.cache ctx borrowed [(0, (seg, tile))])) (f * 32))
      | .wait => some (.wait s)
      | .full => none
    let evictOne : SlotRes :=
      match s.clockEvict ctx with
      | some t => match t.takeFree ctx seg tile with
        | some (u, k) => .ok u k
        | none => .wait t
      | none => if s.worn then .worn else .wait s
    if inside then
      match tryFrame false with
      | some r => r
      | none => if s.claimed ctx ≠ 0 ∨ (s.reclaimable (s.partOf ctx)).isSome then .wait (s.reclaimFor ctx 1) else evictOne
    else if s.mayBorrow ctx then
      match tryFrame true with
      | some r => r
      | none => evictOne
    else evictOne

/-- Starts a promotion of a LOWER tile into a slot (R230, R234). -/
def State.promote (s : State) (ctx seg tile : Nat) : SlotRes :=
  match s.takeSlot ctx seg tile with
  | .ok t k =>
    let u := t.modTile ctx seg tile (fun x => { x with st := .promoting, slot := k })
    .ok { u with tier := { u.tier with promos := u.tier.promos ++ [(ctx, seg, tile)] } } k
  | r => r

/-- Places bytes in the DRAM copy of a tile. -/
def State.writeTileAt (s : State) (t : Tile) (off : Nat) (b : Bytes) : State :=
  { s with dram := s.dram.writeFrame t.frame (t.off + off) b }

/-- Reports the frame of a bad copy to DRAM service: it counts toward the retirement of the rank that holds the frame (R242, R290, R434). -/
def State.reportFrame (s : State) (t : Tile) : State :=
  let l := s.dram.frameLoc t.frame
  { s with dram := s.dram.setChan l.1 (fun c => { c with reports := (s.boot.timer, l.2.1, blockIndex l.2.2 (t.off / 64)) :: c.reports }) }

/-- Counts an uncorrectable read of a channel (R274). -/
def State.countChanUe (s : State) (chan : Nat) : State :=
  ({ s with dram := s.dram.setChan chan (fun c => { c with ue := satUp c.ue }) } : State).dramEvent 7

/-- Counts the uncorrectable blocks of an access to a frame (R274). -/
def State.countUes (s : State) (frame off n : Nat) : State :=
  (s.dram.unreadable frame off n).foldl (fun (t : State) k => t.countChanUe (keyChan k)) s

/-- The stored bytes of a tile's lower copy (R234, R260): the model tile as stored, or the spill blocks expanded, with whether every
block's check passed. -/
def State.lowerStored (s : State) (g : Seg) (tile : Nat) (t : Tile) : Bytes × Bool :=
  match g.kind with
  | .model => (s.flash.readPages (s.lpage g tile) 4, true)
  | _ =>
    let raw := s.flash.readPages (s.lpage g tile) 4
    let r := t.index.map (fun ix =>
      talusDecode ((raw.drop (ix.offset * 64 - tile * tileBytes)).take (ix.len64 * 64)) ix.raw ix.crc)
    (fixLen tileBytes ((r.map (·.1)).flatten), r.all (·.2))

/-- The same once the tier engine has decrypted a PROTECTED tile (R383). -/
def State.lowerBytes (s : State) (ctx seg : Nat) (g : Seg) (tile : Nat) (t : Tile) : Bytes := openWith (s.tileKeys ctx seg g tile) (s.lowerStored g tile t).1

/-- The packed blocks of a demotion and their index entries (R258, R260). A PROTECTED tile comes in its encrypted form and is stored raw (R236,
R265). -/
def packTile (tile : Nat) (prot : Bool) (data : Bytes) : Bytes × List SpillIx :=
  (List.range 16).foldl (fun (acc : Bytes × List SpillIx) k =>
    let b := (data.drop (k * 4096)).take 4096
    let e : Bytes × Bool := if prot then (b, true) else talusEncode b
    (acc.1 ++ e.1, acc.2 ++ [{ crc := crc32 b, offset := (tile * tileBytes + acc.1.length) / 64, raw := e.2, len64 := e.1.length / 64 }]))
    ([], [])

/-- Claims a decode table (R255): a hold on an identical live table, else the lowest free generation; none when the claim must wait or is
refused, with whether it must wait. -/
def State.claimTable (s : State) (table : Bytes) (preferred : Option Nat) : Option (State × Nat) × Bool :=
  let ks := List.range 64
  let g (k : Nat) : Gen := s.cmp.gen k
  let take (k : Nat) (load : Bool) : State :=
    let x : Gen := { state := .live, table := if load then table else (g k).table, holds := (g k).holds + 1 }
    { s with cmp := { s.cmp with gens := s.cmp.gens.set k x } }
  match ks.find? (fun k => (g k).state != .free && (g k).table == table) with
  | some k => (some (take k false, k), false)
  | none =>
    let slotFree (sl : Nat) : Option Nat := ((List.range 4).map (fun i => sl * 4 + i)).find? (fun k => (g k).state == .free)
    let slotRet (sl : Nat) : Bool := ((List.range 4).map (fun i => sl * 4 + i)).any (fun k => (g k).state == .retiring)
    match preferred.bind slotFree with
    | some k => (some (take k true, k), false)
    | none =>
      if preferred.any slotRet then (none, true)
      else
        match ks.find? (fun k => (g k).state == .free) with
        | some k => (some (take k true, k), false)
        | none => (none, ks.any (fun k => (g k).state == .retiring))

/-- Releases holds on generations (R254). -/
def State.releaseGens (s : State) (ks : List Nat) : State :=
  State.settleGens { s with cmp := { s.cmp with gens := ks.foldl (fun gs k => gs.upd k (fun x => { x with holds := x.holds - 1 })) s.cmp.gens } }

/- The DRAM copies of schedule images lie in charged frames, tile by tile (R129, R226). -/

/-- Places that tiles of a context's images hold. -/
def State.imagePlaces (s : State) (ctx : Nat) : List Nat := ((s.ctx ctx).map (fun (c : Ctx) => c.copies.flatMap (fun p => p.2.places))).getD []

/-- The lowest n free places in the charged frames of a context, without one frame (notes/assumptions/18.md). -/
def State.freePlaces (s : State) (ctx : Nat) (but : Option Nat) (n : Nat) : List Nat :=
  let used := s.imagePlaces ctx
  (((s.tier.frames.filter (fun p => p.2 == .charged ctx && some p.1 != but)).flatMap (fun p => (List.range 32).map (· + p.1 * 32))).filter
    (fun x => !used.contains x)).take n

/-- Copies a tile of DRAM to another place; a block that cannot be read is poisoned there. -/
def Dram.moveTile (d : Dram) (src dst : Nat) : Dram :=
  (List.range 1024).foldl (fun (e : Dram) b =>
    match e.readBlock (src / 32) (src % 32 * 1024 + b) with
    | some x => e.writeBlock (dst / 32) (dst % 32 * 1024 + b) x
    | none => e.poisonAll [e.keyOf (dst / 32) (dst % 32 * 1024 + b)]) d

/-- Moves image tiles from one place to another. -/
def State.movePlaces (s : State) (ctx : Nat) (moves : List (Nat × Nat)) : State :=
  let dest (x : Nat) : Nat := (moves.lookup x).getD x
  ({ s with dram := moves.foldl (fun (d : Dram) m => d.moveTile m.1 m.2) s.dram } : State).modCtx ctx
    (fun c => { c with copies := c.copies.map (fun p => (p.1, { p.2 with places := p.2.places.map dest })) })

/-- Gives up a charged frame; the image tiles in it move to other charged frames of the context (R226; notes/assumptions/18.md). -/
def State.giveBack (s : State) (ctx f : Nat) : State :=
  let here := (s.imagePlaces ctx).filter (fun x => x / 32 == f)
  (s.movePlaces ctx (here.zip (s.freePlaces ctx (some f) here.length))).releaseFrame f

/-- Sets a charge of a context and takes or gives back the frames that it fills (R226, R485); none when no frame is free. The frame
placed last is given back first (notes/assumptions/18.md). -/
def State.setCharge (s : State) (ctx key tiles : Nat) : Option State :=
  let t := s.modCtx ctx (fun c => { c with charges := if tiles = 0 then c.charges.erase key else c.charges.set key tiles })
  let need := cdiv (((t.ctx ctx).map Ctx.chargeTiles).getD 0) 32
  let have_ := (t.tier.frames.filter (fun p => p.2 == .charged ctx)).map (·.1)
  let grow := (List.range (need - have_.length)).foldl (fun (acc : Option State) _ =>
    acc.bind (fun u => match u.findFrame ctx false with
      | .ok f => some (u.setFrame f (.charged ctx))
      | _ => none)) (some t)
  grow.map (fun u => ((have_.reverse).take (have_.length - need)).foldl (fun v f => v.giveBack ctx f) u)

end Sys2Proof.Machine
end

