-- ==== Sys2Proof/Machine/WinOps.lean ====
section
/-!
DEFINITION. Machine/WinOps.lean: the violation rule (R224), host windows (R118, R354), bounce windows and their units (R377 to R381),
channel keys (R364, R376), and the step digests of a replay capture (R446).
-/
namespace Sys2Proof.Machine

/-- Where a violation is reported: the core, OP_TAG and descriptor of the access, when a descriptor made it. -/
structure Site where
  core : Option Nat
  tag : Nat
  desc : Option Nat
  deriving DecidableEq, Repr

def Site.command : Site := { core := none, tag := 0, desc := none }

/-- Counts violating requests of a context (R224). -/
def State.countViol (s : State) (ctx n : Nat) : State := s.modCtx ctx (fun c => { c with viol := satPlus c.viol n })

/-- The frame behind a device address: that of its DRAM segment or of its tile's DRAM copy; 0 where there is none. -/
def State.frameAt (s : State) (ctx addr : Nat) : Nat :=
  match s.seg ctx (addr / 2097152) with
  | none => 0
  | some g =>
    match g.kind with
    | .dram => if g.noFrame then 0 else g.handle
    | .host => 0
    | _ => match s.tile ctx (addr / 2097152) (addr / tileBytes % 32) with
      | some t => if t.st.present then t.frame else 0
      | none => 0

/-- Kinds of violation whose entry gives a device address of the context (R421): a write to MODEL, FMT 0xD on another tile, and a STATE-side
byte outside its region. -/
def violHasFrame (kind : Nat) : Bool := kind == 2 || kind == 5 || kind == 8

/-- The log entry of a violating descriptor (R224, R421; notes/assumptions/17.md). A command's violation is counted and has no entry. -/
def State.logViol (s : State) (ctx : Nat) (site : Site) (kind win addr : Nat) : State :=
  match s.ctx ctx with
  | none => s
  | some c => s.logBoth c.func
      { event := 0x10, ctx := some ctx, tag := site.tag, desc := site.desc, core := site.core,
        detail := [(0, kind), (16, win), (64, addr)]
        pfDetail := if violHasFrame kind then [(128, s.frameAt ctx addr)] else [] }

/-- Requests of R118 that an access of n bytes at a window offset makes: one for each aligned 256-byte run, as (offset, bytes). -/
def winRequests : Nat → Nat → Nat → List (Nat × Nat)
  | 0, _, _ => []
  | fuel + 1, off, n =>
    if n = 0 then []
    else let k := min n (256 - off % 256); (off, k) :: winRequests fuel (off + k) (n - k)

def winRuns (off n : Nat) : List (Nat × Nat) := winRequests (n / 256 + 2) off n

def Ctx.window? (c : Ctx) (id : Nat) : Option Window := c.windows.get? id

/-- Bytes of an access at an offset that lie inside a window (R224). -/
def insideLen (w : Option Window) (off n : Nat) : Nat :=
  match w with
  | none => 0
  | some x => if x.len ≤ off then 0 else min n (x.len - off)

/- Channel keys (R364). -/
def chanKey (label : String) (sec : CtxSec) (ctx gen : Nat) : Bytes :=
  Config.hkdf sec.secret sec.salt (asciiBytes label ++ toLe ctx 2 ++ toLe gen 1) 32

def sealedUnit : Nat := 4032

/-- The nonce of a unit (R378). -/
def unitNonce (ctx counter : Nat) : Bytes := toLe ctx 4 ++ toLe counter 8

/-- Trailer bytes 4,048 to 4,095 of a unit (R377). -/
def unitTrailer (counter gen : Nat) (bound dir : Bool) : Bytes :=
  toLe counter 8 ++ toLe gen 1 ++ toLe (b2n bound + 2 * b2n dir) 1 ++ List.replicate 38 0#8

/-- The additional data of a unit (R378). -/
def unitAad (ctx win u : Nat) (seq : Option Nat) (trailer : Bytes) : Bytes :=
  toLe ctx 4 ++ toLe win 2 ++ [0#8, 0#8] ++ toLe u 8 ++ toLe (seq.getD 0) 8 ++ trailer

/-- Takes the next tile-to-host counter value: the generation and counter to use and the state after it, and none when generation 255
is exhausted (R381). -/
def State.nextSeal (s : State) (ctx : Nat) : Option (Nat × Nat × State) :=
  match s.ctx ctx with
  | none => none
  | some c =>
    if c.sec.t2hCnt < 2 ^ 63 then
      some (c.sec.t2hGen, c.sec.t2hCnt, s.modCtx ctx (fun x => { x with sec := { x.sec with t2hCnt := c.sec.t2hCnt + 1 } }))
    else if c.sec.t2hGen = 255 then none
    else
      let g := c.sec.t2hGen + 1
      some (g, 0, (s.modCtx ctx (fun x =>
        { x with sec := { x.sec with t2hGen := g, t2hCnt := 1, t2h := some (chanKey "IVN t2h" x.sec ctx g) } })).secEvent ctx 2)

/-- Seals one unit and posts its 4,096 bytes; none when no counter value is left (R377, R380, R381). -/
def State.sealUnit (s : State) (ctx win u : Nat) (w : Window) (seq : Option Nat) (payload : Bytes) : Option State :=
  match s.nextSeal ctx with
  | none => none
  | some (gen, cnt, t) =>
    match (t.ctx ctx).bind (fun c => c.sec.t2h.map (fun k => (c.func, k))) with
    | none => some t
    | some (func, key) =>
      let tr := unitTrailer cnt gen seq.isSome true
      let e := Config.gcmSeal key (unitNonce ctx cnt) (unitAad ctx win u seq tr) (fixLen sealedUnit payload)
      some (t.hostWrite func w.pasid (w.addr + 4096 * u) (fixLen sealedUnit e.1 ++ fixLen 16 e.2 ++ tr))

/-- What a window write does: the state, violating requests, the first violating offset, and whether a seal failed (R381). -/
structure WinWrite where
  s : State
  viol : Nat
  bad : Option Nat
  rekeyFail : Bool

/-- A write to a window of a context that is not confidential (R118). -/
def State.plainWrite (s : State) (ctx win off : Nat) (data : Bytes) : WinWrite :=
  match s.ctx ctx with
  | none => { s := s, viol := 0, bad := none, rekeyFail := false }
  | some c =>
    let w := c.window? win
    let good := insideLen w off data.length
    let t := match w with
      | some x => if good = 0 then s else s.hostWrite c.func x.pasid (x.addr + off) (data.take good)
      | none => s
    let bads := (winRuns off data.length).filter (fun r => decide (off + good < r.1 + r.2))
    { s := t, viol := bads.length, bad := bads.head?.map (fun r => max r.1 (off + good)), rekeyFail := false }

/-- A write to a bounce window: it begins at the start of a unit's payload, and a session exists (R380). -/
def State.bounceWrite (s : State) (ctx win off : Nat) (seq : Option Nat) (data : Bytes) : WinWrite :=
  match s.ctx ctx with
  | none => { s := s, viol := 0, bad := none, rekeyFail := false }
  | some c =>
    let allBad : WinWrite := { s := s, viol := (winRuns off data.length).length, bad := some off, rekeyFail := false }
    match c.window? win with
    | none => allBad
    | some w =>
      if c.sec.t2h.isNone ∨ off % sealedUnit ≠ 0 then allBad
      else
        let u0 := off / sealedUnit
        let n := cdiv data.length sealedUnit
        let fits := (List.range n).filter (fun i => decide (4096 * (u0 + i + 1) ≤ w.len))
        let r := fits.foldl (fun (acc : State × Bool) i =>
          if acc.2 then acc
          else match acc.1.sealUnit ctx win (u0 + i) w seq ((data.drop (i * sealedUnit)).take sealedUnit) with
            | some t => (t, false)
            | none => (acc.1.secEvent ctx 3, true)) (s, false)
        let good := fits.length * sealedUnit
        let bads := (winRuns off data.length).filter (fun x => decide (off + good < x.1 + x.2))
        { s := r.1, viol := bads.length, bad := bads.head?.map (·.1), rekeyFail := r.2 }

def State.isConf (s : State) (ctx : Nat) : Bool := ((s.ctx ctx).map (·.confidential)).getD false

/-- A window write of a context (R118, R380). -/
def State.winWrite (s : State) (ctx win off : Nat) (seq : Option Nat) (data : Bytes) : WinWrite :=
  if s.isConf ctx then s.bounceWrite ctx win off seq data else s.plainWrite ctx win off data

/-- Opens one unit that a tile read fetched: its payload, or none when it fails under R379. -/
def State.openUnit (s : State) (ctx win u : Nat) (seq : Option Nat) (raw : Bytes) : Option (Bytes × State) :=
  match s.ctx ctx with
  | none => none
  | some c =>
    let tr := (raw.drop 4048).take 48
    let cnt := leAt raw 4048 8
    let gen := leAt raw 4056 1
    let bits := leAt raw 4057 1
    let bound := bit? bits 0
    if c.sec.h2t.isNone ∨ bit? bits 1 ∨ 2 ^ 63 ≤ cnt ∨ (gen ≠ c.sec.h2tGen ∧ gen ≠ c.sec.h2tGen + 1) ∨ (bound ∧ seq.isNone) then none
    else
      let key := if gen = c.sec.h2tGen then c.sec.h2t.getD [] else chanKey "IVN h2t" c.sec ctx gen
      match Config.gcmOpen key (unitNonce ctx cnt) (unitAad ctx win u (if bound then seq else none) tr) (raw.take sealedUnit)
          ((raw.drop sealedUnit).take 16) with
      | none => none
      | some p =>
        let t := if gen = c.sec.h2tGen then s
          else (s.modCtx ctx (fun x => { x with sec := { x.sec with h2tGen := gen, h2t := some key } })).secEvent ctx 2
        some (fixLen sealedUnit p, t)

/-- Counts a unit that failed (R379, R393). -/
def State.authFail (s : State) (ctx : Nat) : State :=
  (s.modCtx ctx (fun c => { c with sec := { c.sec with authFail := satUp c.sec.authFail } })).secEvent ctx 0

/-- Counts an expired or failed read (R358). -/
def State.readFailed (s : State) (poisoned : Bool) : State :=
  if poisoned then
    { s with link := { s.link with poisonCnt := satUp s.link.poisonCnt } }.uciEvent 4
  else { s with link := { s.link with timeoutCnt := satUp s.link.timeoutCnt } }.uciEvent 3

/-- Opens units that lie one after the other: their payload, or none when one fails, and the state after them (R379). -/
def State.openUnits (s : State) (ctx win u0 n : Nat) (seq : Option Nat) (raw : Bytes) : Option Bytes × State :=
  (List.range n).foldl (fun (acc : Option Bytes × State) i =>
    match acc.1 with
    | none => acc
    | some d => match acc.2.openUnit ctx win (u0 + i) seq (fixLen 4096 ((raw.drop (i * 4096)).take 4096)) with
      | some (p, t) => (some (d ++ p), t)
      | none => (none, acc.2.authFail ctx)) (some [], s)

/- Host reads of the tile's own. -/

/-- Tags that are free (R330). -/
def State.freeTags (s : State) : Nat := 8192 - s.link.tags.length

/-- The requests of a host read take their tags and go out (R330, R357). -/
def State.startRead (s : State) (r : LinkRead) (func : Nat) (pasid : Option Nat) (addr n : Nat) : State :=
  let k := s.link.nextRead
  let ps := readPieces addr n
  let t : State := { s with link := { s.link with
    reads := s.link.reads.set k { r with parts := ps.map (fun _ => none) }, nextRead := k + 1 } }
  (ps.zipIdx).foldl (fun (u : State) p =>
    match u.link.tags.firstFree 0 8192 with
    | none => u
    | some tag => ({ u with link := { u.link with tags := u.link.tags.set tag { read := k, part := p.2, len := p.1.2 } } } : State).send
        (.hostRead tag func pasid p.1.1 p.1.2)) t

/-- Where n bytes at a payload offset of a window lie in it: the first byte and the bytes to fetch, and how many of the n bytes they hold. A
bounce window gives whole units, and nothing before a session exists (R118, R377, R379, R380). -/
def Ctx.span (c : Ctx) (win off n : Nat) : Nat × Nat × Nat :=
  if !c.confidential then (off, insideLen (c.window? win) off n, insideLen (c.window? win) off n)
  else match (c.window? win).filter (fun _ => c.sec.h2t.isSome) with
    | none => (0, 0, 0)
    | some w =>
      let u0 := off / sealedUnit
      let units := if n = 0 then 0 else (off + n - 1) / sealedUnit + 1 - u0
      let k := ((List.range units).filter (fun i => decide (4096 * (u0 + i + 1) ≤ w.len))).length
      (4096 * u0, 4096 * k, min n (k * sealedUnit - off % sealedUnit))

/-- Starts a read of n bytes at a payload offset of a window; none when the tags for it are not free (R118, R330). -/
def State.fetchWin (s : State) (who : ReadFor) (ctx win off n : Nat) : Option State :=
  match s.ctx ctx with
  | none => none
  | some c =>
    match c.window? win with
    | none => none
    | some w =>
      let sp := c.span win off n
      let r : LinkRead := { who := who, ctx := ctx, win := win, off := off, good := sp.2.2, len := n, parts := [] }
      if (readPieces (w.addr + sp.1) sp.2.1).length ≤ s.freeTags then some (s.startRead r c.func w.pasid (w.addr + sp.1) sp.2.1) else none

/-- What a read has brought: its bytes, with zeros outside the window, or none when a unit fails (R118, R379). -/
def State.readBytes (s : State) (r : LinkRead) (seq : Option Nat) : Option Bytes × State :=
  let raw := (r.parts.map (fun p => p.getD [])).flatten
  let all (b : Bytes) : Bytes := fixLen r.len (fixLen r.good b)
  if s.isConf r.ctx then
    let u := s.openUnits r.ctx r.win (r.off / sealedUnit) (raw.length / 4096) seq raw
    (u.1.map (fun b => all (b.drop (r.off % sealedUnit))), u.2)
  else (some (all raw), s)

/-- What a command's window read gives: the bytes (zeros outside the window), or a failure, with the violating requests. -/
structure WinRead where
  s : State
  data : Option Bytes
  viol : Nat
  bad : Option Nat

/-- What the host answers to a read: while the link carries no TLPs every read expires (R334, R336). -/
def State.onLink (s : State) (r : HostRead) : HostRead := if s.linkOpen then r else .expired

/-- A read in clear of n bytes at an offset of a window; `r` brings the host bytes from the offset on (R118, R358). -/
def State.plainRead (s : State) (ctx win off n : Nat) (r : HostRead) : WinRead :=
  match s.ctx ctx with
  | none => { s := s, data := none, viol := 0, bad := none }
  | some c =>
    let good := insideLen (c.window? win) off n
    let bads := (winRuns off n).filter (fun x => decide (off + good < x.1 + x.2))
    match if good = 0 then HostRead.ok [] else s.onLink r with
    | .expired => { s := s.readFailed false, data := none, viol := 0, bad := none }
    | .poisoned => { s := s.readFailed true, data := none, viol := 0, bad := none }
    | .ok b =>
      { s := s, data := some (fixLen n (fixLen good b)), viol := bads.length, bad := bads.head?.map (fun x => max x.1 (off + good)) }

/-- A read of n payload bytes of a bounce window; `r` brings the whole units it touches (R377, R379, R380). -/
def State.bounceRead (s : State) (ctx win off n : Nat) (seq : Option Nat) (r : HostRead) : WinRead :=
  let zero : WinRead := { s := s, data := some (List.replicate n 0#8), viol := (winRuns off n).length, bad := some off }
  match (s.ctx ctx).bind (fun (c : Ctx) => (c.window? win).filter (fun _ => c.sec.h2t.isSome)) with
  | none => zero
  | some x =>
    let u0 := off / sealedUnit
    let units := if n = 0 then 0 else (off + n - 1) / sealedUnit + 1 - u0
    let inside := (List.range units).filter (fun i => decide (4096 * (u0 + i + 1) ≤ x.len))
    if inside.isEmpty then zero
    else match s.onLink r with
    | .expired => { s := s.readFailed false, data := none, viol := 0, bad := none }
    | .poisoned => { s := s.readFailed true, data := none, viol := 0, bad := none }
    | .ok b =>
      let r := s.openUnits ctx win u0 inside.length seq b
      match r.1 with
      | none => { s := r.2.readFailed true, data := none, viol := 0, bad := none }
      | some d =>
        let good := inside.length * sealedUnit - off % sealedUnit
        let bads := (winRuns off n).filter (fun y => decide (off + good < y.1 + y.2))
        { s := r.2, data := some (fixLen n ((d.drop (off % sealedUnit)).take n)), viol := bads.length, bad := bads.head?.map (·.1) }

/-- A read by a command of n payload bytes at an offset of a window (R118, R358, R379). -/
def State.winRead (s : State) (ctx win off n : Nat) (seq : Option Nat) (r : HostRead) : WinRead :=
  if s.isConf ctx then s.bounceRead ctx win off n seq r else s.plainRead ctx win off n r

/-- The contribution of one unit to a step digest (R446). -/
def digestUnit (addr : Nat) (b : Bytes) : Nat := crc64 (toLe addr 8 ++ b)

/-- Adds bytes that a descriptor read or wrote to a digest of its step, in blocks of a size, while its context is captured (R446).
The categories are 0 HOST_IN, 1 MODEL_IN, 2 STATE_IN, 3 KV_IN, 4 OTHER_IN, 5 HOST_OUT, 6 STATE_OUT, 7 OTHER_OUT. -/
def State.addDigest (s : State) (step cat addr blk : Nat) (b : Bytes) : State :=
  match s.step? step with
  | none => s
  | some r =>
    if !(((s.ctx r.ctx).map (·.replay.active)).getD false) then s
    else
      let sum := ((List.range (cdiv b.length blk)).map (fun i => digestUnit (addr + i * blk) ((b.drop (i * blk)).take blk))).sum
      s.modStep step (fun x => { x with digests := x.digests.modify cat (fun d => (d + sum) % 2 ^ 64) })

end Sys2Proof.Machine
end

