-- ==== Sys2Proof/Machine/CplOps.lean ====
section
/-!
DEFINITION. Machine/CplOps.lean: status values (R355, R392, R426, R450), replay records (R443 to R447), completions (R23, R346, R349,
R359), and the checks every command passes before its own (R348, R351).
-/
namespace Sys2Proof.Machine

/- Status values (R355). -/
def stOk := 0x00
def stBadOpcode := 0x01
def stBadField := 0x02
def stNotPermitted := 0x03
def stAborted := 0x04
def stBadHandle := 0x10
def stCtxFaulted := 0x11
def stBatchRange := 0x12
def stTokenCount := 0x13
def stStreamInvalid := 0x14
def stStreamPaused := 0x15
def stCheckFail := 0x20
def stScratchUe := 0x21
def stResidentLost := 0x22
def stDmaPoison := 0x23
def stCoreFail := 0x24
def stPolicy := 0x25
def stCtxLimit := 0x30
def stCtxNoResources := 0x31
def stCtxInvalid := 0x32
def stQpLimit := 0x33
def stQpInvalid := 0x34
def stQpBadArgs := 0x35
def stWindowLimit := 0x36
def stWindowInvalid := 0x37
def stWindowBadArgs := 0x38
def admBadImage := 0x40
def admNoHandle := 0x41
def admCoreDenied := 0x42
def admNoScratch := 0x49
def admNoTokens := 0x4A
def admNoDecodeSlot := 0x4B
def admNoStreams := 0x4C
def admNoQuota := 0x4D
def stStreamLimit := 0x50
def stStreamBadArgs := 0x51
def stKvBadArgs := 0x58
def stKvNoQuota := 0x59
def stKvSeqInvalid := 0x5A
def stKvSeqBound := 0x5B
def stKvNoSeq := 0x5C
def stKvSeqShared := 0x5D
def stKvGeometry := 0x5E
def stKvListFull := 0x5F
def stKvPoolFull := 0x60
def stSegBadArgs := 0x68
def stSegNoQuota := 0x69
def stSegBusy := 0x6A
def stModelInvalid := 0x6B
def stModelBusy := 0x6C
def stModelNoSpace := 0x6D
def stModelBadPackage := 0x6E
def stModelDamaged := 0x6F
def stDataLost := 0x70
def stCmpNoTable := 0x71
def stFlashWorn := 0x78
def stSecNotConfidential := 0x80
def stSecNoKey := 0x81
def stSecBadPoint := 0x82
def stSecNotProtected := 0x83
def stSecNoIde := 0x84
def stSecRekeyFail := 0x85
def stSecKeyUsed := 0x86
def stFwBadImage := 0x90
def stFwBadSignature := 0x91
def stFwRollback := 0x92
def stFwBusy := 0x93
def stFwIncompatible := 0x94
def stCfgBadRecord := 0x95
def stCfgBaseMismatch := 0x96
def stCfgBootOnly := 0x97
def stRplNotEmpty := 0x98
def stRplActive := 0x99
def stRplNotAllowed := 0x9A
def stResidentBadRef := 0x9B
def stWeightRepeat := 0x9C

/-- The 64-byte header of a replay record (R444). -/
def replayHeader (len typ qslot rseq stepSeq : Nat) (fields : Bytes) : Bytes :=
  toLe len 4 ++ toLe typ 1 ++ [0#8] ++ toLe qslot 2 ++ toLe rseq 8 ++ toLe stepSeq 8 ++ fixLen 40 fields

/-- Writes bytes at the end of a capture; in a bounce window each write begins a unit (R375, R380, R443). -/
def State.replayPut (s : State) (ctx : Nat) (bytes : Bytes) : State :=
  match s.ctx ctx with
  | none => s
  | some c =>
    let r := c.replay
    let w := s.winWrite ctx r.win (r.off + r.written) none bytes
    let n := if c.confidential then cdiv bytes.length sealedUnit * sealedUnit else bytes.length
    (w.s.countViol ctx w.viol).modCtx ctx (fun x =>
      { x with replay := { x.replay with written := x.replay.written + n, records := x.replay.records + 1 } })

/-- Ends a capture with a STOP record (R445, R447, R452). -/
def State.replayEnd (s : State) (ctx reason : Nat) : State :=
  match s.ctx ctx with
  | none => s
  | some c =>
    if !c.replay.active then s
    else
      let unit := if c.confidential then sealedUnit else 64
      let t := if c.replay.len < c.replay.written + unit then s
        else s.replayPut ctx (replayHeader 64 0x07 0 c.replay.records (2 ^ 64 - 1) (toLe reason 1))
      let u := t.modCtx ctx (fun x => { x with replay := { x.replay with active := false, reason := reason } })
      let written := ((u.ctx ctx).map (·.replay.written)).getD 0
      u.logTo c.func { mkLog 0x010A [(0, reason), (64, written)] with ctx := some ctx }

/-- Writes one record, or STOP with REASON 1 when it and a STOP no longer both fit (R447). -/
def State.replayRec (s : State) (ctx typ qslot stepSeq : Nat) (fields payload : Bytes) : State :=
  match s.ctx ctx with
  | none => s
  | some c =>
    if !c.replay.active then s
    else
      let body := fixLen (cdiv payload.length 64 * 64) payload
      let len := 64 + body.length
      let unit := if c.confidential then sealedUnit else 64
      if c.replay.len < c.replay.written + cdiv len unit * unit + unit then s.replayEnd ctx 1
      else s.replayPut ctx (replayHeader len typ qslot c.replay.records stepSeq fields ++ body)

/-- The value of a stream index in a replay record: relative to the context's FIRST_INDEX (R444). -/
def relIndex (first i : Nat) : Nat := (i + 65536 - first % 65536) % 65536

/-- The entry of a command as a capture shows it (R444, R445). -/
def Cmd.replayEntry (c : Cmd) (first : Nat) : Bytes :=
  if 0x09 ≤ leAt c.entry 0 1 ∧ leAt c.entry 0 1 ≤ 0x0D then
    c.entry.take 8 ++ toLe (relIndex first (leAt c.entry 8 2)) 2 ++ c.entry.drop 10
  else c.entry

/-- Creation ordinal of a queue (R444). -/
def State.ordinalOf (s : State) (q : QRef) : Nat :=
  match q with
  | .pair n => ((s.queues.get? n).map (fun (x : Queue) => x.ordinal)).getD 0
  | .admin _ => 0

/-- Writes the COMMAND record of a command, with what follows its entry (R445). -/
def State.recordCmd (s : State) (c : Cmd) (extra : Bytes) : State :=
  match c.ctx.bind s.ctx, c.ctx with
  | some x, some n => s.replayRec n 0x02 (s.ordinalOf c.q) (2 ^ 64 - 1) [] (c.replayEntry x.first ++ extra)
  | _, _ => s

/-- Writes the records that wait, in fetch order, up to the next SCHED_LOAD whose image is not read yet: the state and those that
still wait. -/
def State.recordRun (s : State) : List Nat → State × List Nat
  | [] => (s, [])
  | f :: rest =>
    match s.cmds.find f with
    | none => State.recordRun s rest
    | some c => if leAt c.entry 0 1 = 0x02 then (s, f :: rest) else State.recordRun (s.recordCmd c []) rest

def State.heldRecords (s : State) (ctx : Nat) : List Nat := ((s.ctx ctx).map (fun (x : Ctx) => x.replay.held)).getD []

/-- Writes the COMMAND record of a command whose record waits, and those that waited behind it (R445). -/
def State.recordWaiting (s : State) (c : Cmd) (extra : Bytes) : State :=
  match c.ctx with
  | none => s
  | some n =>
    if !(s.heldRecords n).contains c.fid then s
    else
      let t := s.recordCmd c extra
      let r := t.recordRun ((s.heldRecords n).filter (· != c.fid))
      r.1.modCtx n (fun x => { x with replay := { x.replay with held := r.2 } })

/-- Entries of a ring in use. -/
def ringUsed (depth head tail : Nat) : Nat := if depth = 0 then 0 else (tail + depth - head) % depth

/-- What a queue or admin queue needs for a completion: ring base, depth, PASID, head, tail, phase, vector. -/
structure CplRing where
  base : Nat
  depth : Nat
  pasid : Option Nat
  head : Nat
  tail : Nat
  phase : Bool
  sqHead : Nat
  vector : Nat
  func : Nat
  qid : Nat
  adminQ : Bool

def State.ringOf (s : State) (q : QRef) : Option CplRing :=
  match q with
  | .admin f =>
    let a := (s.func f).admin
    some { base := a.cqBase.toNat, depth := a.depthM1.toNat + 1, pasid := none, head := a.cqHead, tail := a.cqTail, phase := a.phase,
           sqHead := a.sqHead, vector := 0, func := f, qid := 0, adminQ := true }
  | .pair n =>
    (s.queues.get? n).map (fun x =>
      { base := x.cqBase, depth := x.depth, pasid := x.pasid, head := x.cqHead, tail := x.cqTail, phase := x.phase, sqHead := x.sqHead,
        vector := x.vector, func := ((s.ctx x.ctx).map (·.func)).getD 0, qid := n, adminQ := false })

/-- The 64 bytes of a completion (R349); `result` fills bytes 8 to 63. -/
def cplBytes (cid sqHead qid : Nat) (phase adminQ : Bool) (status : Nat) (result : Bytes) : Bytes :=
  toLe cid 2 ++ toLe sqHead 2 ++ toLe (qid + 32768 * b2n phase) 2 ++ toLe status 1 ++ toLe (b2n adminQ) 1 ++ fixLen 56 result

/-- Writes a completion to its ring, advances the tail, flips PHASE on a wrap, and sends the message (R346, R356, R359). -/
def State.writeCpl (s : State) (q : QRef) (r : CplRing) (h : HeldCpl) : State :=
  let e := cplBytes h.cid r.sqHead r.qid r.phase r.adminQ h.status.toNat h.result
  let t := s.hostWrite r.func r.pasid (r.base + 64 * r.tail) e
  let tail := (r.tail + 1) % r.depth
  let phase := if tail = 0 then !r.phase else r.phase
  let u := match q with
    | .admin f => t.modFunc f (fun x => { x with admin := { x.admin with cqTail := tail, phase := phase } })
    | .pair n => { t with queues := t.queues.upd n (fun x => { x with cqTail := tail, phase := phase }) }
  if h.irq then u.msix r.func r.vector else u

/-- Posts a completion, or holds it in the queue's slot when no entry is free (R23, R345). -/
def State.postCpl (s : State) (q : QRef) (h : HeldCpl) : State :=
  match s.ringOf q with
  | none => s
  | some r =>
    if ringUsed r.depth r.head r.tail < r.depth - 1 then s.writeCpl q r h
    else match q with
      | .admin f => s.modFunc f (fun x => { x with admin := { x.admin with held := x.admin.held ++ [h] } })
      | .pair n => { s with queues := s.queues.upd n (fun x => { x with held := x.held ++ [h] }) }

/-- Commands of a queue that are fetched and not yet completed, a held completion included (R345). -/
def State.outstanding (s : State) (q : QRef) : Nat :=
  (s.cmds.list.filter (fun c => c.q == q)).length + (match q with
    | .admin f => (s.func f).admin.held.length
    | .pair n => ((s.queues.get? n).map (fun (x : Queue) => x.held.length)).getD 0)

/-- An admin queue that is disabled stops running once its fetched commands have completed (R361). -/
def State.settleAdmin (s : State) (q : QRef) : State :=
  match q with
  | .admin f =>
    if !(s.func f).admin.enable ∧ (s.cmds.list.filter (fun c => c.q == q)).isEmpty then
      s.modFunc f (fun x => { x with admin := { x.admin with running := false } })
    else s
  | .pair _ => s

/-- Completes a command: log entries first (R419), then the replay record (R445), then the completion entry; `result` fills the
completion from byte 8. -/
def State.complete (s : State) (fid status : Nat) (result : Bytes) : State :=
  match s.cmds.find fid with
  | none => s
  | some c =>
    let t := (s.flushLog c.func).recordWaiting c []
    let t := { t with cmds := { t.cmds with list := t.cmds.list.filter (fun x => x.fid != fid) } }
    let t := match c.ctx, c.q with
      | some n, .pair qid =>
        if c.recorded then
          let first := ((t.ctx n).map (fun (x : Ctx) => x.first)).getD 0
          let res := if leAt c.entry 0 1 = 0x08 ∧ status = 0 then toLe (relIndex first (leAt result 0 2)) 2 ++ result.drop 2 else result
          let sq := ((t.queues.get? qid).map (fun (x : Queue) => x.sqHead)).getD 0
          t.replayRec n 0x03 (t.ordinalOf c.q) (2 ^ 64 - 1) [] (cplBytes c.cid sq 0 false false status res)
        else t
      | _, _ => t
    State.settleAdmin (t.postCpl c.q { cid := c.cid, status := BitVec.ofNat 8 status, result := fixLen 56 result, irq := c.irq }) c.q

def State.modCmd (s : State) (fid : Nat) (f : Cmd → Cmd) : State :=
  { s with cmds := { s.cmds with list := s.cmds.list.map (fun c => if c.fid = fid then f c else c) } }

/-- Defers a command until COMMAND_TAKES_EFFECT (R183). -/
def State.defer (s : State) (fid : Nat) : State := s.modCmd fid (fun c => { c with stage := .deferred })

/-- What the opcode table says of an opcode: whether it is an admin command, whether only the PF may issue it, and its argument bits as
(first bit, bits) (R350, R391, R425, R449). -/
structure OpRow where
  adminQ : Bool
  pfOnly : Bool
  args : List (Nat × Nat)

/-- Argument bits at a byte offset. -/
def ab (off n : Nat) : Nat × Nat := (8 * off, n)

def opRow (op : Nat) : Option OpRow :=
  let q (l : List (Nat × Nat)) : Option OpRow := some ⟨false, false, l⟩
  let a (l : List (Nat × Nat)) : Option OpRow := some ⟨true, false, l⟩
  let p (l : List (Nat × Nat)) : Option OpRow := some ⟨true, true, l⟩
  match op with
  | 0x01 => q [ab 8 32, ab 12 16, ab 16 32, ab 20 16, ab 22 16, ab 24 64, ab 32 64, ab 40 16, ab 48 64]
  | 0x02 => q [ab 8 16, ab 16 64, ab 24 32]
  | 0x03 => q [ab 8 32]
  | 0x08 => q [ab 8 48, ab 14 16, ab 16 8, ab 20 32, ab 24 16, ab 26 16]
  | 0x09 => q [ab 8 16]
  | 0x0A => q [ab 8 16]
  | 0x0B => q [ab 8 16]
  | 0x0C => q [ab 8 16]
  | 0x0D => q [ab 8 16]
  | 0x10 => q [ab 8 48, ab 16 32, ab 20 16, ab 22 4, ab 24 16, ab 28 32, ab 32 32]
  | 0x11 => q []
  | 0x12 => q [ab 8 32]
  | 0x13 => q [ab 8 32, ab 12 32, ab 16 32]
  | 0x14 => q [ab 8 32, ab 12 32]
  | 0x15 => q [ab 8 32]
  | 0x16 => q [ab 8 32]
  | 0x18 => q [ab 8 32, ab 12 32, ab 16 4, ab 18 16, ab 24 64]
  | 0x19 => q [ab 8 32, ab 12 32]
  | 0x1A => q [ab 8 32, ab 12 32, ab 16 1]
  | 0x1B => q [ab 8 32]
  | 0x20 => q [ab 8 16, ab 16 64, ab 24 64, ab 32 64]
  | 0x21 => q [ab 8 16, ab 16 64, ab 24 32]
  | 0x22 => q [ab 8 16]
  | 0x23 => q [ab 8 16, ab 16 64]
  | 0x24 => q [ab 8 16]
  | 0x28 => q [ab 8 64, ab 16 64, ab 24 21]
  | 0x29 => q [ab 8 16]
  | 0x30 => q [ab 8 16, ab 16 64, ab 24 256]
  | 0x31 => q [ab 8 16, ab 16 64]
  | 0x40 => q [ab 8 2, ab 9 7]
  | 0x41 => q [ab 8 3, ab 10 16, ab 16 48, ab 24 32]
  | 0x42 => q [ab 8 3, ab 10 16]
  | 0x43 => q [ab 8 16, ab 10 1, ab 16 64, ab 24 64]
  | 0x44 => q []
  | 0x45 => q []
  | 0x46 => q []
  | 0x80 => a [ab 8 17, ab 12 16, ab 14 5, ab 15 3, ab 16 20, ab 20 8]
  | 0x81 => a [ab 8 12]
  | 0x82 => a [ab 8 12]
  | 0x83 => a [ab 8 12, ab 10 16, ab 12 21, ab 16 64, ab 24 64, ab 32 11]
  | 0x84 => a [ab 8 15]
  | 0x90 => p [ab 8 64, ab 16 32]
  | 0x91 => p [ab 8 4]
  | 0x92 => p []
  | 0x93 => p [ab 8 64, ab 16 32]
  | 0x94 => p [ab 8 64, ab 16 32]
  | 0x95 => a [ab 8 64, ab 16 32, ab 20 21]
  | 0x96 => a [ab 8 12, ab 10 16, ab 12 1, ab 16 64, ab 24 32]
  | 0xA0 => a [ab 8 64, ab 16 32]
  | _ => none

/-- Whether an opcode is known and stands on the right kind of queue (R350, R351). -/
def Cmd.opcodeOk (c : Cmd) : Bool := (opRow c.opcode).any (fun r => r.adminQ == c.q.isAdmin)

/-- The statuses of steps 2 and 3 of R351 that need no more than the entry: an opcode of the PF, then reserved fields. `own` names the status that
the command's own rule gives a reserved field. -/
def Cmd.precheck (c : Cmd) (own : Nat) : Option Nat :=
  match opRow c.opcode with
  | none => some stBadOpcode
  | some r =>
    if r.pfOnly && c.func != 0 then some stNotPermitted
    else if !c.reservedZero r.args then some own
    else none

/-- The result fields of a SUBMIT_STEP completion: handle, flag word, class, core, OP_TAG, STEP_SEQ and DESC_INDEX (R349). -/
def submitResult (slot gen flags cls core tag seq desc : Nat) : Bytes :=
  toLe (slot + 8192 * gen) 4 ++ toLe flags 1 ++ toLe (cls + 16 * core) 1 ++ toLe tag 2 ++ toLe seq 8 ++ toLe desc 4

/-- The result fields of a command that never ran: a SUBMIT_STEP carries its handle, and all ones for what it never had (R349). -/
def Cmd.refused (c : Cmd) : Bytes :=
  if c.opcode = 0x01 ∧ !c.q.isAdmin then submitResult (c.fld 8 4 % 8192) (c.fld 8 4 / 8192) 0 0 0 0 (2 ^ 64 - 1) (2 ^ 32 - 1) else []

/-- Whether an admin command names no context and no queue of another function, or comes from the PF (R351, step 2). -/
def State.permits (s : State) (c : Cmd) : Bool :=
  let mine (n : Nat) : Bool := (s.ctx n).all (fun (x : Ctx) => x.func == c.func)
  c.func == 0 ||
    match c.opcode with
    | 0x81 => mine (c.fld 8 2)
    | 0x82 => mine (c.fld 8 2)
    | 0x83 => mine (c.fld 8 2)
    | 0x84 => (s.queues.get? (c.fld 8 2)).all (fun (q : Queue) => mine q.ctx)
    | 0x96 => mine (c.fld 8 2)
    | _ => true

/-- Whether the tile still runs fetched commands (R404, R460, R466). -/
def State.commandsRun (s : State) : Bool :=
  s.running && !((s.fw.cores[1]?).map (·.restarting)).getD false

/-- Runs a command row: the tile runs commands, the fetched command stands on the right kind of queue with this opcode, and has the given
stage; it is answered by the checks of R351 on permission and entry or goes to its own rule. A row whose command is not there changes nothing. -/
def State.runCmd (s : State) (fid op own : Nat) (stage : CmdStage) (k : State → Cmd → State) : State :=
  match s.cmds.find fid with
  | none => s
  | some c =>
    if s.commandsRun && c.opcode == op && c.opcodeOk && c.stage == stage then
      if !s.permits c then s.complete fid stNotPermitted c.refused
      else match c.precheck own with
        | some st => s.complete fid st c.refused
        | none => k s c
    else s

/-- A result placed at byte offsets of the completion: (offset, bytes) pairs in ascending order. -/
def resultAt (l : List (Nat × Bytes)) : Bytes :=
  l.foldl (fun acc p => fixLen (p.1 - 8) acc ++ p.2) []

end Sys2Proof.Machine
end

