-- ==== Sys2Proof/Machine/DevOps.lean ====
section
/-!
DEFINITION. Machine/DevOps.lean: reads and writes of a context's device addresses inside one tile (R221, R222, R224, R225), with the
tile states and Piton pins of R230 to R232, stream-through (R237) and the outcomes of R242 to R244.
-/
namespace Sys2Proof.Machine

/-- What an access inside one tile does: it gives bytes, waits (with whether the requester now holds a pin on the tile), violates with a
kind of R421, goes to a host window, or faults its step with a class and a status (R437). -/
inductive DevRes where
  | ok (s : State) (b : Bytes)
  | wait (s : State) (pinned : Bool)
  | viol (kind : Nat)
  | host (win off : Nat)
  | lost (s : State) (cls status : Nat)

def segOf (addr : Nat) : Nat := addr / 2097152
def tileOf (addr : Nat) : Nat := addr / tileBytes % 32

/-- Counts a pin on a tile unless the requester holds one; a request past 65,535 pins waits without one (R231). -/
def State.pinTile (s : State) (ctx seg tile : Nat) (held : Bool) : State × Bool :=
  if held then (s, true)
  else match s.tile ctx seg tile with
    | none => (s, false)
    | some t =>
      if t.pins < 65535 then (s.modTile ctx seg tile (fun x => { x with pins := x.pins + 1 }), true)
      else (s.tierEvent ctx 2, false)

/-- Releases a pin; an EVICT_PENDING tile may then leave (R232). -/
def State.unpinTile (s : State) (ctx seg tile : Nat) : State :=
  (s.modTile ctx seg tile (fun x => { x with pins := x.pins - 1 })).settleEvict ctx seg tile

def State.awaitTile (s : State) (ctx seg tile : Nat) (held : Bool) : DevRes :=
  let r := s.pinTile ctx seg tile held
  .wait r.1 r.2

/-- Marks a model object DAMAGED (R243). -/
def State.damageModel (s : State) (id : Nat) : State :=
  let t : State := { s with nv := { s.nv with models := s.nv.models.upd id (fun m => { m with damaged := true }) } }
  match (s.nv.models.get? id).bind (fun (m : Model) => m.attached) with
  | some c => t.tierEvent c 5
  | none => t

/-- The DATA_LOST event and log entry of a tile that becomes POISONED (R244, R452). -/
def State.lostTile (s : State) (ctx seg tile : Nat) : State :=
  match s.ctx ctx with
  | none => s
  | some c =>
    (s.tierEvent ctx 4).logBoth c.func { mkLog 0x0107 [(64, seg * 2097152 + tile * tileBytes)] with ctx := some ctx }

/-- An uncorrectable error in the DRAM copy of a tile: a clean copy is discarded (R242), an only copy poisons the tile (R244). The pair
is the class and the status of the step fault. -/
def State.copyLost (s : State) (ctx seg tile : Nat) : State × Nat × Nat :=
  match s.seg ctx seg with
  | none => (s, 8, 0x70)
  | some g =>
    match g.kind with
    | .dram => ((s.modSeg ctx seg (fun x => { x with poison := tile :: x.poison.filter (· != tile) })).lostTile ctx seg tile, 8, 0x70)
    | .host => (s, 8, 0x70)
    | _ =>
      match s.tile ctx seg tile with
      | none => (s, 8, 0x70)
      | some t =>
        if t.dirty then ((s.modTile ctx seg tile (fun x => { x with st := .poisoned })).lostTile ctx seg tile, 8, 0x70)
        else ((s.reportFrame t).leave ctx seg tile t, 7, 0x9C)

/-- What an access to a frame of a tile leaves that meets unreadable blocks: they are counted, and poisoned when they hold the only copy (R274). -/
def State.unreadable (s : State) (ctx seg tile frame off n : Nat) : DevRes :=
  let t := s.countUes frame off n
  let only := (s.seg ctx seg).any (fun g => g.kind == .dram) || (s.tile ctx seg tile).any (fun x => x.dirty)
  let u : State := if only then { t with dram := t.dram.poisonAll (s.dram.unreadable frame off n) } else t
  let r := u.copyLost ctx seg tile
  .lost r.1 r.2.1 r.2.2

/-- A write that a DOWN channel drops takes the tile of a cache slot with it: a TIERED tile is POISONED, a MODEL copy is discarded (R244, R289). -/
def State.dropWrite (s : State) (ctx seg tile : Nat) : State :=
  if (s.seg ctx seg).any (fun g => g.kind == .tiered) then
    (s.modTile ctx seg tile (fun x => { x with st := .poisoned, dirty := true })).lostTile ctx seg tile
  else (s.copyLost ctx seg tile).1

/-- Starts the promotion that an access to a LOWER tile needs (R231, R234, R320). -/
def State.needUpper (s : State) (ctx seg tile : Nat) (held : Bool) : DevRes :=
  match s.promote ctx seg tile with
  | .ok t _ => t.awaitTile ctx seg tile held
  | .wait t => .wait t held
  | .worn => .lost s 9 0x78

/-- Whether a step dispatched as number `ord` is served from an EVICT_PENDING tile, and its data is in DRAM (R232). -/
def State.servedPending (s : State) (ctx seg tile ord : Nat) (t : Tile) : Bool :=
  decide (ord < t.evictAt) && !s.tier.promos.contains (ctx, seg, tile)

/-- The stored format of a MODEL tile (R229). -/
def State.tileFmt (s : State) (ctx seg tile : Nat) : Nat := ((s.tile ctx seg tile).map (fun (t : Tile) => t.fmt)).getD 0

/-- Reads the DRAM copy of a tile and sets REF. -/
def State.readCopy (s : State) (ctx seg tile : Nat) (t : Tile) (off n : Nat) : DevRes :=
  match s.dram.readFrame t.frame (t.off + off) n with
  | some b => .ok (s.modTile ctx seg tile (fun x => { x with ref := true })) b
  | none => s.unreadable ctx seg tile t.frame (t.off + off) n

/-- The digest of a tile of a model object as stored in flash (R229, R374): over its bytes, or over the ciphertext of a protected object. -/
def Nv.storedDigest (nv : Nv) (prot : Bool) (nonce : Bytes) (serial tile : Nat) (b : Bytes) : Nat :=
  crc64 (closeWith (if prot then some (nv.objKeys nonce serial tile) else none) b)

/-- Whether the bytes of a tile of a MODEL segment match its digest (R229). -/
def State.digestOk (s : State) (g : Seg) (tile : Nat) (t : Tile) (b : Bytes) : Bool :=
  match s.nv.models.get? g.handle with
  | some m => s.nv.storedDigest m.prot m.nonce m.serial (g.lower * 32 + tile) b == t.digest
  | none => false

/-- A read of the flash master has failed its digest: the object is DAMAGED at the second one (R243, R264). The pair is the class and the status of
the step fault. -/
def State.masterFailed (s : State) (ctx seg tile handle : Nat) (t : Tile) : State × Nat × Nat :=
  let u := s.modTile ctx seg tile (fun x => { x with fails := t.fails + 1 })
  if t.fails = 0 then (u, 7, 0x9C) else (u.damageModel handle, 7, 0x6F)

/-- A stream-through read: the whole tile is read and checked (R237, R243). -/
def State.streamThrough (s : State) (ctx seg : Nat) (g : Seg) (tile : Nat) (t : Tile) (off n : Nat) : DevRes :=
  let raw := s.lowerBytes ctx seg g tile t
  if s.digestOk g tile t raw then .ok s ((raw.drop off).take n)
  else let r := s.masterFailed ctx seg tile g.handle t; .lost r.1 r.2.1 r.2.2

/-- Whether the flash copy of a tile cannot be read (R243, R314). -/
def State.masterLost (s : State) (g : Seg) (tile : Nat) : Bool := s.flash.anyLost (s.lpage g tile) 4

/-- A read of n bytes that lie in one tile, by a step dispatched as number `ord`; `held` tells that the requester holds a pin on the tile,
and `ridge` that it is a read with FMT 0xD. -/
def State.devRead (s : State) (ctx ord addr n : Nat) (held ridge : Bool) : DevRes :=
  let sg := segOf addr
  let tl := tileOf addr
  match s.seg ctx sg with
  | none => .viol 1
  | some g =>
    if ridge && (g.kind != .model || s.tileFmt ctx sg tl != 0xD) then .viol 5
    else match g.kind with
    | .host => .host g.handle (g.lower + addr % 2097152)
    | .dram =>
      if g.noFrame || g.poison.contains tl then .lost s 8 0x70
      else match s.dram.readFrame g.handle (addr % 2097152) n with
        | some b => .ok s b
        | none => s.unreadable ctx sg tl g.handle (addr % 2097152) n
    | _ =>
      match s.tile ctx sg tl with
      | none => .viol 1
      | some t =>
        match t.st with
        | .zero => .ok s (List.replicate n 0#8)
        | .upper => s.readCopy ctx sg tl t (addr % tileBytes) n
        | .poisoned => .lost s 8 0x70
        | .promoting => s.awaitTile ctx sg tl held
        | .evictPending =>
          if s.servedPending ctx sg tl ord t then s.readCopy ctx sg tl t (addr % tileBytes) n
          else if ord < t.evictAt then s.awaitTile ctx sg tl held
          else .wait (s.tierEvent ctx 2) held
        | .demoting => .wait s held
        | .lower =>
          if g.kind == .model && (decide (2 ≤ t.fails) || s.masterLost g tl) then .lost (s.damageModel g.handle) 7 0x6F
          else if g.kind == .model && g.stream then s.streamThrough ctx sg g tl t (addr % tileBytes) n
          else s.needUpper ctx sg tl held

/-- Stores bytes in the DRAM copy of a tile, which becomes DIRTY in a state. A part of a block that cannot be read is an error of the copy
(R274, R275); a DOWN channel drops the write (R289). -/
def State.storeCopy (s : State) (ctx seg tile : Nat) (t : Tile) (st : TileSt) (off : Nat) (b : Bytes) : DevRes :=
  if s.dram.dropsWrites t.frame then .ok (s.dropWrite ctx seg tile) []
  else if t.st != .poisoned && s.dram.lostPart t.frame (t.off + off) b.length then s.unreadable ctx seg tile t.frame (t.off + off) b.length
  else .ok ((s.writeTileAt t off b).modTile ctx seg tile (fun x => { x with st := st, dirty := true, ref := true })) []

/-- Takes a slot for a tile that is written, zeroed first (R230). -/
def State.writeNew (s : State) (ctx seg tile off : Nat) (b : Bytes) (held : Bool) : DevRes :=
  match s.takeSlot ctx seg tile with
  | .ok t k =>
    let u : State := { t with dram := t.dram.zeroFrame (k / 32) (k % 32 * tileBytes) tileBytes }
    let v := u.modTile ctx seg tile (fun x => { x with slot := k, fails := 0 })
    match v.tile ctx seg tile with
    | some x => v.storeCopy ctx seg tile x .upper off b
    | none => .ok v []
  | .wait t => .wait t held
  | .worn => .lost s 9 0x78

/-- A write of bytes that lie in one tile (R222, R230, R244). A segment that waits for a new frame makes the write wait (R294, R299). -/
def State.devWrite (s : State) (ctx ord addr : Nat) (b : Bytes) (held : Bool) : DevRes :=
  let sg := segOf addr
  let tl := tileOf addr
  let off := addr % tileBytes
  let whole := off == 0 && b.length == tileBytes
  match s.seg ctx sg with
  | none => .viol 1
  | some g =>
    match g.kind with
    | .host => .host g.handle (g.lower + addr % 2097152)
    | .model => .viol 2
    | .dram =>
      if g.noFrame then (if s.tier.unplaced.contains (ctx, sg) then .wait s held else .ok s [])
      else if s.dram.dropsWrites g.handle then .ok (s.copyLost ctx sg tl).1 []
      else if !g.poison.contains tl && s.dram.lostPart g.handle (addr % 2097152) b.length then
        s.unreadable ctx sg tl g.handle (addr % 2097152) b.length
      else
        let t : State := { s with dram := s.dram.writeFrame g.handle (addr % 2097152) b }
        .ok (if whole then t.modSeg ctx sg (fun x => { x with poison := x.poison.filter (· != tl) }) else t) []
    | .tiered =>
      match s.tile ctx sg tl with
      | none => .viol 1
      | some t =>
        match t.st with
        | .zero => s.writeNew ctx sg tl off b held
        | .upper => s.storeCopy ctx sg tl t .upper off b
        | .poisoned => s.storeCopy ctx sg tl t (if whole then .upper else .poisoned) off b
        | .promoting => s.awaitTile ctx sg tl held
        | .evictPending =>
          if s.servedPending ctx sg tl ord t then s.storeCopy ctx sg tl t .evictPending off b
          else if ord < t.evictAt then s.awaitTile ctx sg tl held
          else .wait (s.tierEvent ctx 2) held
        | .demoting => .wait s held
        | .lower => if whole then s.writeNew ctx sg tl off b held else s.needUpper ctx sg tl held

end Sys2Proof.Machine
end

