-- ==== Sys2Proof/Machine/CopyOps.lean ====
section
/-!
DEFINITION. Machine/CopyOps.lean: the copies that F1 makes at a fork and before a start token (R196, R205, R208, R222, R231).
-/
namespace Sys2Proof.Machine

/-- What a turn of some copies ends in: all made, a wait, or a fault with its class and status. -/
inductive JobRes where
  | done (s : State)
  | wait (s : State) (j : CopyJob)
  | lost (s : State) (j : CopyJob) (cls status : Nat)

def tileKey (addr : Nat) : Nat × Nat := (segOf addr, tileOf addr)

/-- Notes the pin that a waiting copy has been given (R231). -/
def CopyJob.pinned (j : CopyJob) (addr : Nat) (pin : Bool) : CopyJob :=
  if pin && !j.pins.contains (tileKey addr) then { j with pins := tileKey addr :: j.pins } else j

/-- A copy has read or written the bytes at an address: it gives its pin on the tile back (R231). -/
def State.copyOver (s : State) (ctx : Nat) (j : CopyJob) (addr : Nat) : State × CopyJob :=
  if j.pins.contains (tileKey addr) then
    (s.unpinTile ctx (tileKey addr).1 (tileKey addr).2, { j with pins := j.pins.filter (fun p => p != tileKey addr) })
  else (s, j)

/-- Gives back every pin that some copies hold. -/
def State.dropJob (s : State) (ctx : Nat) (j : CopyJob) : State :=
  j.pins.foldl (fun (t : State) (p : Nat × Nat) => t.unpinTile ctx p.1 p.2) s

def CopyJob.setGot (j : CopyJob) (i : Nat) (b : Bytes) : CopyJob := { j with copies := j.copies.modify i (fun c => { c with got := some b }) }

/-- What a request of F1's copies leaves that violates: it is counted (R224). -/
def State.copyViol (s : State) (ctx win off n : Nat) : State :=
  let c := s.ctx ctx
  s.countViol ctx ((winRuns off n).filter (fun r => decide (off + insideLen (c.bind (fun x => x.window? win)) off n < r.1 + r.2))).length

/-- One access of some copies: first every source is read, then every destination is written. `none` tells that nothing is left, and the Bool that
the next access may follow. -/
def State.jobStep (s : State) (ctx ord : Nat) (seq : Option Nat) (who : Nat → ReadFor) (j : CopyJob) : Option (JobRes × Bool) :=
  match j.copies.zipIdx.find? (fun p => p.1.got.isNone && !p.1.asked) with
  | some (c, i) =>
    some (match s.devRead ctx ord c.src c.len (j.pins.contains (tileKey c.src)) false with
      | .ok t b => let r := t.copyOver ctx j c.src; (.wait r.1 (r.2.setGot i b), true)
      | .wait t p => (.wait t (j.pinned c.src p), false)
      | .viol _ => (.wait (s.countViol ctx 1) (j.setGot i (List.replicate c.len 0#8)), true)
      | .host w off =>
        let bad := s.copyViol ctx w off c.len
        match s.ctx ctx with
        | none => (.wait s j, false)
        | some x =>
          if (x.span w off c.len).2.1 = 0 then (.wait bad (j.setGot i (List.replicate c.len 0#8)), true)
          else match bad.fetchWin (who i) ctx w off c.len with
            | some t => (.wait t { j with copies := j.copies.modify i (fun y => { y with asked := true }) }, true)
            | none => (.wait s j, false)
      | .lost t cls st => (.lost t j cls st, false))
  | none =>
    match j.copies with
    | [] => none
    | c :: rest =>
      some (match if j.copies.all (fun y => y.got.isSome) then c.got else none with
        | none => (.wait s j, false)
        | some b =>
          let left : CopyJob := { j with copies := rest }
          match s.devWrite ctx ord c.dst b (j.pins.contains (tileKey c.dst)) with
          | .ok t _ => let r := t.copyOver ctx left c.dst; (.wait r.1 r.2, true)
          | .wait t p => (.wait t (j.pinned c.dst p), false)
          | .viol _ => (.wait (s.countViol ctx 1) left, true)
          | .host w off => let r := s.winWrite ctx w off seq b; (.wait (r.s.countViol ctx r.viol) left, true)
          | .lost t cls st => (.lost t j cls st, false))

/-- Makes some copies as far as they can be made now (R196, R205, R208, R231). A failed host read faults them (R358; notes/assumptions/21.md). -/
def State.runJob : Nat → State → Nat → Nat → Option Nat → (Nat → ReadFor) → CopyJob → JobRes
  | 0, s, _, _, _, _, j => .wait s j
  | fuel + 1, s, ctx, ord, seq, who, j =>
    if j.failed then .lost s j 4 stDmaPoison
    else match s.jobStep ctx ord seq who j with
      | none => .done s
      | some (.wait t k, true) => State.runJob fuel t ctx ord seq who k
      | some (r, _) => r

def State.copyAll (s : State) (ctx ord : Nat) (seq : Option Nat) (who : Nat → ReadFor) (j : CopyJob) : JobRes :=
  s.runJob (2 * j.copies.length + 2) ctx ord seq who j

/-- The two halves of a page copy: keys and values, of n bytes each (R190, R205). -/
def KvPool.pageCopy (k : KvPool) (src dst n : Nat) : List Copy :=
  if n = 0 then []
  else [0, 8192].map (fun h =>
    { src := k.base + src * 16384 + h, dst := k.base + dst * 16384 + h, len := n, got := none, asked := false })

end Sys2Proof.Machine
end

