-- ==== Sys2Proof/Machine/CmdOps.lean ====
section
/-!
DEFINITION. Machine/CmdOps.lean: when a fetched command must wait (R183, R194, R346, R478), claims on a context's guarantee (R226, R227,
R294), and the parts of the state that a completion changes.
-/
namespace Sys2Proof.Machine

/-- Resources that a command releases (R478): 0 context numbers, stream runs, guarantees and spill quotas; 1 queue numbers; 2 windows;
3 image handles, counters, decode tables and scratchpad rows; 4 frames; 5 model objects. -/
def opReleases (op : Nat) : List Nat :=
  match op with
  | 0x03 => [3, 4]
  | 0x11 => [4]
  | 0x19 => [4]
  | 0x22 => [4]
  | 0x23 => [3, 5]
  | 0x29 => [2]
  | 0x81 => [2, 3, 4]
  | 0x82 => [0, 1, 2, 3, 4]
  | 0x84 => [1]
  | _ => []

/-- Resources that a command claims (R478). -/
def opClaims (op : Nat) : List Nat :=
  match op with
  | 0x02 => [3, 4]
  | 0x10 => [4]
  | 0x18 => [4]
  | 0x20 => [3, 5]
  | 0x21 => [4]
  | 0x28 => [2]
  | 0x80 => [0]
  | 0x83 => [1]
  | _ => []

/-- Commands of which the tile carries out one at a time, in fetch order, whatever their context: SCHED_LOAD and MODEL_INSTALL (R130, R239). -/
def oneAtATime (op : Nat) : Bool := op == 0x02 || op == 0x20

/-- Whether a command that was fetched earlier and has not yet taken effect goes before this one: one of the same queue (R346), one of
the same context (R183, R194, R241), one of a kind that runs one at a time (R130, R239), or a release of a resource that this one claims (R478). -/
def State.heldBack (s : State) (c : Cmd) : Bool :=
  s.cmds.list.any (fun e => decide (e.fid < c.fid) && e.stage != .running &&
    (e.q == c.q || (e.ctx.isSome && e.ctx == c.ctx) || (oneAtATime c.opcode && e.opcode == c.opcode) ||
      (opClaims c.opcode).any (fun r => (opReleases e.opcode).contains r)))

/-- Whether a step submitted before the command, that has neither committed nor faulted, satisfies a condition. -/
def State.stepBefore (s : State) (c : Cmd) (p : StepRec → Bool) : Bool :=
  s.steps.list.any (fun x => decide (x.2.fid < c.fid) && some x.2.ctx == c.ctx && p x.2)

/-- Whether a step's batch includes a stream bound to a record (R194). -/
def State.stepBound (s : State) (rec : Nat) (r : StepRec) : Bool :=
  r.streams.any (fun i => (s.strms.get? i).any (fun (x : Strm) => x.kvSeq == rec))

/-- Steps that a command waits for (R132, R183, R194, R238, R240, R241, R354, R376, R429). -/
def State.stepsBlock (s : State) (c : Cmd) : Bool :=
  let op := c.opcode
  if op == 0x03 then s.stepBefore c (fun r => r.handle == c.fld 8 4 % 8192 && r.gen == c.fld 8 4 / 8192)
  else if 0x09 ≤ op && op ≤ 0x0D then s.stepBefore c (fun r => r.streams.contains (c.fld 8 2))
  else if 0x13 ≤ op && op ≤ 0x16 then s.stepBefore c (s.stepBound (c.fld 8 4))
  else if [0x18, 0x19, 0x1A, 0x1B, 0x20, 0x21, 0x22, 0x23, 0x24, 0x29, 0x31, 0x40].contains op then s.stepBefore c (fun _ => true)
  else false

/-- Firmware cores that a command needs (R20, R414). -/
def opCores (op : Nat) : List Nat :=
  match op with
  | 0x02 => [1, 2]
  | 0x03 => [1, 2]
  | 0x10 => [1, 2]
  | 0x11 => [1, 2]
  | 0x13 => [1, 2]
  | 0x18 => [1, 2]
  | 0x19 => [1, 2]
  | 0x20 => [0, 1, 3]
  | 0x21 => [1, 2]
  | 0x22 => [1, 2]
  | 0x23 => [1, 3]
  | 0x30 => [0, 1]
  | 0x31 => [0, 1]
  | 0x43 => [1, 3]
  | 0x44 => [1, 3]
  | 0x80 => [1, 2]
  | 0x81 => [1, 2]
  | 0x82 => [1, 2]
  | 0x90 => [0, 1, 3]
  | 0x91 => [0, 1]
  | 0x92 => [0, 1]
  | 0x93 => [0, 1]
  | 0x94 => [0, 1, 3]
  | 0xA0 => [0, 1]
  | _ => [1]

/-- Whether a firmware core is out of service (R413, R416). -/
def State.coreOut (s : State) (n : Nat) : Bool := ((s.fw.cores[n]?).map (·.restarting)).getD false

def State.mustWait (s : State) (c : Cmd) : Bool := s.heldBack c || s.stepsBlock c || (opCores c.opcode).any s.coreOut

/-- Runs the row of a command that needs nothing from the environment: it is refused by the checks on its entry, waits as a deferred
command (R183), or takes effect. -/
def State.runOp (s : State) (fid op own : Nat) (effect : State → Cmd → State) : State :=
  s.runCmd fid op own .fetched (fun t c => if t.mustWait c then t.defer fid else effect t c)

/-- Runs the row of a command that brings host bytes: it is refused by the checks on its entry, waits where it stands, also for a read tag
(R357), or takes effect. -/
def State.runRead (s : State) (fid op own : Nat) (effect : State → Cmd → State) : State :=
  s.runCmd fid op own .fetched (fun t c => if t.mustWait c || t.freeTags == 0 then t else effect t c)

/-- The parts of the state that completing a command can change. -/
def State.cplOf (s r : State) : State :=
  { s with funcs := r.funcs, queues := r.queues, cmds := r.cmds, ctxs := r.ctxs, fw := r.fw, out := r.out, steps := r.steps }

/-- Completes with a status alone, or as a submission that was never dispatched (R349). -/
def State.answer (s : State) (c : Cmd) (status : Nat) : State := s.complete c.fid status c.refused

/-- A context fault: its CTX_FAULT log entry, and its submissions that have not been dispatched complete with ST_CTX_FAULTED (R14, R439,
R452). -/
def State.faultCtx (s : State) (ctx cls status : Nat) : State :=
  match s.ctx ctx with
  | none => s
  | some c =>
    let t := (s.modCtx ctx (fun x => { x with state := if x.state = 1 then 2 else x.state })).logBoth c.func
      { mkLog 0x0105 [(0, status), (8, cls)] with ctx := some ctx }
    let waiting := t.steps.list.filter (fun p => p.2.ctx == ctx && p.2.stage == .waiting && p.2.reexecs == 0)
    waiting.foldl (fun (u : State) p =>
      ({ u with steps := { u.steps with list := u.steps.list.erase p.1 } } : State).complete p.2.fid stCtxFaulted
        (submitResult p.2.handle p.2.gen 0 0 0 0 (2 ^ 64 - 1) (2 ^ 32 - 1))) t

/-- The context of a command of a context's queue. -/
def Cmd.ctxNo (c : Cmd) : Nat := c.ctx.getD 0

/- Keys of the charges of a context (R226): KV metadata, tier tables, MAC stores, the stream-table frame, images by handle slot. -/
def chargeKv := 1
def chargeTables := 2
def chargeMac := 3
def chargeStrm := 4
def chargeImage (slot : Nat) : Nat := 16 + slot

/-- The state once a claimant has taken the free frames that it can have at once, up to n, and how many it then lacks. -/
def State.grabbed (s : State) (ctx : Nat) : Nat → State × Nat
  | 0 => (s, 0)
  | n + 1 =>
    match s.findFrame ctx false with
    | .ok f => (s.setFrame f (.charged ctx)).grabbed ctx n
    | _ => (s, n + 1)

/-- Whether a frame is on its way to a context that lacks one: it waits for its quad, is being zeroed, or is or can be reclaimed (R227, R299,
R386). -/
def State.framesComing (s : State) (ctx : Nat) : Bool :=
  s.findFrame ctx false == .wait || s.claimed ctx != 0 || (s.reclaimable (s.partOf ctx)).isSome ||
    s.tier.frames.any (fun p => p.2 == .zeroing none && !s.tier.claims.has p.1 && s.param 0x020C (p.1 / groupFrames) == s.partOf ctx)

/-- How many frames a context waits for that needs n, or none when it cannot have them (R227, R294, R299). -/
def State.lacks (s : State) (ctx n : Nat) : Option Nat :=
  let g := s.grabbed ctx n
  if g.1.framesComing ctx then some g.2 else none

/-- The answer of a claim on the guarantee: granted, a wait for the frames that it lacks, or refused. -/
inductive ClaimRes where
  | ok (s : State)
  | wait (lack : Nat)
  | refused

/-- Sets a charge of a context, within its guarantee (R226, R227, R294). -/
def State.claimTiles (s : State) (ctx key tiles : Nat) : ClaimRes :=
  let old := ((s.ctx ctx).map (fun (c : Ctx) => AList.getD c.charges key 0)).getD 0
  if old < tiles && !s.fits ctx (tiles - old) then .refused
  else match s.setCharge ctx key tiles with
    | some t => .ok t
    | none => (s.lacks ctx (cdiv tiles 32)).elim .refused .wait

/-- Sets a charge that does not grow. -/
def State.lowerCharge (s : State) (ctx key tiles : Nat) : State := (s.setCharge ctx key tiles).getD s

/-- Gives up a charge of a context. -/
def State.dropCharge (s : State) (ctx key : Nat) : State := s.lowerCharge ctx key 0

end Sys2Proof.Machine
end

