-- ==== Sys2Proof/Machine/FwOps.lean ====
section
/-!
DEFINITION. Machine/FwOps.lean: signed objects (R397), firmware images and slots (R398 to R402), configuration record sets and update
records (R406 to R411).
-/
namespace Sys2Proof.Machine

/-- Whether a signed object verifies: the signer's key hashes to SIGNER_HASH and the signature over every byte before the block is valid
(R397). -/
def Nv.verifies (nv : Nv) (b : Bytes) : Bool :=
  let n := b.length - 208
  let blk := b.drop n
  let pub := blk.take 97
  decide (208 ≤ b.length) && decide (fixLen 48 (Config.sha384 pub) = fixLen 48 nv.otp.row.signerHash) &&
    Config.ecdsaVerify pub (b.take n) ((blk.drop 112).take 48) ((blk.drop 160).take 48)

/-- The bytes of section n of a firmware image. -/
def fwSection (b : Bytes) (n : Nat) : Bytes := (b.drop (leAt b (64 + 64 * n) 4)).take (leAt b (68 + 64 * n) 4)

/-- The header rules of R398 on an image of the given bytes. -/
def fwImageOk (b : Bytes) : Bool :=
  decide (b.length ≤ 8388608) && b.length % 64 == 0 && decide (528 ≤ b.length) && leAt b 0 4 == 0x57464E41 && leAt b 4 2 == 1 &&
    decide (leAt b 6 2 ≤ 256) && leAt b 8 4 == b.length && decide (leAt b 12 2 ≤ leAt b 16 2) && decide (leAt b 16 2 ≤ leAt b 14 2) &&
    allZero ((b.drop 24).take 40) &&
    (List.range 4).all (fun n =>
      let off := leAt b (64 + 64 * n) 4
      let len := leAt b (68 + 64 * n) 4
      off % 64 == 0 && decide (1 ≤ len) && decide (len ≤ 524288) && decide (off + len ≤ b.length - 208) && leAt b (76 + 64 * n) 4 == 0 &&
        decide ((b.drop (80 + 64 * n)).take 48 = fixLen 48 (Config.sha384 (fwSection b n))))

/-- What a core needs to know of an image in a slot (2 is the recovery image). -/
def fwImage (slot : BitVec 2) (b : Bytes) : FwImage :=
  { slot := slot, svn := leAt b 6 2, digests := (List.range 4).map (fun n => (b.drop (80 + 64 * n)).take 48), ipc := leAt b 18 2,
    stateMin := leAt b 12 2, stateMax := leAt b 14 2, stateVer := leAt b 16 2, size := b.length }

def Nv.slotBytes (nv : Nv) (slot : Nat) : Bytes := if slot = 0 then nv.slotA else nv.slotB

/-- The image of a commit record when its slot still hashes to the record's digest (R401, R402). -/
def Nv.committed (nv : Nv) (r : Commit) : Option FwImage :=
  let b := (nv.slotBytes r.slot).take r.size
  if b.length = r.size ∧ fixLen 48 (Config.sha384 b) = fixLen 48 r.digest then some (fwImage (BitVec.ofNat 2 r.slot) b) else none

/-- Whether a committed image may be booted: it verifies, keeps the header rules, and is not below the rollback floor (R402). -/
def Nv.bootable (nv : Nv) (r : Commit) : Bool :=
  let b := (nv.slotBytes r.slot).take r.size
  (nv.committed r).isSome && nv.verifies b && fwImageOk b && decide (nv.svn ≤ leAt b 6 2)

/-- The commit records in descending SEQ (R402). -/
def Nv.byNewest (nv : Nv) : List Commit := nv.commits.insertionSort (fun a b => b.seq ≤ a.seq)

def Nv.newest (nv : Nv) : Option Commit := nv.byNewest.head?

def Nv.topSeq (nv : Nv) : Nat := (nv.commits.map (·.seq)).foldl max 0

/-- A firmware core that starts an image (R366, R402, R413). -/
def FwCore.run (c : FwCore) (n : Nat) (i : FwImage) : FwCore :=
  { c with slot := i.slot, svn := BitVec.ofNat 9 i.svn, digest := i.digests.getD n [], ipc := i.ipc }

/-- Whether a firmware core runs the image of a slot (R415). -/
def FwCore.runs (c : FwCore) (n : Nat) (i : FwImage) : Bool := c.slot == i.slot && c.digest == i.digests.getD n [] && c.svn.toNat == i.svn

def State.modCore (s : State) (n : Nat) (f : FwCore → FwCore) : State := { s with fw := { s.fw with cores := s.fw.cores.modify n f } }

/- Configuration records. -/

/-- The entries of a record that begins at an offset (R407): SUBSYS, the entries, and the offset after them; none when a field breaks its
form. -/
def readRecord (b : Bytes) (off : Nat) : Option (Nat × List CfgEntry × Nat) :=
  let sub := leAt b off 1
  let n := leAt b (off + 2) 2
  let es := (List.range n).map (fun i => off + 8 + 16 * i)
  if b.length < off + 8 + 16 * n ∨ leAt b (off + 1) 1 ≠ 0 ∨ n = 0 ∨ 256 < n ∨ leAt b (off + 4) 4 ≠ 0 ∨ sub = 0 ∨ 8 < sub ∨
      es.any (fun o => leAt b (o + 1) 1 != sub || leAt b (o + 4) 4 != 0) then none
  else some (sub, es.map (fun o => { param := leAt b o 2, index := leAt b (o + 2) 2, value := leAt b (o + 8) 8 }), off + 8 + 16 * n)

def readRecords (b : Bytes) : Nat → Nat → Option (List CfgEntry × Nat)
  | 0, off => some ([], off)
  | n + 1, off =>
    match readRecord b off with
    | none => none
    | some (_, es, o) => (readRecords b n o).map (fun r => (es ++ r.1, r.2))

/-- Whether an entry names a known parameter with its INDEX and VALUE in range (R408). -/
def CfgEntry.inRange (e : CfgEntry) : Bool :=
  (paramRow e.param).any (fun r => decide (e.index ≤ r.idx) && decide (r.lo ≤ e.value) && decide (e.value ≤ r.hi))

def CfgEntry.key (e : CfgEntry) : Nat := e.param * 65536 + e.index

/-- The SEQ and the entries of a valid configuration record set (R406, R408). -/
def Nv.recordSet (nv : Nv) (b : Bytes) : Option (Nat × List CfgEntry) :=
  let n := leAt b 6 2
  if b.length < 272 ∨ 1048576 < b.length ∨ leAt b 0 4 ≠ 0x46474E43 ∨ leAt b 4 2 ≠ 1 ∨ n = 0 ∨ 64 < n ∨ leAt b 24 4 ≠ b.length ∨
      !allZero ((b.drop 28).take 36) ∨ (leAt b 16 8 ≠ 0 ∧ leAt b 16 8 ≠ nv.serial) ∨ !nv.verifies b then none
  else match readRecords (b.take (b.length - 208)) n 64 with
    | none => none
    | some (es, top) =>
      if top = b.length - 208 ∧ es.all CfgEntry.inRange ∧ (es.map CfgEntry.key).Nodup then some (leAt b 8 8, es) else none

/-- The parameters that entries set, on top of those in force. -/
def Params.apply (ps : Params) (es : List CfgEntry) : Params := es.foldl (fun (l : Params) e => AList.set l e.key e.value) ps

/-- The configuration that the boot ROM takes (R403): copy, SEQ, entries, and the bytes that D₀ is taken over. -/
def Nv.bootConfig (nv : Nv) : BitVec 2 × Nat × List CfgEntry × Bytes :=
  match nv.recordSet nv.cfg0, nv.recordSet nv.cfg1 with
  | some a, some b => if a.1 < b.1 then (1, b.1, b.2, nv.cfg1) else (0, a.1, a.2, nv.cfg0)
  | some a, none => (0, a.1, a.2, nv.cfg0)
  | none, some b => (1, b.1, b.2, nv.cfg1)
  | none, none => (2, 0, [], [])

/-- Whether a subsystem is at its quiescent point (R410). -/
def State.quiescent (s : State) (sub : Nat) : Bool :=
  match sub with
  | 2 => s.dram.chans.all (fun c => c.training.isNone) && s.dram.groups.all (fun g => g.spareState != 2) && s.dram.change.isNone
  | 3 => s.steps.list.all (fun p => p.2.stage != .dispatched)
  | _ => true

/-- Applies a pending record: its parameters, the event and log entry, its completion (R410). A DRAM_MAX_FSP below the set point in force
starts a change (R295). -/
def State.applyRecord (s : State) (p : CfgPending) : State :=
  let ps := s.params.apply p.entries
  let top := s.dram.allowed (ps.val 0x0201 0)
  let t : State := { s with
    params := ps,
    cfgm := { s.cfgm with pending := s.cfgm.pending.filter (fun x => x.k != p.k) },
    dram := if p.subsys = 2 ∧ s.dram.speed.toNat < top.toNat then s.dram.switchFrom top 0 else s.dram }
  ((t.fwEvent 2).logPf (mkLog 0x0004 [(0, p.subsys), (32, p.k)])).complete p.fid stOk (toLe p.k 4)

end Sys2Proof.Machine
end

