-- ==== Sys2Proof/Machine/BootOps.lean ====
section
/-!
DEFINITION. Machine/BootOps.lean: the tile reset (R472), the boot (R402 to R405, R418, R487), Bivouac (R460, R461) and thermal trip (R466), and
rows that become scrub-pending beside the resident ones (R107, R108).
-/
namespace Sys2Proof.Machine

/-- The pages whose programs a reset cuts short are partly programmed (R324). -/
def Flash.torn (f : Flash) : Flash :=
  (f.dies.flatMap (fun d => d.2.ops.map (fun o => o.2.work))).foldl (fun (g : Flash) w => match w with
    | .program a _ data => g.place a (Config.tornPage a data)
    | .erase _ => g) f

/-- The flash as a tile reset leaves it: pulses have ended, and the counters and queues of the controller are gone (R323, R324, R328).
GROWN_BAD clears with the other counters: R328 says that counters clear at a tile reset and gives it the reset value 0, while its meaning counts
since manufacture (DESIGN CHOICE, notes/assumptions/50.md). -/
def Flash.atReset (f : Flash) (brownout : Bool) : Flash :=
  { f.torn with dies := [], owed := [], offsets := f.saved, stats := [], answers := [], eraseQueue := [], brownoutLast := brownout || f.warned,
                warned := false, blocked := false, recoveryBusy := false, paused := false,
                grownBad := 0, retryCnt := 0, softCnt := 0, ueCnt := 0, refused := 0, progFail := 0, eraseFail := 0 }

/-- A tile reset with its cause (R472): the flash, what it stores and the queue of events stay. `skip` is the slot that the expired watchdog's
core ran (R418). -/
def State.tileReset (s : State) (cause : BitVec 3) (wdtCore : BitVec 2) (skip : Option Nat) : State :=
  State.afterReset s.pending s.nv (s.flash.atReset (cause == 3)) { Boot.fresh cause with wdtCore := wdtCore, skip := skip } Link.fresh s.out
    s.draws

/-- Halts the boot (R405). -/
def State.haltBoot (s : State) (code : BitVec 3) : State :=
  { s with boot := { s.boot with life := .halted, phase := 7, haltCode := code } }

/-- The records that boot may take: those of the slot that R418 skips are left out when the other slot passes R402. -/
def State.bootRecords (s : State) : List Commit × Bool :=
  let l := s.nv.byNewest.filter s.nv.bootable
  match s.boot.skip with
  | none => (l, false)
  | some k => if l.any (fun r => r.slot != k) then (l.filter (fun r => r.slot != k), l.any (fun r => r.slot == k)) else (l, false)

/-- Whether a logical page of the model partition belongs to an installed object (R325). -/
def Nv.keepsPage (nv : Nv) (p : Nat) : Bool := nv.models.any (fun m => m.2.units.contains (p / 128))

/-- The four cores start an image, F0 programs the ROLLBACK bits that a copy lacks, the configuration is read and the flash recovered (R327,
R402, R403, R325): events 3 to 7 of the boot table, so that
phase 5 has begun (R487; notes/assumptions/28.md). -/
def State.startImage (s : State) (i : FwImage) : State :=
  let cfg := s.nv.bootConfig
  let ps := Params.apply [] cfg.2.2.1
  { s with
    boot := { s.boot with life := .booting, phase := 5, slot := i.slot, haltCode := 0 },
    fw := { s.fw with cores := (s.fw.cores.zipIdx).map (fun p => p.1.run p.2 i), stateVer := i.stateVer },
    nv := { s.nv with otp := s.nv.otp.burn s.nv.otp.rollback },
    params := ps,
    cfgm := { source := cfg.1, seq := cfg.2.1, k := 0, digest := Config.sha384 cfg.2.2.2, pending := [] },
    flash := { s.flash.recover s.nv.keepsPage with
      otpMirror := s.nv.otp.mirror } }

/-- The boot ROM (R327, R402, R405). -/
def State.bootRom (s : State) : State :=
  if !s.nv.otp.usable then s.haltBoot 1
  else if !s.nv.dirOk.1 ∧ !s.nv.dirOk.2 then s.haltBoot 3
  else
    let r := s.bootRecords
    match r.1.head?.bind s.nv.committed with
    | none => s.haltBoot 2
    | some i => let t := s.startImage i; { t with boot := { t.boot with skipped := r.2 } }

/-- The rank of a group that the configuration names as spare (R269, R408): channel in the group, and rank. -/
def Params.spareRank (ps : Params) (g : Nat) : BitVec 2 × Bool := (BitVec.ofNat 2 (ps.val 0x020D g / 2), ps.val 0x020D g % 2 == 1)

/-- A group with its spare rank and partition, and its service record applied (R269, R291, R296). -/
def Nv.bootGroup (nv : Nv) (ps : Params) (g : Nat) : DramGroup :=
  let base : DramGroup := { DramGroup.fresh (BitVec.ofNat 4 (ps.val 0x020C g)) with spareCh := (ps.spareRank g).1, spareRank := (ps.spareRank g).2 }
  match nv.sparedRanks.find? (fun r => r.1 / 4 == g) with
  | some r => { base with retired := some (r.1 % 4, r.2), spareState := 3 }
  | none => if nv.withdrawnRanks.contains (g * 4 + base.spareCh.toNat, base.spareRank) then { base with spareState := 3 } else base

/-- A channel with its quads as the roles of its ranks say: the dark quads of a spare that is not in use, and the quads of a retired rank, are
OFF (R269, R291). -/
def Nv.bootChan (nv : Nv) (ps : Params) (now c : Nat) : DramChan :=
  let g := nv.bootGroup ps (c / 4)
  let retired (r : Bool) : Bool := nv.sparedRanks.contains (c, r) || nv.withdrawnRanks.contains (c, r)
  let quads (r : Bool) : List QuadState :=
    if retired r then List.replicate 4 .off
    else if g.spareCh.toNat == c % 4 && g.spareRank == r && g.spareState != 3 then [.on, .on, .off, .off]
    else List.replicate 4 .on
  { DramChan.fresh none with retired0 := retired false, retired1 := retired true, quads := quads false ++ quads true, lastTrain := now }

/-- The DRAM after boot training at the set points that every channel passed (R267, R268). -/
def Nv.bootDram (nv : Nv) (ps : Params) (fspOk : BitVec 3) (now : Nat) : Dram :=
  let d : Dram := { Dram.fresh with
    chans := (List.range 32).map (nv.bootChan ps now), groups := (List.range 8).map (nv.bootGroup ps), fspOk := fspOk }
  { d with speed := d.allowed (ps.val 0x0201 0) }

/-- The decode-table store as boot loads it: every installed object has one hold for each of its table indexes (R254, R256). -/
def Nv.bootGens (nv : Nv) : AList Gen :=
  nv.gens.map (fun p =>
    let holds := (nv.models.map (fun m => (m.2.tables.filter (fun t => t.2.1 * 4 + t.2.2 == p.1)).length)).sum
    if holds = 0 then (p.1, Gen.fresh) else (p.1, { p.2 with state := .live, holds := holds }))

/-- The log entry of a boot (R421). -/
def State.bootLog (s : State) : LogRec :=
  mkLog 0x0001 [(0, s.boot.slot.toNat), (2, (((s.fw.cores[0]?).map (fun (c : FwCore) => c.svn.toNat)).getD 0)), (11, s.boot.cause.toNat),
    (14, b2n s.boot.skipped), (64, s.cfgm.seq), (128, s.cfgm.source.toNat)]

/-- Boot ends (R404, R487): DRAM trained, decode tables loaded, the service record applied, READY set. A switch that the record holds is made
again (R98). -/
def State.finishBoot (s : State) (fspOk rate : BitVec 3) (csPasses : Bool) : State :=
  let t : State := { s with
    boot := { s.boot with life := .serving, ready := true, phase := 6 },
    dram := s.nv.bootDram s.params fspOk s.boot.timer,
    cmp := { s.cmp with gens := s.nv.bootGens },
    nv := { s.nv with gens := s.nv.bootGens, models := s.nv.models.map (fun m => (m.1, { m.2 with attached := none })) },
    sparing := { s.sparing with usable := csPasses, wanted := if csPasses then s.nv.switched.map (·.1) else none },
    lcores := (s.lcores.zipIdx).map (fun p => if s.nv.carrierless.contains p.2 then { p.1 with carrier := 15 } else p.1),
    link := { s.link with rate := rate },
    power := { s.power with capMw := BitVec.ofNat 17 (s.param 0x0701 0) } }
  let t := if fspOk = 7 then t else t.dramEvent 2
  let t := if rate = 5 then t else t.uciEvent 6
  t.logPf s.bootLog

/-- Resident rows of the core that a physical core carries, of every context, as ranges (R108). -/
def State.residentRows (s : State) (p : Nat) : Ranges :=
  match s.carried p with
  | none => []
  | some c => s.ctxs.flatMap (fun x => (x.2.residents.filter (fun r => r.1 / 65536 == c)).map (fun r => (r.2.first, r.2.rows)))

/-- Marks every row of a physical core that lies in no resident region scrub-pending (R25, R108, R440, R459). -/
def State.scrubOthers (s : State) (p : Nat) : State :=
  let rows := Ranges.compl (s.residentRows p) scratchRows
  s.modPc p (fun x => rows.foldl (fun (y : PCore) r => y.markScrub r.1 r.2) x)

/-- Whether everything that Bivouac entry waits for has ended (R460 events 2 to 4): steps, fetched commands, host reads, tile moves, service
procedures, flash operations and posted records. -/
def State.quiet (s : State) : Bool :=
  s.cmds.list.isEmpty && s.steps.list.isEmpty && s.link.tags.isEmpty && s.tier.promos.isEmpty && s.tier.demos.isEmpty &&
    s.fw.logQ.isEmpty && s.lcores.all (fun c => c.cairn.isEmpty) && s.dram.chans.all (fun c => c.training.isNone && c.state != 2) &&
    s.dram.groups.all (fun g => !g.serviceBusy) && s.flash.dies.all (fun d => d.2.ops.isEmpty) && s.flash.owed.isEmpty && s.sparing.busy.isNone &&
    s.fw.activate.isNone && s.cfgm.pending.isEmpty && s.fw.cores.all (fun c => !c.restarting)

/-- VCORE in Bivouac, in 5 mV units: 0.55 V (R460). -/
def bivouacVcore : Nat := 110

end Sys2Proof.Machine
end

