-- ==== Sys2Proof/Machine/BootRows.lean ====
section
/-!
DEFINITION. Machine/BootRows.lean: power, reset, boot, brown-out, thermal trip and Bivouac rows (R323, R402 to R405, R460, R461, R466, R470 to
R472, R487).
-/
namespace Sys2Proof.Machine

/-- The rails rise and the internal reset is released (R470). -/
def execPowerOn (s : State) : Result := if s.boot.life = .off then .next (s.tileReset 0 0 none) else .next s

/-- RESET on the sideband, which answers while the tile has power (R470, R472). -/
def execSidebandReset (s : State) : Result := if s.boot.life = .off then .next s else .next (s.tileReset 1 0 none)

/-- The tile reset that a brown-out asked for, when one is due (R323). -/
def State.dueReset (s : State) : State :=
  match s.boot.resetReq with
  | some c => s.tileReset c 0 none
  | none => s

/-- The boot ROM runs once a reset is released. -/
def execBootRomStart (s : State) : Result :=
  if s.dueReset.boot.life = .rom then .next s.dueReset.bootRom else .next s

def execBootComplete (fspOk rate : BitVec 3) (csPasses : Bool) (s : State) : Result :=
  if s.boot.life = .booting ∧ fspOk ≠ 0 then .next (s.finishBoot fspOk rate csPasses) else .next s

/-- The flash supply crosses its warning threshold: no new pulse, and a tile reset is asked for (R323). -/
def execBrownoutWarning (s : State) : Result :=
  if s.boot.life = .off then .next s
  else .next { s with flash := { s.flash with blocked := true, brownoutLast := true, warned := true }, boot := { s.boot with resetReq := some 3 } }

/-- A sensor reads 115 °C (R466). In Bivouac no sensor is read (R458). -/
def execThermalTrip (s : State) : Result :=
  if s.boot.life = .off ∨ s.boot.life = .bivouac ∨ s.boot.life = .tripped then .next s
  else .next { s with
    boot := { s.boot with life := .tripped, ready := false, thermtrip := true }, flash := { s.flash with blocked := true },
    out := s.out ++ [.thermtrip] }

/-- Bivouac entry ends; a WAKE that was queued then takes effect (R460, R462). -/
def execBivouacEntryComplete (s : State) : Result :=
  if s.boot.life = .entering ∧ s.quiet then
    let b : Boot := { s.boot with life := if s.boot.wakeQueued then .waking else .bivouac, ready := false, wakeQueued := false }
    .next { s with
      boot := b, out := s.out ++ (if s.boot.wakeQueued then [.vid bivouacVcore, .vid s.power.vcore.toNat] else [.vid bivouacVcore]) }
  else .next s

/-- WAKE on the sideband (R461, R462). -/
def execWake (s : State) : Result :=
  match s.boot.life with
  | .bivouac => .next { s with boot := { s.boot with life := .waking }, out := s.out ++ [.vid s.power.vcore.toNat] }
  | .entering =>
    if s.boot.wakeQueued then .next s
    else .next { s with boot := { s.boot with wakeQueued := true }, pf := { s.pf with pwrEv := s.pf.pwrEv.raise 4 s.pf.arrivals } }
  | _ => .next s

/-- Exit from Bivouac: every non-resident row of every core reads zero (R461). -/
def execWakeComplete (s : State) : Result :=
  if s.boot.life = .waking then
    let t : State := { s with
      boot := { s.boot with life := .serving, ready := true },
      pcores := ((List.range s.pcores.length).foldl (fun (u : State) p => u.scrubOthers p) s).pcores,
      pf := { s.pf with pwrEv := s.pf.pwrEv.raise 3 s.pf.arrivals } }
    .next t
  else .next s

/-- The integrator removes the rails after a RESET or after THERMTRIP_N (R471). -/
def execPowerOff (s : State) : Result :=
  if s.boot.life = .rom ∨ s.boot.life = .tripped then
    let t := s.tileReset 0 0 none
    .next { t with boot := { t.boot with life := .off } }
  else .next s

end Sys2Proof.Machine
end

