-- ==== Sys2Proof/Machine/ImageMem.lean ====
section
/-!
DEFINITION. Machine/ImageMem.lean: the DRAM copy of a schedule image: written at admission, read by the sequencers, lost with its tiles (R129, R137,
R244).
-/
namespace Sys2Proof.Machine

/-- The copy of an image of a context. -/
def State.imgCopy (s : State) (ctx slot : Nat) : Option ImgCopy := (s.ctx ctx).bind (fun c => c.copies.get? slot)

/-- Writes the bytes of an image into charged tiles of its context (R129). Tiles on a channel that drops writes are lost (R289). -/
def State.storeImage (s : State) (ctx slot : Nat) (b : Bytes) : State :=
  let places := s.freePlaces ctx none (cdiv b.length tileBytes)
  let put (d : Dram) (p : Nat × Nat) : Dram := d.writeFrame (p.1 / 32) (p.1 % 32 * tileBytes) ((b.drop (p.2 * tileBytes)).take tileBytes)
  let lost := (places.zipIdx.filter (fun p => s.dram.dropsWrites (p.1 / 32))).map (·.2)
  ({ s with dram := places.zipIdx.foldl put s.dram } : State).modCtx ctx
    (fun c => { c with copies := c.copies.set slot { places := places, lost := lost } })

/-- The handle of an admitted image (R131). -/
def State.handleOf (s : State) (slot : Nat) : Nat := slot + 8192 * ((s.images.imgs.get? slot).map (·.gen)).getD 0

/-- A tile of an image's copy is lost: it is POISONED, and its DATA_LOST log entry names the handle (R244, R452). -/
def State.loseImage (s : State) (ctx slot tile : Nat) : State :=
  match s.ctx ctx, s.imgCopy ctx slot with
  | some x, some k =>
    if k.lost.contains tile then s
    else
      let t := s.modCtx ctx (fun c => { c with copies := c.copies.set slot { k with lost := tile :: k.lost } })
      (t.tierEvent ctx 4).logBoth x.func { mkLog 0x0107 [(0, 1), (32, s.handleOf slot)] with ctx := some ctx }
  | _, _ => s

/-- The image tile that lies at a place of a context's charged frames: handle slot and tile. -/
def State.imageAt (s : State) (ctx place : Nat) : Option (Nat × Nat) :=
  (s.ctx ctx).bind (fun c => c.copies.findSome? (fun p => (p.2.places.idxOf? place).map (fun i => (p.1, i))))

/-- Tiles of an image's copy that hold the STREAM sections of its cores, each with its offset and length in the tile. -/
def Image.streamParts (i : Image) (cores : List Nat) : List (Nat × Nat × Nat) :=
  cores.flatMap (fun c => match i.sects.get? c with
    | none => []
    | some (off, len) => (List.range (cdiv (off + len) tileBytes - off / tileBytes)).map (fun n =>
        let tile := off / tileBytes + n
        let lo := max off (tile * tileBytes)
        (tile, lo - tile * tileBytes, min (off + len) ((tile + 1) * tileBytes) - lo)))

/-- The sequencers of a step read their STREAM sections from the image's copy: none when they can, else the state with what the read found lost
(R137, R244, R274). The copy holds the admitted descriptors as long as it can be read (R137). -/
def State.streamLost (s : State) (slot : Nat) (i : Image) (cores : List Nat) : Option State :=
  match s.imgCopy i.ctx slot with
  | none => none
  | some k =>
    let bad (p : Nat × Nat × Nat) : Bool :=
      match k.places[p.1]? with
      | none => true
      | some x => k.lost.contains p.1 || (s.dram.readFrame (x / 32) (x % 32 * tileBytes + p.2.1) p.2.2).isNone
    let parts := (i.streamParts cores).filter bad
    if parts.isEmpty then none
    else some (parts.foldl (fun (t : State) p =>
      let x := k.places.getD p.1 0
      (if k.lost.contains p.1 then t else t.countUes (x / 32) (x % 32 * tileBytes + p.2.1) p.2.2).loseImage i.ctx slot p.1) s)

end Sys2Proof.Machine
end

