-- ==== Sys2Proof/Machine/DramOps.lean ====
section
/-!
DEFINITION. Machine/DramOps.lean: service procedures of the DRAM: due channels and retraining (R286 to R289, R302), rank retirement and
withdrawal (R290 to R294), set-point changes (R295), and quads that a waiting allocation needs (R299).
-/
namespace Sys2Proof.Machine

/-- What the DRAM service rows may change. -/
def State.dramRow (s r : State) : State :=
  { s with dram := r.dram, tier := r.tier, ctxs := r.ctxs, funcs := r.funcs, fw := r.fw, pf := r.pf, cmp := r.cmp, nv := s.nv.ranksOf r.nv }

/-- Whether F2 runs service procedures now. -/
def State.f2Runs (s : State) : Bool := s.running && !s.coreOut 2

/-- Whether a rank is the spare rank of its group. -/
def Dram.isSpare (d : Dram) (chan : Nat) (rank : Bool) : Bool :=
  (d.group (chan / 4)).spareCh.toNat == chan % 4 && (d.group (chan / 4)).spareRank == rank

/-- Whether a rank is retired, on the spare or without one. -/
def Dram.isRetired (d : Dram) (chan : Nat) (rank : Bool) : Bool :=
  (if rank then (d.chan chan).retired1 else (d.chan chan).retired0) || (d.group (chan / 4)).retired == some (chan % 4, rank)

/-- The log entry of a retirement: kind 0 start, 1 done, 2 spare exhausted (R421). -/
def retireLog (chan : Nat) (rank : Bool) (kind : Nat) : LogRec :=
  mkLog 0x0013 [(0, chan / 4), (3, chan % 4), (5, b2n rank), (6, kind)]

/-- The lendable frames of a group that are in use, or still being zeroed (R291). -/
def State.lentFrames (s : State) (g : Nat) : List (Nat × FrameUse) :=
  s.tier.frames.filter (fun p => p.1 / groupFrames == g && s.dram.lendable p.1)

/-- Evicts every tile of a borrowed frame (R227). -/
def State.reclaimFrame (s : State) (f : Nat × FrameUse) : State :=
  match f.2 with
  | .cache c _ slots => (slots.foldl (fun (t : State) q => t.evict c q.2.1 q.2.2) s).tierEvent c 1
  | _ => s

/-- Once no lendable frame of a group is in use and no other service procedure runs in it, the dark quads are powered up and the migration
begins (R286, R291). -/
def State.retireStep (s : State) (g : Nat) : State :=
  let x := s.dram.group g
  if x.spareState = 1 ∧ (s.lentFrames g).isEmpty ∧ !x.serviceBusy then
    let sp := x.spareIdx
    let up (q : QuadState) : QuadState := match q with
      | .off => .rising
      | .closing _ => .closing true
      | q => q
    let d := s.dram.setChan (g * 4 + sp / 2) (fun c =>
      { c with quads := c.quads.zipIdx.map (fun p => if p.2 / 4 = sp % 2 then up p.1 else p.1) })
    { s with dram := d.setGroup g (fun y => { y with spareState := 2, migProgress := 0, serviceBusy := true, serviceCh := BitVec.ofNat 2 (sp / 2) }) }
  else s

/-- Starts the retirement of a rank onto the spare of its group (R291). -/
def State.retireStart (s : State) (chan : Nat) (rank : Bool) : State :=
  let g := chan / 4
  let t : State := { s with dram := s.dram.setGroup g (fun y => { y with spareState := 1, retired := some (chan % 4, rank) }) }
  let t := (t.dramEvent 3).logPf (retireLog chan rank 0)
  ((t.lentFrames g).foldl State.reclaimFrame t).retireStep g

/-- A retirement that finds no spare (R293). -/
def State.spareExhausted (s : State) (chan : Nat) (rank : Bool) : State := (s.dramEvent 5).logPf (retireLog chan rank 2)

/-- Frames that are allocated on a rank (R294). -/
def State.framesOn (s : State) (chan : Nat) (rank : Bool) : List (Nat × FrameUse) :=
  s.tier.frames.filter (fun p => (s.dram.frameLoc p.1).1 == chan && (s.dram.frameLoc p.1).2.1 == b2n rank)

/-- A tile whose cache slot lies on a withdrawn rank: a clean copy returns to LOWER, a DIRTY one is POISONED, an eviction under way ends
(R244, R294). -/
def State.withdrawTile (s : State) (ctx seg tile : Nat) : State :=
  match s.tile ctx seg tile with
  | none => s
  | some t =>
    if t.dirty then (s.modTile ctx seg tile (fun x => { x with st := .poisoned })).lostTile ctx seg tile
    else
      let u : State := { s with tier := { s.tier with promos := s.tier.promos.filter (fun p => p != (ctx, seg, tile)) } }
      u.leave ctx seg tile t

/-- Gives a DRAM segment that lost its frame another one of its context's partition. A frame whose quad is down is taken once the quad is up (R299);
without a free frame the segment keeps none (R294). -/
def State.placeSeg (s : State) (ctx seg : Nat) : State :=
  match s.findFrame ctx false with
  | .ok n => ({ s with tier := { s.tier with unplaced := s.tier.unplaced.filter (· != (ctx, seg)) } }.setFrame n (.segment ctx seg)).modSeg ctx seg
      (fun x => { x with handle := n, noFrame := false })
  | .wait => { s with tier := { s.tier with unplaced := (ctx, seg) :: s.tier.unplaced.filter (· != (ctx, seg)) } }
  | .full => { s with tier := { s.tier with unplaced := s.tier.unplaced.filter (· != (ctx, seg)) } }

/-- Moves a DRAM segment off a withdrawn rank, with every tile POISONED (R294). -/
def State.withdrawSeg (s : State) (f ctx seg : Nat) : State :=
  let all := List.range 32
  let t := all.foldl (fun (u : State) k => u.lostTile ctx seg k) s
  ((t.freeFrame f).modSeg ctx seg (fun x => { x with noFrame := true, poison := all })).placeSeg ctx seg

/-- Moves a segment that is still being mapped off a withdrawn rank: its new frame is zeroed in place of the old one (R241, R294). -/
def State.withdrawNew (s : State) (f ctx seg : Nat) : State :=
  let t := s.freeFrame f
  match t.findFrame ctx false with
  | .ok n => (({ t with dram := t.dram.zeroFrame n 0 frameBytes } : State).setFrame n (.zeroing (some (ctx, seg)))).modSeg ctx seg (fun x => { x with handle := n })
  | _ => (t.modSeg ctx seg (fun x => { x with noFrame := true, poison := List.range 32 })).placeSeg ctx seg

/-- A charged frame of a withdrawn rank is given up for another, and the image tiles in it are lost (R244, R294; notes/assumptions/29.md). What else lies
there is the tile's own tables, which the model keeps apart from the frames. -/
def State.withdrawCharged (s : State) (f ctx : Nat) : State :=
  let here := (s.imagePlaces ctx).filter (fun x => x / 32 == f)
  let t := here.foldl (fun (u : State) x => ((u.imageAt ctx x).map (fun p => u.loseImage ctx p.1 p.2)).getD u) s
  match t.findFrame ctx false with
  | .ok n =>
    ((t.freeFrame f).setFrame n (.charged ctx)).modCtx ctx (fun c => { c with copies := c.copies.map (fun p =>
      (p.1, { p.2 with places := p.2.places.map (fun x => if x / 32 = f then n * 32 + x % 32 else x) })) })
  | _ => t

/-- What a withdrawn rank does to one frame that was allocated on it (R294). -/
def State.withdrawFrame (s : State) (f : Nat × FrameUse) : State :=
  match f.2 with
  | .cache c _ slots => slots.foldl (fun (t : State) q => t.withdrawTile c q.2.1 q.2.2) s
  | .segment c g => s.withdrawSeg f.1 c g
  | .zeroing (some (c, g)) => s.withdrawNew f.1 c g
  | .zeroing none => s.freeFrame f.1
  | .charged c => s.withdrawCharged f.1 c
  | _ => s

/-- Withdraws a rank without a spare (R294). A READY spare that is withdrawn can serve no more; its group then shows IN_USE
(notes/assumptions/29.md). -/
def State.withdrawRank (s : State) (chan : Nat) (rank : Bool) : State :=
  let mark (c : DramChan) : DramChan := if rank then { c with retired1 := true } else { c with retired0 := true }
  let d := s.dram.setChan chan mark
  let t : State := { s with
    dram := if d.isSpare chan rank then d.setGroup (chan / 4) (fun g => { g with spareState := if g.spareState = 0 then 3 else g.spareState }) else d,
    nv := { s.nv with withdrawnRanks := (chan, rank) :: s.nv.withdrawnRanks } }
  ((s.framesOn chan rank).foldl State.withdrawFrame t).logPf (retireLog chan rank 2)

/-- Whether a training slice runs in any group (R295). -/
def Dram.sliceRuns (d : Dram) : Bool := d.chans.any (fun c => c.training.any (fun t => t.inSlice))

/-- The next lower set point that is usable (R268, R289). -/
def Dram.lower (d : Dram) (p : BitVec 2) : Option (BitVec 2) :=
  ((([0, 1, 2] : List Nat).filter (fun i => decide (p.toNat < i))).find? (fun i => d.fspOk.toNat.testBit i)).map (BitVec.ofNat 2)

/-- The set point that the tile is to run at: the highest one that the configuration and boot training allow, and while a DRAM die is too hot no
faster than one step below the one it was at (R267, R464). -/
def State.wantedPoint (s : State) : BitVec 2 :=
  let top := s.dram.allowed (s.param 0x0201 0)
  match s.power.derated with
  | some p => if ((s.dram.lower p).getD p).toNat < top.toNat then top else (s.dram.lower p).getD p
  | none => top

/-- Begins a change of set point when one is wanted, none is under way and no slice runs (R295). -/
def State.settlePoint (s : State) : State :=
  if s.dram.change.isSome ∨ s.dram.speed = s.wantedPoint ∨ s.dram.sliceRuns then s
  else { s with dram := s.dram.switchFrom s.wantedPoint 0 }

/-- The first channel of a group that is due, in ascending order (R286). -/
def Dram.dueChan (d : Dram) (g : Nat) : Option Nat := ((List.range 4).map (· + 4 * g)).find? (fun c => (d.chan c).due && (d.chan c).state == 0)

/-- Starts the retraining of a group's first due channel when the group is free (R286). -/
def State.trainNext (s : State) (g : Nat) : State :=
  if (s.dram.group g).serviceBusy then s
  else match s.dram.dueChan g with
    | none => s
    | some c =>
      let d := s.dram.setChan c (fun x =>
        { x with due := false, state := 1, training := some { slices := 0, inSlice := false, second := false } })
      { s with dram := d.setGroup g (fun y => { y with serviceBusy := true, serviceCh := BitVec.ofNat 2 (c % 4) }) }

/-- A service procedure of a group has ended: a retirement that waited for it goes on, else the next due channel is trained. -/
def State.groupFree (s : State) (g : Nat) : State :=
  ((({ s with dram := s.dram.setGroup g (fun y => { y with serviceBusy := false }) } : State).retireStep g).trainNext g)

/-- A request through DRAM_TRAIN_CTL (R302). -/
def State.trainRequest (s : State) (chan : Nat) : State :=
  let c := s.dram.chan chan
  if c.state = 3 ∨ c.due ∨ c.training.isSome then s.dramEvent 8
  else ({ s with dram := s.dram.setChan chan (fun x => { x with due := true }) } : State).trainNext (chan / 4)

/-- A request through DRAM_SPARE_CTL (R302). -/
def State.retireRequest (s : State) (chan : Nat) (rank : Bool) : State :=
  if (s.dram.group (chan / 4)).spareState ≠ 0 ∨ s.dram.isSpare chan rank ∨ s.dram.isRetired chan rank then s.dramEvent 8
  else s.retireStart chan rank

end Sys2Proof.Machine
end

