-- ==== Sys2Proof/Machine/FlashRows.lean ====
section
/-!
DEFINITION. Machine/FlashRows.lean: die sequencers (R307), page programs and refusals (R308 to R310), reads and their ladder (R312 to R314),
read-level calibration (R315, R316), relocation, wear and spares (R318 to R320), checkpoints (R322).
-/
namespace Sys2Proof.Machine

/-- What the flash rows may change. -/
def State.flashRow (s r : State) : State := { s with flash := r.flash, nv := s.nv.modelsOf r.nv, ctxs := r.ctxs, funcs := r.funcs, fw := r.fw, pf := r.pf }

/-- Whether F3 runs its tasks. -/
def State.f3Runs (s : State) : Bool := s.running && !s.coreOut 3

/-- Whether an address names a page (R304). -/
def pageOk (a : Nat) : Bool := decide (a < 2 ^ 27) && decide (paBlock a < blocksPerPlane)

/-- Acts on a fall of the spare count: states never go back while the tile runs (R320). `before` is the count before the change. -/
def State.settleSpares (s : State) (before : Nat) : State :=
  let n := s.flash.spares
  let st := if s.flash.state.toNat < (spareState n).toNat then spareState n else s.flash.state
  let t : State := { s with flash := { s.flash with state := st } }
  let t := if n < 1024 ∧ 1024 ≤ before then t.flashEvent 0 else t
  let t := if s.flash.state = 0 ∧ st ≠ 0 then t.flashEvent 1 else t
  if s.flash.state ≠ 2 ∧ st = 2 then t.flashEvent 2 else t

/-- Retires a block that failed (R310, R320). -/
def State.retireBlock (s : State) (b : Nat) : State :=
  (({ s with flash := s.flash.retire b } : State).flashEvent 4).settleSpares s.flash.spares

/-- Whether new pulses may start: no brown-out warning, no thermal pause (R323, R464). -/
def Flash.pulses (f : Flash) : Bool := !f.blocked && !f.paused

/- Reads. -/

/-- Whether a pulse runs on a die. -/
def Die.pulsing (d : Die) : Bool := d.ops.any (fun p => p.2.pulsing)

/-- Whether a read is being sensed on a plane of a die. -/
def Die.senses (d : Die) (plane : Nat) : Bool := d.sensing.any (fun r => paPlane r.addr == plane)

/-- A read is sensed: it counts for its block and, an upper page, for its die, whose every 64th is probed (R316, R318). -/
def Flash.sense (f : Flash) (r : FlashRead) : Flash :=
  let b := paBlockId r.addr
  let upper := paPage r.addr % 2 = 1
  let n := (f.die (paDie r.addr)).upperReads + 1
  (f.setBlock b { f.block b with reads := (f.block b).reads + 1 }).modDie (paDie r.addr) (fun d =>
    { d with sensing := d.sensing ++ [{ r with probe := decide (upper ∧ n % 64 = 0) }], upperReads := if upper then n else d.upperReads })

/-- While no pulse runs, the oldest read that waits on each plane which senses none is sensed (R307). -/
def Flash.senseWaiting (f : Flash) (die : Nat) : Flash :=
  (f.die die).waiting.foldl (fun (g : Flash) r =>
    if (g.die die).pulsing || (g.die die).senses (paPlane r.addr) then g
    else (g.modDie die (fun d => { d with waiting := d.waiting.erase r })).sense r) f

/-- A page read reaches its die: it waits for the pulses under way, and for an older read of its plane; else it is sensed (R307). -/
def Flash.readIssue (f : Flash) (a tag : Nat) : Flash :=
  let r : FlashRead := { addr := a, tag := tag, ladder := 0, left := List.range 8, probe := false, many := false }
  (f.modDie (paDie a) (fun x => { x with waiting := x.waiting ++ [r] })).senseWaiting (paDie a)

def execFlashReadIssue (die page tag : Nat) (s : State) : Result :=
  if 64 ≤ die ∨ paDie page ≠ die ∨ !pageOk page then .fault .absentFlash
  else if s.running then .next { s with flash := s.flash.readIssue page tag } else .next s

/-- Once no read is served, the suspended operations go on (R307). -/
def Flash.resume (f : Flash) (die : Nat) : Flash :=
  f.modDie die (fun d => if d.sensing.isEmpty && d.waiting.isEmpty && f.pulses then
    { d with ops := d.ops.map (fun p => (p.1, { p.2 with pulsing := true })) } else d)

/-- A pulse ends: the operation is suspended for the reads that wait, up to 8 times, or held back, or goes on (R307, R323, R464). -/
def Flash.pulseEnd (f : Flash) (die plane : Nat) : Flash :=
  match f.op die plane with
  | none => f
  | some o =>
    if !o.pulsing then f
    else
      let reads := !(f.die die).waiting.isEmpty && decide (o.suspends < 8)
      if reads || !f.pulses then
        (f.modDie die (fun d => { d with ops := d.ops.set plane { o with pulsing := false, suspends := o.suspends + b2n reads } })).senseWaiting die
      else f

def execFlashPulseEnd (die plane : Nat) (s : State) : Result :=
  if 64 ≤ die ∨ 8 ≤ plane then .fault .absentFlash
  else if s.running then .next { s with flash := s.flash.pulseEnd die plane } else .next s

/- Codewords. -/

/-- A bit of codeword c of a page: 2 KiB of data, then 256 bytes of parity (R312; notes/assumptions/40.md). -/
def Flash.cwBit (f : Flash) (a c i : Nat) : Bool :=
  let data := f.cells.readN (a * pageBytes + c * 2048) 2048
  (((if i < 16384 then data else fixLen 256 (Config.ldpcParity data)).getD (i % 16384 / 8) 0#8)).getLsbD (i % 8)

/-- The level and retention bin whose statistics a read adds to (R315, R316). -/
def Flash.statKey (f : Flash) (a level : Nat) : Nat := (paDie a * 8 + f.bin (paBlockId a)) * 3 + level

/-- Adds one codeword to the statistics of a level: the bits of `errs` corrected from 0 to 1 and from 1 to 0 (R316). -/
def Flash.addStat (f : Flash) (a c level : Nat) (errs : List Nat) : Flash :=
  let k := f.statKey a level
  let x := f.stats.getD k { words := 0, up := 0, dn := 0 }
  let up := (errs.filter (f.cwBit a c)).length
  { f with stats := f.stats.set k { words := x.words + 1, up := x.up + up, dn := x.dn + (errs.length - up) } }

/-- The statistics of a decoded codeword (R316): a lower page charges L2; a probed upper page charges L1 where the bit of the lower page is 1, and L3
where it is 0. -/
def Flash.charge (f : Flash) (r : FlashRead) (c : Nat) (errs : List Nat) : Flash :=
  if paPage r.addr % 2 = 0 then f.addStat r.addr c 1 errs
  else if !r.probe then f
  else
    let low := r.addr - 131072
    (f.addStat r.addr c 0 (errs.filter (f.cwBit low c))).addStat r.addr c 2 (errs.filter (fun i => !f.cwBit low c i))

/-- Errors that a decode of a ladder step corrects in a codeword (R312, R313). -/
def ladderBound (step : Nat) : Nat := if step = 9 then 220 else 96

/-- A sense is decoded, codeword by codeword (R312): the statistics, and the read with the codewords that are left. -/
def Flash.decodeStep (f : Flash) (r : FlashRead) (flips : List (List Nat)) : Flash × FlashRead :=
  let good := r.left.filter (fun c => decide ((flips.getD c []).length ≤ ladderBound r.ladder))
  (good.foldl (fun (g : Flash) c => g.charge r c (flips.getD c [])) f,
    { r with left := r.left.filter (fun c => !good.contains c), many := r.many || good.any (fun c => decide (72 < (flips.getD c []).length)) })

/-- Answers a read, and takes it off its die (R307). -/
def Flash.answerRead (f : Flash) (die : Nat) (r : FlashRead) (b : Option Bytes) : Flash :=
  let g := f.modDie die (fun d => { d with sensing := d.sensing.filter (fun x => paPlane x.addr != paPlane r.addr) })
  (({ g with answers := g.answers ++ [(r.tag, b)] } : Flash).senseWaiting die).resume die

/-- A page decodes; one with more than 72 corrections in a codeword or that needed a retry is queued for relocation (R314). -/
def Flash.decoded (f : Flash) (die : Nat) (r : FlashRead) : Flash :=
  let b := paBlockId r.addr
  let g := if r.many || r.ladder != 0 then f.setBlock b { f.block b with relocate := true } else f
  g.answerRead die r (some (g.readPage r.addr))

/-- A read goes to a step of the ladder (R313). -/
def Flash.setRead (f : Flash) (die : Nat) (r : FlashRead) : Flash :=
  f.modDie die (fun d => { d with sensing := d.sensing.map (fun x => if paPlane x.addr = paPlane r.addr then r else x) })

/-- The first sense of a read has been hard-decoded (R312, R313, R316). -/
def Flash.readDone (f : Flash) (die plane : Nat) (flips : List (List Nat)) : Flash :=
  match (f.die die).sensing.find? (fun r => paPlane r.addr == plane && r.ladder == 0) with
  | none => f
  | some r =>
    let x := f.decodeStep r flips
    if x.2.left.isEmpty then x.1.decoded die x.2 else x.1.setRead die { x.2 with ladder := 2 }

def execFlashReadDone (die plane : Nat) (flips : List (List Nat)) (s : State) : Result :=
  if 64 ≤ die ∨ 8 ≤ plane then .fault .absentFlash
  else if s.running then .next { s with flash := s.flash.readDone die plane flips } else .next s

/-- The model object to which a logical page belongs (R314). -/
def State.modelOf (s : State) (l : Nat) : Option Nat := (s.nv.models.find? (fun m => m.2.units.contains (l / 128))).map (·.1)

/-- Codewords of logical pages are uncorrectable (R314): they are counted, a model object is DAMAGED, and the tile of a spill page is lost when it is
next read. A page of the firmware, of the configuration or of the journal has its other copy or an earlier checkpoint. -/
def State.lostPages (s : State) (ls : List Nat) (words : Nat) : State :=
  if words = 0 then s
  else
    let f : Flash := { s.flash.lose ls with ueCnt := satPlus s.flash.ueCnt words }
    (ls.filterMap s.modelOf).foldl (fun (t : State) id => t.damageModel id) (({ s with flash := f } : State).flashEvent 5)

/-- Logical pages that a page holds. -/
def Flash.lpagesAt (f : Flash) (a : Nat) : List Nat := (f.map.filter (fun p => p.2 == a)).map (·.1)

/-- A retry sense or the soft sense has been decoded (R313, R314). -/
def State.retryDone (s : State) (die plane : Nat) (flips : List (List Nat)) : State :=
  match (s.flash.die die).sensing.find? (fun r => paPlane r.addr == plane && r.ladder != 0) with
  | none => s
  | some r =>
    let f : Flash := if r.ladder = 9 then { s.flash with softCnt := satUp s.flash.softCnt } else { s.flash with retryCnt := satUp s.flash.retryCnt }
    let x := f.decodeStep r flips
    if x.2.left.isEmpty then { s with flash := x.1.decoded die x.2 }
    else if r.ladder = 9 then
      ({ s with flash := x.1.answerRead die r none } : State).lostPages (s.flash.lpagesAt r.addr) x.2.left.length
    else { s with flash := x.1.setRead die { x.2 with ladder := r.ladder + 1 } }

def execFlashRetrySenseDone (die plane : Nat) (flips : List (List Nat)) (s : State) : Result :=
  if 64 ≤ die ∨ 8 ≤ plane then .fault .absentFlash
  else if s.running then .next (s.flashRow (s.retryDone die plane flips)) else .next s

/-- The statistics of a die, level and bin are full: the offset may move one step, and the counts restart (R315, R316). -/
def Flash.calibrate (f : Flash) (die level bin : Nat) : Flash :=
  let k := (die * 8 + bin) * 3 + level
  let c := f.stats.getD k { words := 0, up := 0, dn := 0 }
  if c.words < 4096 then f
  else
    let g : Flash := { f with stats := f.stats.erase k }
    let diff := if c.up < c.dn then c.dn - c.up else c.up - c.dn
    let o := f.offsets.getD k 0
    let n : Int := if c.dn < c.up then min 31 (o + 1) else max (-31) (o - 1)
    if c.up + c.dn < 256 ∨ diff * 8 ≤ c.up + c.dn ∨ n = o then g
    else ({ g with offsets := g.offsets.set k n } : Flash).modDie die (fun d => { d with shiftCnt := satUp d.shiftCnt })

def execCalStatisticsFull (die level bin : Nat) (s : State) : Result :=
  if 64 ≤ die then .fault .absentFlash
  else if s.f3Runs ∧ level < 3 ∧ bin < 8 then .next { s with flash := s.flash.calibrate die level bin } else .next s

/- Programs. -/

/-- The writer that a program's blocks belong to (R311). -/
def writerOf : Programmer → FlashWriter
  | .install => .install
  | .modelCopy => .relocation
  | .spillCopy => .relocation
  | .demotion => .spill
  | .system => .system

/-- Starts an operation on a plane; it waits suspended while reads are served (R307). -/
def Flash.startOp (f : Flash) (die plane : Nat) (w : DieWork) : Flash :=
  f.modDie die (fun d =>
    { d with ops := d.ops.set plane { work := w, pulsing := d.sensing.isEmpty && d.waiting.isEmpty, suspends := 0 } })

/-- The plane, and the block of it, that takes data which must be programmed elsewhere: the plane it was meant for, else the next in number, where no
operation runs and a block other than the one to shun is free (R309, R310). -/
def Flash.placeFor (f : Flash) (o : OwedPage) : Option (Nat × Nat) :=
  (List.range 512).findSome? (fun i =>
    let p := (o.plane + i) % 512
    if (f.op (p / 8) (p % 8)).isSome then none
    else ((f.pick o.writer (p / 8) (p % 8)).filter (fun b => b != o.shun)).map (fun b => (p, b)))

/-- Programs that were refused or failed are made again, while pulses may start (R309, R310, R323). -/
def Flash.startOwed (f : Flash) : Flash :=
  if !f.pulses then f
  else f.owed.foldl (fun (g : Flash) o =>
    match g.placeFor o with
    | none => g
    | some (p, b) =>
      let a := blockPage b (g.block b).pages
      ({ g.taken b o.writer with owed := g.owed.erase o } : Flash).startOp (p / 8) (p % 8) (.program a o.writer o.data)) f

/-- Data goes back to its requester, which programs it again elsewhere (R309, R310). -/
def State.programAgain (s : State) (a : Nat) (w : FlashWriter) (data : Bytes) : State :=
  let o : OwedPage := { writer := w, plane := paDie a * 8 + paPlane a, shun := paBlockId a, data := data }
  ({ s with flash := ({ s.flash with owed := s.flash.owed ++ [o] } : Flash).startOwed } : State).settleSpares s.flash.spares

/-- A program is refused before any pulse (R309). -/
def State.refuseProgram (s : State) (a : Nat) (w : FlashWriter) (data : Bytes) : State :=
  let b := paBlockId a
  let x := s.flash.block b
  let f := if x.state = .opened then s.flash.setBlock b { x with state := .closed, closedAt := s.flash.clock } else s.flash
  ((({ s with flash := { f with refused := satUp f.refused } } : State).flashEvent 3).logPf (mkLog 0x0011 [(0, a + 2 ^ 31)])).programAgain a w data

/-- Whether a WORN array still takes a program: only relocations of model data, and the fixed blocks, which are no spares (R320;
notes/assumptions/40.md). -/
def State.mayProgram (s : State) (who : Programmer) : Bool := !s.worn || who == .modelCopy || who == .system

/-- A program starts, or is refused (R308, R309, R320). -/
def State.programIssue (s : State) (a : Nat) (who : Programmer) (data : Bytes) : State :=
  if !s.mayProgram who then s
  else if !s.flash.accepts a then s.refuseProgram a (writerOf who) data
  else if (s.flash.op (paDie a) (paPlane a)).isNone && s.flash.pulses then
    ({ s with flash := (s.flash.taken (paBlockId a) (writerOf who)).startOp (paDie a) (paPlane a) (.program a (writerOf who) data) } : State).settleSpares
      s.flash.spares
  else s

def execFlashProgramIssue (page : Nat) (who : Programmer) (data : Bytes) (s : State) : Result :=
  if !pageOk page then .fault .absentFlash
  else if s.running then .next (s.flashRow (s.programIssue page who data)) else .next s

/-- An operation of a plane has ended; reads that waited for it are sensed, and programs that are owed go on (R307, R310). -/
def Flash.opEnd (f : Flash) (die plane : Nat) : Flash :=
  ((f.modDie die (fun d => { d with ops := d.ops.erase plane })).senseWaiting die).startOwed

/-- Pulses may start again: every suspended operation goes on, and programs that are owed are made (R307, R310, R464). -/
def Flash.resumeAll (f : Flash) : Flash := (f.dies.foldl (fun (g : Flash) d => g.resume d.1) f).startOwed

/-- A program ends. One that failed retires its block, and its data is programmed elsewhere (R310). -/
def State.programDone (s : State) (die plane : Nat) (passes : Bool) : State :=
  match s.flash.op die plane with
  | some { work := .program a w data, pulsing := true, .. } =>
    if passes then ({ s with flash := (s.flash.place a data).opEnd die plane } : State).settleSpares s.flash.spares
    else
      let f : Flash := { s.flash.modDie die (fun d => { d with ops := d.ops.erase plane }) with progFail := satUp s.flash.progFail }
      let t := (({ s with flash := f } : State).retireBlock (paBlockId a)).programAgain a w data
      { t with flash := t.flash.senseWaiting die }
  | _ => s

def execFlashProgramDone (die plane : Nat) (passes : Bool) (s : State) : Result :=
  if 64 ≤ die ∨ 8 ≤ plane then .fault .absentFlash
  else if s.running then .next (s.flashRow (s.programDone die plane passes)) else .next s

/- Erases. -/

/-- Whether a read in flight names a block (R318). -/
def Flash.blockRead (f : Flash) (b : Nat) : Bool :=
  let d := f.die (blockIdDie b)
  (d.waiting ++ d.sensing).any (fun r => paBlockId r.addr == b)

/-- Whether an erase of a block may start: it is queued and holds no valid page, no read names it, its plane is idle, its die serves no read and runs no
other erase, and pulses may start (R307, R318, R319, R323). -/
def Flash.mayErase (f : Flash) (b : Nat) : Bool :=
  let d := f.die (blockIdDie b)
  f.eraseQueue.contains b && f.managed b && (f.validPages b).isEmpty && !f.blockRead b && (f.op (blockIdDie b) (blockIdPlane b)).isNone &&
    !d.ops.any (fun p => p.2.work.isErase) && d.sensing.isEmpty && d.waiting.isEmpty && f.pulses && (f.block b).state != .retired

/-- A background erase starts; the journal notes that it has begun (R307, R325). -/
def Flash.eraseIssue (f : Flash) (b : Nat) : Flash :=
  if f.mayErase b then
    ({ f.setBlock b { f.block b with state := .erasing } with records := f.records ++ [.eraseBegin b] } : Flash).startOp (blockIdDie b) (blockIdPlane b)
      (.erase b)
  else f

def execFlashEraseIssue (block : Nat) (s : State) : Result :=
  if allBlocks ≤ block then .fault .absentFlash
  else if s.f3Runs then .next { s with flash := s.flash.eraseIssue block } else .next s

/-- An erase ends. One that failed retires its block (R310). The mean erase count that reaches 3,000 sets WEAR_RATED (R319). -/
def State.eraseDone (s : State) (die plane : Nat) (passes : Bool) : State :=
  match s.flash.op die plane with
  | some { work := .erase b, pulsing := true, .. } =>
    let f : Flash := { s.flash with records := s.flash.records ++ [.eraseEnd b] }
    if passes then
      let t : State := { s with flash := (f.erased b).opEnd die plane }
      let u := t.settleSpares s.flash.spares
      if s.flash.meanPe < 3000 ∧ 3000 ≤ t.flash.meanPe then u.flashEvent 6 else u
    else
      let g : Flash := { f with eraseFail := satUp f.eraseFail, eraseQueue := f.eraseQueue.filter (· != b) }
      let t := ({ s with flash := g } : State).retireBlock b
      ({ t with flash := t.flash.opEnd die plane } : State).settleSpares t.flash.spares
  | _ => s

def execFlashEraseDone (die plane : Nat) (passes : Bool) (s : State) : Result :=
  if 64 ≤ die ∨ 8 ≤ plane then .fault .absentFlash
  else if s.running then .next (s.flashRow (s.eraseDone die plane passes)) else .next s

/- Relocation. -/

/-- Whether F3 may program the pages of a block elsewhere: pulses may start, and a WORN array takes model data only (R320, R323, R464). -/
def State.mayMove (s : State) (b : Nat) : Bool := s.flash.pulses && !(s.worn && (s.flash.validPages b).any (fun p => isSpill p.1))

/-- Whether the stored tile to which a logical page of the model partition belongs matches its digest (R318). -/
def State.pageTileOk (s : State) (l : Nat) : Bool :=
  match s.nv.models.find? (fun m => m.2.units.contains (l / 128)) with
  | none => true
  | some (_, m) =>
    let k := m.units.idxOf (l / 128) * 32 + l % 128 / 4
    crc64 (s.flash.readPages (l / 4 * 4) 4) == ((m.tiles[k]?).map (·.digest)).getD 0

/-- Moves the valid pages of a block to another (R318): a page with a codeword that fails the ladder, or whose tile fails its digest, is not copied, and is
lost (R314). `bad` lists codewords as (page of the block, codeword). -/
def State.moveBlock (s : State) (b into : Nat) (bad : List (Nat × Nat)) : State :=
  let pages := s.flash.validPages b
  let words := (bad.dedup).filter (fun w => pages.any (fun p => paPage p.2 == w.1) && decide (w.2 < 8))
  let dies (p : Nat × Nat) : Bool := words.any (fun w => w.1 == paPage p.2)
  let gone := pages.filter (fun p => dies p || !s.pageTileOk p.1)
  let t := s.lostPages ((pages.filter dies).map (·.1)) words.length
  let u := (gone.filterMap (fun p => t.modelOf p.1)).foldl (fun (v : State) id => v.damageModel id) t
  let f := gone.foldl (fun (g : Flash) p => (g.setMap p.1 none).lose [p.1]) u.flash
  ({ u with flash := f.moveInto b into (pages.filter (fun p => !gone.contains p)) } : State).settleSpares s.flash.spares

/-- Moves the valid pages of a block to a new one when there is room (R318). -/
def State.relocateBlock (s : State) (b : Nat) (bad : List (Nat × Nat)) : State :=
  if (s.flash.validPages b).isEmpty then s.moveBlock b b bad
  else match s.flash.target b with
    | some n => s.moveBlock b n bad
    | none => s

def execRelocation (block : Nat) (bad : List (Nat × Nat)) (s : State) : Result :=
  if allBlocks ≤ block then .fault .absentFlash
  else
    let x := s.flash.block block
    if s.f3Runs ∧ s.mayMove block ∧ (x.relocate ∨ 2 ^ 27 ≤ x.reads) then .next (s.flashRow (s.relocateBlock block bad)) else .next s

/-- The CLOSED spill block of a plane with the fewest valid pages (R319). A block that a relocation of spill pages wrote is a spill block too. -/
def Flash.emptiest (f : Flash) (die plane : Nat) : Option Nat :=
  ((f.planeBlocks die plane).filter (fun b => (f.block b).state == .closed && (f.block b).writer == .spill)).foldl
    (fun (acc : Option Nat) b => match acc with
      | none => some b
      | some c => if (f.validPages b).length < (f.validPages c).length then some b else some c) none

def execGarbageCollection (die plane : Nat) (bad : List (Nat × Nat)) (s : State) : Result :=
  if 64 ≤ die ∨ 8 ≤ plane then .fault .absentFlash
  else if s.f3Runs ∧ ((s.flash.planeBlocks die plane).filter (fun b => (s.flash.block b).state == .erased)).length < 2 then
    match s.flash.emptiest die plane with
    | some b => if s.mayMove b then .next (s.flashRow (s.relocateBlock b bad)) else .next s
    | none => .next s
  else .next s

/-- The managed block with the lowest erase count, when data lies in one that has it, and the free block with the highest (R319). -/
def Flash.leastWorn (f : Flash) : Option Nat :=
  (f.blocks.map (·.1)).find? (fun b =>
    f.managed b && (f.block b).state == .closed && (f.block b).erases == f.minPe && !(f.validPages b).isEmpty)

def Flash.mostWornFree (f : Flash) : Option Nat :=
  ((f.blocks.map (·.1)).filter (fun b => f.managed b && (f.block b).state == .erased)).foldl
    (fun (acc : Option Nat) b => match acc with
      | none => some b
      | some c => if (f.block c).erases < (f.block b).erases then some b else some c) none

def execStaticWearLevelling (bad : List (Nat × Nat)) (s : State) : Result :=
  match s.flash.leastWorn, s.flash.mostWornFree with
  | some b, some n =>
    if s.f3Runs ∧ s.mayMove b ∧ s.flash.minPe + 256 < s.flash.maxPe then .next (s.flashRow (s.moveBlock b n bad)) else .next s
  | _, _ => .next s

/-- A checkpoint of the flash map, with the read-level offsets (R315, R322, R323). -/
def execJournalCheckpoint (s : State) : Result :=
  if s.f3Runs ∧ 4096 ≤ s.flash.records.length ∧ s.flash.pulses then .next { s with flash := s.flash.save } else .next s

end Sys2Proof.Machine
end

