-- ==== Sys2Proof/Machine/PowerRows.lean ====
section
/-!
DEFINITION. Machine/PowerRows.lean: the governor (R463 to R465), telemetry (R454, R455), droop holds (R456), thermal limits of the other dies
(R464), gating of cores (R459, R462).
-/
namespace Sys2Proof.Machine

/-- The power limit in force, in mW (R463, R475). -/
def State.capMw (s : State) : Nat := min (s.param 0x0701 0) (max 10000 s.power.capMw.toNat)

/-- Whether the governor acts (R458). -/
def State.governs (s : State) : Bool := s.running

/-- The highest VCORE that the configuration allows, in 5 mV units (R463). -/
def State.vcoreMax (s : State) : Nat := s.param 0x0703 0 / 5

/-- 0.65 V in 5 mV units. -/
def vcoreLow : Nat := 130

/-- Requests a VCORE (R455). -/
def State.setVcore (s : State) (v : Nat) : State :=
  if s.power.vcore.toNat = v then s else { s with power := { s.power with vcore := BitVec.ofNat 8 v }, out := s.out ++ [.vid v] }

def State.modPower (s : State) (f : Power → Power) : State := { s with power := f s.power }

/-- Removes one action from the top of the governor's list (R463). -/
def State.throttleDown (s : State) : State :=
  if vcoreLow < s.power.vcore.toNat then s.setVcore (max vcoreLow (s.power.vcore.toNat - 2))
  else s.modPower (fun p => { p with pacing := p.pacing + 1 })

/-- Restores one action (R463). -/
def State.throttleUp (s : State) : State :=
  if s.power.pacing ≠ 0 then s.modPower (fun p => { p with pacing := p.pacing - 1 })
  else s.setVcore (min s.vcoreMax (s.power.vcore.toNat + 2))

/-- The limiter that PWR_STATUS shows while no limit is exceeded. -/
def State.settleLimiter (s : State) : State :=
  if s.power.pacing = 0 ∧ s.vcoreMax ≤ s.power.vcore.toNat then s.modPower (fun p => { p with limiter := 3 }) else s

/-- A governor period (R463). -/
def State.govern (s : State) (power : Nat) (tj : Int) : State :=
  let t := s.modPower (fun p => { p with power := BitVec.ofNat 14 (min (power / 10) (2 ^ 14 - 1)), tjMax := BitVec.ofInt 8 tj })
  let cap := s.capMw
  let hot : Int := s.param 0x0702 0
  if cap < power ∨ hot < tj then
    let u := t.throttleDown.modPower (fun p => { p with limiter := if cap < power then 1 else 2 })
    let u := if cap < power then u.pwrEvent 0 else u
    if hot < tj then u.pwrEvent 1 else u
  else if power * 100 ≤ cap * 95 ∧ tj * 100 ≤ hot * 95 then t.throttleUp.settleLimiter
  else t

/-- What the power rows may change. -/
def State.powerRow (s r : State) : State := { s with power := r.power, pf := r.pf, out := r.out }

def execGovernorTick (power : Nat) (tj : Int) (s : State) : Result :=
  if s.governs then .next (s.powerRow (s.govern power tj)) else .next s

/-- A 1 ms sample above 1.25 times the cap (R463). -/
def execPowerSurgeSample (power : Nat) (s : State) : Result :=
  if s.governs ∧ s.capMw * 5 < power * 4 then
    .next (s.powerRow (((s.setVcore (min s.power.vcore.toNat vcoreLow)).modPower (fun p => { p with limiter := 1 })).pwrEvent 0))
  else .next s

/-- The level of PWR_THROTTLE (R465). -/
def Power.level (p : Power) : BitVec 2 :=
  if p.pacing ≠ 0 ∨ p.derated.isSome then 3 else if p.vcore.toNat ≤ 140 then 2 else if p.limiter = 1 ∨ p.limiter = 2 then 1 else 0

def execThrottleUpdate (s : State) : Result :=
  if s.governs ∧ s.power.throttleAt.all (fun t => decide (t + 10000 ≤ s.boot.timer)) then
    .next { s with power := { s.power with throttle := s.power.level, throttleAt := some s.boot.timer } }
  else .next s

/-- The replica lines measure; the slowest is the tile's step time (R454). -/
def execStepTimeMeasure (times : List (BitVec 16)) (s : State) : Result :=
  if s.governs ∧ times.length = 12 then
    .next { s with power := { s.power with replicas := times, stepPs := times.foldl (fun m t => if m.toNat < t.toNat then t else m) 0 } }
  else .next s

def execRegulatorTelemetry (milliamps : Nat) (s : State) : Result :=
  if s.governs then .next { s with power := { s.power with current := milliamps } } else .next s

/-- Handshakes in a region hold their acknowledges (R456). -/
def execDroopHold (region : Nat) (s : State) : Result :=
  if s.governs ∧ region < 12 ∧ region ∉ s.power.holds then
    .next { (s.pwrEvent 2) with power := { s.power with holds := region :: s.power.holds, droopCnt := satUp s.power.droopCnt } }
  else .next s

def execDroopRelease (region : Nat) (s : State) : Result :=
  .next { s with power := { s.power with holds := s.power.holds.filter (· != region) } }

/-- A DRAM die above 95 °C lowers the set point one step (R295, R464). -/
def execDramThermalDerate (celsius : Int) (s : State) : Result :=
  if s.governs ∧ 95 < celsius then
    let p : Power := { s.power with
      dramMax := BitVec.ofInt 8 celsius, derated := some (s.power.derated.getD s.wantedPoint) }
    let t := (({ s with power := p } : State).pwrEvent 1).settlePoint
    .next { s with power := t.power, pf := t.pf, dram := t.dram }
  else .next s

/-- Every DRAM die below 90 °C restores it (R464). -/
def execDramThermalRestore (celsius : Int) (s : State) : Result :=
  if s.governs ∧ celsius < 90 then
    let t := ({ s with power := { s.power with dramMax := BitVec.ofInt 8 celsius, derated := none } } : State).settlePoint
    .next { s with power := t.power, dram := t.dram }
  else .next s

/-- A flash die above 90 °C pauses programs and erases (R464). -/
def execFlashThermalPause (celsius : Int) (s : State) : Result :=
  if s.governs ∧ 90 < celsius then
    let t := s.pwrEvent 1
    .next { s with power := { s.power with flashMax := BitVec.ofInt 8 celsius }, flash := { s.flash with paused := true }, pf := t.pf }
  else .next s

/-- They resume below 85 °C (R464). -/
def execFlashThermalResume (celsius : Int) (s : State) : Result :=
  if s.governs ∧ celsius < 85 then
    let f : Flash := { s.flash with paused := false }
    .next { s with power := { s.power with flashMax := BitVec.ofInt 8 celsius }, flash := f.resumeAll }
  else .next s

/-- Whether a step that is being dispatched or runs uses a physical core. -/
def State.coreUsed (s : State) (p : Nat) : Bool :=
  (s.carried p).any (fun c => s.steps.list.any (fun r => r.2.live && r.2.cores.contains c))

/-- Whether something waits for a physical core: a step that names the core it carries, or a switch to the spare core. -/
def State.coreNeeded (s : State) (p : Nat) : Bool :=
  (s.carried p).any (fun c => s.steps.list.any (fun r => r.2.stage == .waiting && r.2.cores.contains c)) ||
    (p == 8 && (s.sparing.wanted.isSome || s.sparing.busy.isSome))

/-- A core that has had no step dispatched for CORE_GATE_US is gated, and CS whenever it carries no logical core (R459). -/
def execCoreGate (pcore : Nat) (s : State) : Result :=
  let x := s.pcr pcore
  if s.running ∧ !s.coreOut 1 ∧ pcore < 9 ∧ x.dom = 0 ∧ !x.testing ∧ !s.coreUsed pcore ∧ !(pcore = 8 ∧ s.coreNeeded 8) ∧ s.sparing.busy = none ∧
      ((pcore = 8 ∧ s.carried 8 = none) ∨ x.lastUse + s.param 0x0704 0 ≤ s.boot.timer) then
    .next { s with pcores := s.pcores.modify pcore (fun y => { y with dom := 1 }) }
  else .next s

/-- Gating ends; an enable that was queued then takes effect (R462). -/
def execCoreGateDone (pcore : Nat) (s : State) : Result :=
  if s.running ∧ (s.pcr pcore).dom = 1 then
    .next { s with pcores := s.pcores.modify pcore (fun y =>
      { y with dom := if y.pendEn then 3 else 2, pendEn := false, gateCnt := satUp y.gateCnt }) }
  else .next s

/-- A dispatch that needs a gated core starts its ungating, or is queued behind a gating under way (R459, R462). -/
def execCoreUngate (pcore : Nat) (s : State) : Result :=
  let x := s.pcr pcore
  if s.running ∧ !s.coreOut 1 ∧ s.coreNeeded pcore ∧ x.dom = 2 then
    .next { s with pcores := s.pcores.modify pcore (fun y => { y with dom := 3 }) }
  else if s.running ∧ !s.coreOut 1 ∧ s.coreNeeded pcore ∧ x.dom = 1 ∧ !x.pendEn then
    let t := s.pwrEvent 4
    .next { s with pcores := s.pcores.modify pcore (fun y => { y with pendEn := true }), pf := t.pf }
  else .next s

/-- Ungating ends: the core is on, and its non-resident rows are scrub-pending (R107, R459). -/
def execCoreUngateDone (pcore : Nat) (s : State) : Result :=
  if s.running ∧ (s.pcr pcore).dom = 3 then
    let t : State := { s with pcores := s.pcores.modify pcore (fun y => { y with dom := 0 }) }
    .next { s with pcores := (t.scrubOthers pcore).pcores }
  else .next s

end Sys2Proof.Machine
end

