-- ==== Sys2Proof/Machine/RopeOps.lean ====
section
/-!
DEFINITION. Machine/RopeOps.lean: stations, lanes, credits and flits of the Rope (R111 to R113, R29). One flit carries one message of
at most 256 bytes (notes/assumptions/31.md).
-/
namespace Sys2Proof.Machine

/-- Stations in ring order: the host interface, PC0 to PC3, the tier engine, PC4 to PC7, CS (R111). -/
def hostStation : Nat := 0
def tierStation : Nat := 5
def pcoreStation (p : Nat) : Nat := if p < 4 then p + 1 else if p < 8 then p + 2 else 10

/-- The physical core at a station. -/
def stationPcore (st : Nat) : Option Nat := (List.range 9).find? (fun p => pcoreStation p == st)

/-- The station of a logical core; a core without a carrier has none, and the host interface stands in for it. -/
def State.station (s : State) (core : Nat) : Nat := match s.carrier core with | some p => pcoreStation p | none => hostStation

/-- Whether the shorter way from one station to another ascends (R111). -/
def ascends (a b : Nat) : Bool := decide ((b + 11 - a) % 11 ≤ 5)

def nextStation (st : Nat) (asc : Bool) : Nat := if asc then (st + 1) % 11 else (st + 10) % 11

/-- Key of a lane and channel at a station. -/
def laneKey (st : Nat) (asc ringB : Bool) (c : Chan) : Nat := ((st * 2 + b2n asc) * 2 + b2n ringB) * 3 + chanCode c

/-- Logical cores that a message concerns. -/
def Msg.cores : Msg → List Nat
  | .peerWrite d _ _ f _ => [d, f]
  | .peerRead d _ _ f _ _ => [d, f]
  | .readData d _ _ _ => [d]
  | .ack d _ => [d]
  | .belay d _ _ => [d]
  | .digest d _ _ f _ => [d, f]
  | .contrib _ _ f _ _ _ => [f]
  | .result _ _ d _ _ _ _ => [d]
  | .report _ _ f => [f]
  | .done _ _ d => [d]
  | .stepDone _ f _ => [f]
  | .hostWrite f _ _ _ _ _ _ => [f]
  | .hostRead f _ _ _ _ _ => [f]

/-- Channel of a message (R112). -/
def Msg.chan : Msg → Chan
  | .peerWrite _ _ _ _ _ => .req
  | .peerRead _ _ _ _ _ _ => .req
  | .belay _ _ _ => .req
  | .digest _ _ _ _ _ => .req
  | .hostWrite _ _ _ _ _ _ _ => .req
  | .hostRead _ _ _ _ _ _ => .req
  | .readData _ _ _ _ => .rsp
  | .ack _ _ => .rsp
  | _ => .col

/-- The ring of a message: REQ on A, RSP on B, and COL on both, which the model deals by flit (R112; notes/assumptions/31.md). -/
def Msg.ringB : Msg → Bool
  | .readData _ _ _ _ => true
  | .ack _ _ => true
  | .contrib _ _ _ r _ _ => r % 2 == 1
  | .result _ _ _ _ r _ _ => r % 2 == 1
  | _ => false

/-- Adds a value at the end of the list that a key holds. -/
def AList.push {α : Type} (l : AList (List α)) (k : Nat) (x : α) : AList (List α) := AList.set l k (AList.getD l k [] ++ [x])

/-- Replaces the list that a key holds; an empty one is not listed. -/
def AList.put {α : Type} (l : AList (List α)) (k : Nat) (xs : List α) : AList (List α) :=
  if xs.isEmpty then AList.erase l k else AList.set l k xs

/-- Replaces the count that a key holds; zero is not listed. -/
def AList.count (l : AList Nat) (k n : Nat) : AList Nat := if n = 0 then AList.erase l k else AList.set l k n

def State.modRope (s : State) (f : Rope → Rope) : State := { s with rope := f s.rope }

/-- Records a message that has reached its destination and awaits its event. -/
def State.landMsg (s : State) (m : Msg) : State := s.modRope (fun r => { r with landed := r.landed ++ [m] })

/-- Queues a message at a station for injection. -/
def State.inject (s : State) (src dst : Nat) (m : Msg) : State :=
  let asc := ascends src dst
  s.modRope (fun r =>
    { r with inject := AList.push r.inject (laneKey src asc m.ringB m.chan)
               { src := src, dst := dst, chan := m.chan, ringB := m.ringB, asc := asc, msg := m } })

/-- The receive buffer of the lane that ends at a station. -/
def Rope.buf (r : Rope) (k : Nat) : List Flit := r.bufs.getD k []
def Rope.waiting (r : Rope) (k : Nat) : List Flit := r.inject.getD k []

/-- A flit leaves a receive buffer: its credit starts back to the station upstream (R112). -/
def Rope.leave (r : Rope) (st : Nat) (asc ringB : Bool) (c : Chan) : Rope :=
  let k := laneKey st asc ringB c
  let up := laneKey (nextStation st (!asc)) asc ringB c
  { r with bufs := AList.put r.bufs k ((r.buf k).drop 1), returning := AList.count r.returning up (r.returning.getD up 0 + 1) }

/-- A flit enters the receive buffer of the next station, which takes a credit. -/
def Rope.enter (r : Rope) (st : Nat) (f : Flit) : Rope :=
  let k := laneKey st f.asc f.ringB f.chan
  { r with bufs := AList.push r.bufs (laneKey (nextStation st f.asc) f.asc f.ringB f.chan) f,
           used := AList.count r.used k (r.used.getD k 0 + 1) }

/-- Whether a station holds a credit for a lane. -/
def Rope.credit (r : Rope) (k : Nat) (c : Chan) : Bool := decide (r.used.getD k 0 < chanDepth c)

/-- Takes every message of some cores off the Rope; the credits of the flits that were buffered start back (R148). -/
def Rope.purge (r : Rope) (cores : List Nat) : Rope :=
  let hit (m : Msg) : Bool := m.cores.any cores.contains
  let drop (l : AList (List Flit)) : AList (List Flit) :=
    (l.map (fun p => (p.1, p.2.filter (fun f => !hit f.msg)))).filter (fun p => !p.2.isEmpty)
  let gone := r.bufs.flatMap (fun p => (p.2.filter (fun f => hit f.msg)).map (fun f => (p.1 / 12, f)))
  { r with
    inject := drop r.inject, bufs := drop r.bufs, landed := r.landed.filter (fun m => !hit m)
    returning := gone.foldl (fun (l : AList Nat) (p : Nat × Flit) =>
      let up := laneKey (nextStation p.1 (!p.2.asc)) p.2.asc p.2.ringB p.2.chan
      AList.count l up (AList.getD l up 0 + 1)) r.returning }

/-- The first landed message that satisfies a test, and the Rope without it. -/
def Rope.takeLanded (r : Rope) (p : Msg → Bool) : Option (Msg × Rope) :=
  match r.landed.findIdx? p with
  | none => none
  | some i => (r.landed[i]?).map (fun m => (m, { r with landed := r.landed.eraseIdx i }))

/-- COLL_ID of a REDUCE (R88). -/
def Desc.collId (d : Desc) : Nat := d.fld 8 15 0

/-- The REDUCE of a collective that a core has in flight. -/
def State.reduceFlight (s : State) (core n coll : Nat) : Option InFlight :=
  (s.lc core).seqr.bind (fun q =>
    if q.step = n then q.inflight.find? (fun f => f.desc.kind == 6 && f.desc.collId == coll) else none)

/-- Whether a participant of a collective still awaits a flit (R120). -/
def State.slotOpen (s : State) (x : CollSlot) : Bool := x.members.any (fun c => (s.reduceFlight c x.step x.coll).all (fun f => f.acks != 0))

/-- The collector slots held: a collective's from its first contribution flit to its last delivery (R120). -/
def State.openSlots (s : State) : List CollSlot := s.coll.slots.filter s.slotOpen

/-- A grant at a station to one lane and channel: through traffic first, an injection at the sixteenth grant at the latest (R29, R112).
The flit that moves on, with whether it came from the station's own queue. -/
def Rope.grant (r : Rope) (st : Nat) (asc ringB : Bool) (c : Chan) (mayInject : Bool) : Option (Flit × Bool) :=
  let k := laneKey st asc ringB c
  let own := if mayInject then (r.waiting k).head? else none
  if !r.credit k c then none
  else match (r.buf k).head?, own with
    | some f, none => some (f, false)
    | some f, some g => if r.ages.getD k 0 < 15 then some (f, false) else some (g, true)
    | none, some g => some (g, true)
    | none, none => none

/-- Carries out a grant. -/
def Rope.move (r : Rope) (st : Nat) (asc ringB : Bool) (c : Chan) (f : Flit) (own : Bool) : Rope :=
  let k := laneKey st asc ringB c
  if own then
    ({ r with inject := AList.put r.inject k ((r.waiting k).drop 1), ages := AList.erase r.ages k } : Rope).enter st f
  else
    ({ (r.leave st asc ringB c) with
       ages := if (r.waiting k).isEmpty then AList.erase r.ages k else AList.set r.ages k (r.ages.getD k 0 + 1) } : Rope).enter st f

end Sys2Proof.Machine
end

