-- ==== Sys2Proof/Machine/CtxOps.lean ====
section
/-!
DEFINITION. Machine/CtxOps.lean: unloading an image (R132, R480), clearing what a step leaves in cores and collector (R148), and the release
of everything a context holds (R352, R385, R386).
-/
namespace Sys2Proof.Machine

/-- Marks the rows of a logical core's scratchpad scrub-pending (R107). -/
def State.scrubRows (s : State) (core first rows : Nat) : State := s.modScratch core (fun p => p.markScrub first rows)

/-- Resident regions of an image as keys core × 65,536 + identifier. -/
def Image.residentKeys (i : Image) : List Nat :=
  i.cores.flatMap (fun c => ((i.foot c).filter (fun e => e.kind == 1)).map (fun e => c * 65536 + e.rid))

/-- Releases resident regions of a context: their rows are marked scrub-pending (R108, R132). -/
def State.dropResidents (s : State) (ctx : Nat) (keys : List Nat) : State :=
  keys.foldl (fun (t : State) (k : Nat) =>
    match (t.ctx ctx).bind (fun (c : Ctx) => c.residents.get? k) with
    | none => t
    | some r => (t.scrubRows (k / 65536) r.first r.rows).modCtx ctx (fun c => { c with residents := c.residents.erase k })) s

/-- Unloads an image (R132): its DRAM, decode holds and unshared resident regions are released, and its handle slot takes the next
generation (R131, R480). -/
def State.unloadImage (s : State) (slot : Nat) : State :=
  match s.images.imgs.get? slot with
  | none => s
  | some i =>
    let imgs := s.images.imgs.erase slot
    let t : State := { s with images := { imgs := imgs, nextGen := s.images.nextGen.set slot (i.gen + 1) } }
    let others := (imgs.filter (fun p => p.2.ctx == i.ctx)).flatMap (fun p => p.2.residentKeys)
    let u := t.dropResidents i.ctx (i.residentKeys.filter (fun k => !others.contains k))
    ((u.modCtx i.ctx (fun c => { c with copies := c.copies.erase slot })).dropCharge i.ctx (chargeImage slot)).releaseGens i.gens

/-- Clears what a step leaves in its cores, on the Rope and in the collector: Belay counters, digest slots, sequencers, rings, messages, done
latches and collector slots (R148). -/
def State.clearStep (s : State) (n : Nat) (cores : List Nat) : State :=
  let t := cores.foldl (fun (u : State) (c : Nat) => u.modLc c (fun l => { l with counters := [], slots := [], seqr := none, rings := [] })) s
  { t with
    rope := t.rope.purge cores
    coll := { t.coll with
      slots := t.coll.slots.filter (fun x => x.step != n)
      latches := t.coll.latches.erase n
      ready := t.coll.ready.filter (· != n)
      granted := t.coll.granted.erase n
      retried := t.coll.retried.filter (fun x => x.1 != n) } }

/-- Removes the steps of a context that are under way, as an FLR does (R385). -/
def State.killSteps (s : State) (ctx : Nat) : State :=
  let mine := s.steps.list.filter (fun p => p.2.ctx == ctx)
  let t := mine.foldl (fun (u : State) p => if p.2.live then u.clearStep p.1 p.2.cores else u) s
  { t with steps := { t.steps with list := t.steps.list.filter (fun p => p.2.ctx != ctx) },
           link := mine.foldl (fun (l : Link) p => l.purge (fun w => w.ofStep p.1 p.2.cores)) t.link }

/-- Releases the frames, slots, spill extents and charges of a context; an isolated context keeps its stream-table frame when `keep` is
set (R226, R386). -/
def State.releaseTier (s : State) (ctx : Nat) (keep : Bool) : State :=
  let ext := (s.tier.extents.get? ctx).getD []
  let pages := ext.flatMap (fun e => (List.range 128).map (· + (spillUnit + e) * 128))
  let frames : AList FrameUse := s.tier.frames.map (fun p =>
    if p.2 = .kept ctx ∨ (p.2.owner = some ctx ∧ p.2 ≠ .charged ctx) then (p.1, FrameUse.zeroing none) else p)
  let t : State := { s with
    flash := if pages.isEmpty then s.flash else s.flash.unmap pages,
    tier := { frames := frames, promos := s.tier.promos.filter (fun p => p.1 != ctx), demos := s.tier.demos.filter (fun p => p.1 != ctx),
              extents := s.tier.extents.erase ctx, port := s.tier.port, claims := s.tier.claims.filter (fun p => p.2 != ctx),
              unplaced := s.tier.unplaced.filter (fun p => p.1 != ctx),
              ghosts := s.tier.ghosts.filter (fun g => g.ctx != ctx), installing := s.tier.installing } }
  (t.modCtx ctx (fun c => { c with segs := [], charges := if keep then c.charges.filter (fun p => p.1 == chargeStrm) else [], copies := [] })).dropCharge
    ctx chargeKv

/-- Everything that CTX_RESET releases (R352 step 3): images, streams, sequences, the pool, models, segments, windows and keys. -/
def State.teardown (s : State) (ctx : Nat) (keep : Bool) : State :=
  let t := s.replayEnd ctx 2
  let t := ((t.images.imgs.filter (fun p => p.2.ctx == ctx)).map (·.1)).foldl (fun (u : State) i => u.unloadImage i) t
  let t := t.dropResidents ctx (((t.ctx ctx).map (fun (c : Ctx) => c.residents.keys)).getD [])
  let t : State := { t with
    strms := t.strms.filter (fun p => p.2.ctx != ctx),
    nv := { t.nv with models := t.nv.models.map (fun p => if p.2.attached = some ctx then (p.1, { p.2 with attached := none }) else p) },
    pcores := t.pcores.map (fun p => if p.lastCtx = some ctx then { p with lastCtx := none } else p) }
  (t.releaseTier ctx keep).settleGens

/-- The context as CTX_RESET leaves it: what R352 closes, unmaps and clears is gone, the tier counters and events and the security state take
their reset values (R245, R364, R393), and everything else stays (notes/assumptions/21.md). -/
def Ctx.cleared (c : Ctx) (nonce : Bytes) : Ctx :=
  { c with state := 1, viol := 0, skip := 0, tierEv := [], windows := [], segs := [], kv := none, hand := (0, 0), residents := [],
           sec := CtxSec.fresh nonce }

/-- Aborts the commands of a context's queues that have not started: its waiting submissions and its fetched commands (R352 step 2). -/
def State.abortCmds (s : State) (ctx : Nat) : State :=
  let waiting := s.steps.list.filter (fun p => p.2.ctx == ctx && p.2.stage == .waiting)
  let t : State := { s with steps := { s.steps with list := s.steps.list.filter (fun p => !(p.2.ctx == ctx && p.2.stage == .waiting)) } }
  let fids := waiting.map (fun p => p.2.fid) ++ (t.cmds.list.filter (fun c => c.ctx == some ctx && c.stage != .running)).map (·.fid)
  fids.foldl (fun (u : State) f => u.complete f stAborted (((u.cmds.find f).map Cmd.refused).getD [])) t

/-- Removes a context with its queue pairs and their commands (R352). -/
def State.removeCtx (s : State) (ctx : Nat) : State :=
  let t := s.teardown ctx false
  let qs := (t.queues.filter (fun p => p.2.ctx == ctx)).map (·.1)
  { t with ctxs := t.ctxs.erase ctx, queues := t.queues.filter (fun p => p.2.ctx != ctx),
           steps := { t.steps with list := t.steps.list.filter (fun p => p.2.ctx != ctx) },
           cmds := { t.cmds with list := t.cmds.list.filter (fun c => !(match c.q with | .pair q => qs.contains q | .admin _ => false)) } }

/-- Destroys a context at once: as CTX_DESTROY does, but without waiting for its running step, which is stopped (R352, R385). The stopped
step gets no completion: no rule names a status for it (notes/assumptions/22.md). -/
def State.destroyNow (s : State) (ctx : Nat) : State := ((s.abortCmds ctx).killSteps ctx).removeCtx ctx

/-- The fields of the PF's registers that an FLR resets, at their reset values (R12): RW, select and W1C fields, the recovery registers
(R427) and UE_LAST_CORE. Counters clear only at tile reset (R128, R301, R328), and fields that show what the tile is still show it. -/
def State.resetPf (s : State) : State :=
  { s with
    pf := { PfRegs.fresh with arrivals := s.pf.arrivals, turn := s.pf.turn, sharedTurn := s.pf.sharedTurn },
    cmp := { s.cmp with selSlot := 0, selGen := 0 },
    sparing := { s.sparing with ueLast := 15 },
    boot := { s.boot with recoveryAddr := 0, recoveryLen := 0 },
    power := { s.power with domSel := 0, capMw := BitVec.ofNat 17 (s.param 0x0701 0) } }

/-- A function after an FLR: its contexts are gone, its admin queue is disabled, its registers have their reset values and its log ring is removed;
its LSN stays (R12, R352, R419). -/
def State.resetFunc (s : State) (f : Nat) : State :=
  let mine := (s.ctxs.filter (fun p => p.2.func == f)).map (·.1)
  let t := mine.foldl (fun (u : State) c => u.destroyNow c) s
  let x := t.func f
  let u := t.modFunc f (fun _ => { Func.fresh with lsn := x.lsn, logDrop := x.logDrop })
  let v : State := { u with cmds := { u.cmds with list := u.cmds.list.filter (fun c => c.q != .admin f) },
                            fw := { u.fw with logQ := u.fw.logQ.filter (fun i => i.func != f) } }
  if f = 0 then v.resetPf else v

end Sys2Proof.Machine
end

