-- ==== Sys2Proof/Machine/SeqOps.lean ====
section
/-!
DEFINITION. Machine/SeqOps.lean: sequencers: when a descriptor issues (R62, R74, R149, R150), scratchpad errors (R110), prefetch triggers
(R143), what engines leave (R95), Cairn records (R422 to R424), faults (R77), completion (R74, R78), and spare-core orders (R442).
-/
namespace Sys2Proof.Machine

/-- What the events of a core may change. -/
def State.coreRow (s r : State) : State :=
  { s with funcs := r.funcs, queues := r.queues, cmds := r.cmds, ctxs := r.ctxs, steps := r.steps, lcores := r.lcores, pcores := r.pcores,
           rope := r.rope, coll := r.coll, tier := r.tier, cmp := r.cmp, dram := r.dram, flash := r.flash, nv := s.nv.coresOf r.nv, link := r.link,
           pf := r.pf, sparing := r.sparing, fw := r.fw, out := r.out }

/-- A core's sequencer with the step it runs and its image. -/
structure Running where
  n : Nat
  r : StepRec
  img : Image
  q : Seqr

def State.current (s : State) (core : Nat) : Option Running :=
  match (s.lc core).seqr with
  | none => none
  | some q =>
    match s.step? q.step with
    | none => none
    | some r => (s.images.imgs.get? r.handle).map (fun i => { n := q.step, r := r, img := i, q := q })

def State.modSeq (s : State) (core : Nat) (f : Seqr → Seqr) : State := s.modLc core (fun l => { l with seqr := l.seqr.map f })
def State.modFlight (s : State) (core idx : Nat) (f : InFlight → InFlight) : State :=
  s.modSeq core (fun q => { q with inflight := q.inflight.map (fun x => if x.idx = idx then f x else x) })
def Seqr.flight (q : Seqr) (idx : Nat) : Option InFlight := q.inflight.find? (fun x => x.idx == idx)
def State.flight (s : State) (core idx : Nat) : Option InFlight := (s.lc core).seqr.bind (fun q => q.flight idx)

/- Cairn. -/

/-- The 32 bytes of a Cairn record (R423). -/
def cairnBytes (seq stepSeq desc tag core ev steps time : Nat) : Bytes :=
  toLe seq 8 ++ toLe stepSeq 8 ++ toLe desc 4 ++ toLe tag 2 ++ toLe (core + 8 * ev) 1 ++ [0#8] ++ toLe steps 4 ++ toLe time 4

/-- A record takes its SEQ and lands, from a core's buffer later or from F1 at once; a full buffer drops it (R422, R424). -/
def State.cairnRecord (s : State) (ctx stepSeq : Nat) (core : Option Nat) (desc tag ev : Nat) : State :=
  match s.ctx ctx with
  | none => s
  | some x =>
    match x.cairn with
    | none => s
    | some k =>
      let steps := if core.isSome then (Config.cairnSteps x.cairnSeq).toNat else 0
      let rec' : CairnRec :=
        { ctx := ctx, win := k.win, off := k.off + 32 * (x.cairnSeq % (k.len / 32)),
          data := cairnBytes x.cairnSeq stepSeq desc tag (core.getD 0) ev steps s.boot.timer }
      let t := s.modCtx ctx (fun y => { y with cairnSeq := y.cairnSeq + 1 })
      match core with
      | none =>
        let w := t.plainWrite ctx rec'.win rec'.off rec'.data
        w.s.countViol ctx w.viol
      | some c =>
        if (s.lc c).cairn.length < 256 then t.modLc c (fun l => { l with cairn := l.cairn ++ [rec'] })
        else t.modCtx ctx (fun y => { y with cairnDrop := satUp y.cairnDrop })

/-- The record of a descriptor with the CAIRN flag: 0 issue, 1 completion (R422). -/
def State.cairnDesc (s : State) (core : Nat) (x : Running) (idx : Nat) (d : Desc) (ev : Nat) : State :=
  if d.cairn then s.cairnRecord x.r.ctx x.r.seq (some core) idx d.opTag ev else s

/- Issue. -/

/-- Condition 1 of R74: the four channels of the DMA engine take one MOVE each. -/
def unitFree (fl : List InFlight) (u : Nat) : Bool :=
  decide ((fl.filter (fun x => (unitsOf x.desc).contains u)).length < if u = 3 then 4 else 1)

/-- Whether a descriptor passes without effect in stream order: a SHADOW_ONLY MATMUL, or a CHECK above the level in force (R80, R92). -/
def passes (d : Desc) (level : Nat) : Bool := (d.kind == 1 && d.shadowOnly) || (d.kind == 7 && decide (level < d.fld 4 3 2))

/-- The conditions of R74, R149, R150 and R152 on the next descriptor of a sequencer. A descriptor that passes needs no unit. -/
def mayIssue (img : Image) (core : Nat) (q : Seqr) (d : Desc) (level : Nat) : Bool :=
  let fl := q.inflight
  decide (fl.length < 8) && !fl.any (fun x => isWait x.desc) && (!d.fence || fl.isEmpty) &&
    (passes d level || ((unitsOf d).all (unitFree fl) && (!(isPost d || isSend d) || fl.isEmpty) &&
      !fl.any (fun x => conflict img core x.desc d)))

/-- The next descriptor of a core, when it may issue and is of a kind and an operation that a row names. -/
def State.issuing (s : State) (core : Nat) (p : Desc → Bool) : Option (Running × Desc) :=
  match s.current core with
  | none => none
  | some x =>
    match x.q.stream[x.q.idx]? with
    | none => none
    | some d =>
      if s.running && x.r.stage == .running && x.q.started && !x.q.stopped && !x.q.ended && p d &&
          mayIssue x.img core x.q d x.r.level then some (x, d) else none

/-- A prefetch request that cannot be served yet waits with its step (R231, R232). -/
def State.want (s : State) (n sg tl : Nat) (pin : Bool) : State :=
  s.modStep n (fun y => { y with wants := y.wants ++ [(sg, tl, pin)] })

/-- Pins a tile for a prefetch entry until the step ends (R143, R231); past 65,535 pins the request waits. -/
def State.prefetchPin (s : State) (n ctx sg tl : Nat) (pin : Bool) : State :=
  if !pin then s
  else
    let r := s.pinTile ctx sg tl false
    if r.2 then r.1.modStep n (fun y => { y with pins := (sg, tl) :: y.pins }) else r.1.want n sg tl pin

/-- Begins to promote one prefetched tile (R143, R231, R238). The request waits for a demotion to end, for the eviction of a tile decided
before its step was dispatched (R232), and for a slot. -/
def State.prefetchTile (s : State) (n ctx ord sg tl : Nat) (pin : Bool) : State :=
  match s.seg ctx sg with
  | none => s.modCtx ctx (fun c => { c with skip := satUp c.skip })
  | some _ =>
    match s.tile ctx sg tl with
    | none => s
    | some t =>
      match t.st with
      | .upper => (s.modTile ctx sg tl (fun y => { y with ref := true })).prefetchPin n ctx sg tl pin
      | .promoting => s.prefetchPin n ctx sg tl pin
      | .evictPending =>
        if ord < t.evictAt then s.prefetchPin n ctx sg tl pin else (if pin then s.tierEvent ctx 2 else s).want n sg tl pin
      | .demoting => s.want n sg tl pin
      | .lower =>
        match s.promote ctx sg tl with
        | .ok u _ => u.prefetchPin n ctx sg tl pin
        | .wait u => u.want n sg tl pin
        | .worn => s
      | .zero => s
      | .poisoned => s

/-- The prefetch requests of the running steps that wait ask again. -/
def State.retryWants (s : State) : State :=
  (s.steps.list.filter (fun p => !p.2.wants.isEmpty)).foldl (fun (t : State) (p : Nat × StepRec) =>
    p.2.wants.foldl (fun (u : State) (w : Nat × Nat × Bool) => u.prefetchTile p.1 p.2.ctx p.2.ord w.1 w.2.1 w.2.2)
      (t.modStep p.1 (fun y => { y with wants := [] }))) s

/-- The prefetch entries that a descriptor triggers at issue (R143). -/
def State.prefetch (s : State) (core : Nat) (x : Running) : State :=
  (x.img.prefetch.filter (fun p => p.core == core && p.desc == x.q.idx)).foldl (fun (t : State) (p : PrefEntry) =>
    (List.range p.tiles).foldl (fun (u : State) (i : Nat) =>
      u.prefetchTile x.n x.r.ctx x.r.ord (segOf (p.addr + i * tileBytes)) (tileOf (p.addr + i * tileBytes)) p.pin) t) s

/-- A fault of a core's descriptor: it issues nothing more, and the first fault is the one reported (R77). -/
def State.raise (s : State) (core : Nat) (f : FaultRec) : State :=
  s.modSeq core (fun q => { q with stopped := true, fault := if q.fault.isSome then q.fault else some f })

def descFault (core idx : Nat) (d : Desc) (cls status : Nat) : FaultRec :=
  { cls := BitVec.ofNat 4 cls, status := BitVec.ofNat 8 status, core := core, desc := idx, tag := d.opTag }

/- Spare-core orders. -/

/-- F1 wants a logical core on CS (R442): triggers 0 CHECK limit, 1 scratchpad errors, 2 KAT, 3 stopped. When no switch is possible,
SPARE_DENIED is written, and the last two leave the core without a carrier. -/
def State.orderSpare (s : State) (core p trigger : Nat) : State :=
  let sp := s.sparing
  if sp.busy = some core ∨ sp.wanted = some core then s
  else if sp.usable ∧ sp.busy = none ∧ sp.wanted = none ∧ s.carried 8 = none then { s with sparing := { sp with wanted := some core } }
  else
    let t := s.logPf (mkLog 0x0109 [(0, p), (4, trigger)])
    if trigger < 2 then t
    else
      { (t.modLc core (fun l => { l with carrier := 15 })) with
        nv := { t.nv with carrierless := core :: t.nv.carrierless.filter (· != core) } }

/-- Moments of the last 24 hours. -/
def lastDay (l : List Nat) (now : Nat) : List Nat := l.filter (fun x => decide (now < x + 86400000000))

/- Scratchpad errors. -/

/-- The resident region of a context that holds a row of a core. -/
def State.residentAt (s : State) (ctx core row : Nat) : Option Nat :=
  (s.ctx ctx).bind (fun (c : Ctx) => (c.residents.find? (fun p =>
    p.1 / 65536 == core && decide (p.2.first ≤ row) && decide (row < p.2.first + p.2.rows))).map (·.1))

/-- Counts an uncorrectable error, and asks for the spare at the fourth of a core within 24 hours (R110, R128, R442). -/
def State.countUe (s : State) (core : Nat) : State :=
  match s.carrier core with
  | none => s
  | some p =>
    let now := s.boot.timer
    let log := s.sparing.ueLog.filter (fun x => decide (now < x.1 + 86400000000)) ++ [(now, p)]
    let t : State := { s with sparing :=
      { s.sparing with ueCnt := satUp s.sparing.ueCnt, ueLast := BitVec.ofNat 4 core, ueLog := log } }
    if 4 ≤ (log.filter (fun x => x.2 == p)).length then t.orderSpare core p 1 else t

/-- One scratchpad error that a descriptor meets on a row that it reads, of its own core or of a PEER (R107, R110): the error counts
for the core that holds the row, and the descriptor's step faults. -/
def State.rowError (s : State) (core : Nat) (x : Running) (d : Desc) (e : RowError) : State :=
  if !((accesses x.img core d).any (fun a => !a.write && a.core == some e.core && decide (a.lo ≤ e.row) && decide (e.row < a.hi))) ||
      (s.carrier e.core).isNone || Ranges.has (s.scratch e.core).scrub e.row then s
  else if !e.uncorrectable then { s with sparing := { s.sparing with ceCnt := satUp s.sparing.ceCnt } }
  else
    let t := s.countUe e.core
    match s.residentAt x.r.ctx e.core e.row with
    | none => t.raise core (descFault core x.q.idx d 2 stScratchUe)
    | some k =>
      let reg := ((s.ctx x.r.ctx).bind (fun (c : Ctx) => c.residents.get? k)).map (fun (r : Resident) => (r.first, r.rows))
      let u := match reg with | some (f, n) => t.scrubRows e.core f n | none => t
      (u.modCtx x.r.ctx (fun c => { c with residents := c.residents.upd k (fun r => { r with lost := true }) })).raise core
        (descFault core x.q.idx d 3 stResidentLost)

def State.rowErrors (s : State) (core : Nat) (x : Running) (d : Desc) (es : List RowError) : State :=
  es.foldl (fun (t : State) e => t.rowError core x d e) s

/-- A descriptor issues: its trigger, its Cairn record and its errors; it enters the window with what it will write. -/
def State.issue (s : State) (core : Nat) (x : Running) (d : Desc) (f : InFlight) (es : List RowError) : State :=
  (((s.modSeq core (fun q => { q with idx := q.idx + 1, inflight := q.inflight ++ [f] })).prefetch core x).cairnDesc core x x.q.idx d 0).rowErrors
    core x d es

def InFlight.plain (idx : Nat) (d : Desc) (writes : List (Nat × Bytes)) : InFlight :=
  { idx := idx, desc := d, writes := writes, acks := 0, waits := false, move := none, send := [], halves := [] }

/-- The flags and the RANGE record that an engine's output leaves with a core (R59, R95). The first tile to set RANGE is the first in the order
in which descriptors give their results here: a MATMUL, SCAN or VEC as it issues, an ATTN as it completes (DESIGN CHOICE,
notes/assumptions/50.md). -/
def Seqr.collect (q : Seqr) (idx : Nat) (d : Desc) (o : EngineOut) : Seqr :=
  let bad := o.tiles.find? (fun t => FVal.lt (ofF32 d.rangeBound) t.2)
  { q with
    flags := q.flags ||| o.flags
    range := if q.range.isSome then q.range
      else bad.map (fun t => { desc := idx, tag := d.opTag, tile := t.1, mag := toF32 t.2 }) }

/-- A core reads rows of its scratchpad. -/
def State.rows (s : State) (core : Nat) : RowRead := (s.scratch core).row

/-- Whether a core can report its step done: its END descriptor and all others have completed, without a fault (R78;
notes/assumptions/32.md). -/
def Seqr.finished (q : Seqr) : Bool := q.ended && q.inflight.isEmpty && q.fault.isNone

/-- A core reports its step done to the collector (R78, R126). -/
def State.reportDone (s : State) (core : Nat) : State :=
  match (s.lc core).seqr with
  | none => s
  | some q => if q.finished then s.inject (s.station core) tierStation (.stepDone q.step core q.flags) else s

/-- A descriptor completes: its rows land, it leaves the window, its Cairn record is written, and END ends the stream (R74, R78). -/
def State.finishDesc (s : State) (core idx : Nat) : State :=
  match s.current core, s.flight core idx with
  | some x, some f =>
    let t := s.modScratch core (fun p => p.writeRows f.writes)
    let u := t.modSeq core (fun q =>
      { q with inflight := q.inflight.filter (fun y => y.idx != idx), ended := q.ended || f.desc.isEnd })
    (u.cairnDesc core x idx f.desc 1).reportDone core
  | _, _ => s

/-- A descriptor that completes at issue. -/
def State.issueDone (s : State) (core : Nat) (x : Running) (d : Desc) : State :=
  (s.issue core x d (InFlight.plain x.q.idx d []) []).finishDesc core x.q.idx

end Sys2Proof.Machine
end

