-- ==== Sys2Proof/Machine/StreamCmds.lean ====
section
/-!
DEFINITION. Machine/StreamCmds.lean: the stream commands (R182 to R184) and the KV pool and sequence commands (R189 to R197).
-/
namespace Sys2Proof.Machine

/-- What the stream and KV commands may change beside the parts of a completion. -/
def State.streamCmd (s r : State) : State :=
  { s.cplOf r with strms := r.strms, tier := r.tier, dram := r.dram, nv := s.nv.modelsOf r.nv, cmp := r.cmp, pf := r.pf, link := r.link }

/-- The open stream that a command names, in the submitting context (R182). -/
def State.cmdStrm (s : State) (c : Cmd) : Option Strm := (s.strms.get? (c.fld 8 2)).filter (fun x => x.ctx == c.ctxNo)

def State.modStrm (s : State) (i : Nat) (f : Strm → Strm) : State := { s with strms := s.strms.upd i f }

/-- The entry that a STREAM_OPEN writes (R182). -/
def Cmd.newStrm (c : Cmd) : Strm :=
  { base := c.fld 8 6, tiles := c.fld 14 2, position := 0, kind := c.fld 16 1 % 16, prec := c.fld 16 1 / 16, paused := false,
    resetPending := false, cur := false, ckptCur := false, zero := true, ckptZero := true, anchorDue := false, kvSeq := c.fld 20 4,
    ctx := c.ctxNo, anchorPeriod := c.fld 24 2, anchorPos := 0, logTiles := c.fld 26 2 }

/-- The argument rules of STREAM_OPEN (R184). -/
def State.strmArgsOk (s : State) (x : Strm) : Bool :=
  let top := x.base + x.areaTiles * tileBytes
  let kv := (s.ctx x.ctx).bind (fun (c : Ctx) => c.kv)
  x.base % tileBytes == 0 && x.tiles != 0 && decide (x.prec ≤ 2) && ((x.anchorPeriod == 0) == (x.logTiles == 0)) &&
    decide (top ≤ 2 ^ 48) &&
    !(s.strms.any (fun p => p.2.ctx == x.ctx && decide (p.2.base < top) && decide (x.base < p.2.base + p.2.areaTiles * tileBytes))) &&
    (x.kvSeq == noSeq || (kv.bind (fun (k : KvPool) => k.seqs.get? x.kvSeq)).any (fun (r : SeqRec) => decide (r.binds < 65535)))

def State.modKv (s : State) (ctx : Nat) (f : KvPool → KvPool) : State := s.modCtx ctx (fun c => { c with kv := c.kv.map f })
def State.kv? (s : State) (ctx : Nat) : Option KvPool := (s.ctx ctx).bind (fun (c : Ctx) => c.kv)

/-- Changes BINDS of a record (R195). -/
def State.bindSeq (s : State) (ctx rec : Nat) (f : Nat → Nat) : State :=
  if rec = noSeq then s
  else s.modKv ctx (fun k => { k with seqs := k.seqs.upd rec (fun r => { r with binds := f r.binds }) })

/-- STREAM_OPEN: arguments first, the reservation second (R182, R184, R195). -/
def State.streamOpen (s : State) (c : Cmd) : State :=
  let x := c.newStrm
  if !s.strmArgsOk x then s.answer c stStreamBadArgs
  else match (s.ctx c.ctxNo).bind (fun (k : Ctx) => s.strms.firstFree k.first (k.first + k.size)) with
    | none => s.answer c stStreamLimit
    | some i =>
      let t : State := { s with strms := s.strms.set i x }
      (t.bindSeq c.ctxNo x.kvSeq (· + 1)).complete c.fid stOk (toLe i 2)

/-- A stream command on an open stream of the context, or ST_STREAM_INVALID (R182). -/
def State.onStrm (s : State) (c : Cmd) (k : Strm → State) : State :=
  match s.cmdStrm c with
  | none => s.answer c stStreamInvalid
  | some x => k x

def State.streamPause (s : State) (c : Cmd) : State :=
  s.onStrm c (fun _ => (s.modStrm (c.fld 8 2) (fun x => { x with paused := true })).answer c stOk)

def State.streamResume (s : State) (c : Cmd) : State :=
  s.onStrm c (fun _ => (s.modStrm (c.fld 8 2) (fun x => { x with paused := false })).answer c stOk)

def State.streamReset (s : State) (c : Cmd) : State :=
  s.onStrm c (fun _ => (s.modStrm (c.fld 8 2) (fun x => { x with resetPending := true })).answer c stOk)

/-- STREAM_CLOSE clears the entry and unbinds its record (R182, R195). -/
def State.streamClose (s : State) (c : Cmd) : State :=
  s.onStrm c (fun x =>
    let t : State := { s with strms := s.strms.erase (c.fld 8 2) }
    (t.bindSeq c.ctxNo x.kvSeq (· - 1)).answer c stOk)

def State.streamQuery (s : State) (c : Cmd) : State :=
  s.onStrm c (fun x => s.complete c.fid stOk (resultAt [(16, x.bytes)]))

def execStreamOpen (fid : Nat) (s : State) : Result := .next (s.streamCmd (s.runOp fid 0x08 stStreamBadArgs State.streamOpen))
def execStreamPause (fid : Nat) (s : State) : Result := .next (s.streamCmd (s.runOp fid 0x09 stBadField State.streamPause))
def execStreamResume (fid : Nat) (s : State) : Result := .next (s.streamCmd (s.runOp fid 0x0A stBadField State.streamResume))
def execStreamReset (fid : Nat) (s : State) : Result := .next (s.streamCmd (s.runOp fid 0x0B stBadField State.streamReset))
def execStreamClose (fid : Nat) (s : State) : Result := .next (s.streamCmd (s.runOp fid 0x0C stBadField State.streamClose))
def execStreamQuery (fid : Nat) (s : State) : Result := .next (s.streamCmd (s.runOp fid 0x0D stBadField State.streamQuery))

/- The KV pool and its sequences. -/

/-- The pool that a KV_POOL_CREATE asks for (R189). -/
def Cmd.newPool (c : Cmd) : KvPool :=
  { base := c.fld 8 6, pages := c.fld 16 4, headDim := c.fld 20 2, fmt := c.fld 22 1 % 16, lanes := c.fld 24 2, maxSeqs := c.fld 28 4,
    entries := c.fld 32 4, epoch := 0, list := [], counts := [], prov := [], limbo := [], holds := [], seqs := [] }

/-- The ranges of R189. -/
def KvPool.argsOk (k : KvPool) : Bool :=
  k.base % tileBytes == 0 && decide (1 ≤ k.pages) && decide (k.pages ≤ 0xFFFFFFFE) && decide (32 ≤ k.headDim) && decide (k.headDim ≤ 256) &&
    k.headDim % 32 == 0 && kvFmtOk k.fmt && decide (1 ≤ k.lanes) && decide (k.lanes ≤ 1024) && decide (1 ≤ k.maxSeqs) &&
    decide (k.maxSeqs ≤ 65536) && decide (1 ≤ k.entries) && decide (k.entries ≤ 2 ^ 28) && decide (k.base + k.pages * 16384 ≤ 2 ^ 48)

/-- Tiles of the pool's metadata (R192). -/
def KvPool.metaTiles (k : KvPool) : Nat := cdiv (16 * k.maxSeqs + 4 * k.entries + 2 * k.pages) tileBytes

def State.kvPoolCreate (s : State) (c : Cmd) : State :=
  let k := c.newPool
  if !k.argsOk || (s.kv? c.ctxNo).isSome then s.answer c stKvBadArgs
  else match s.claimTiles c.ctxNo chargeKv k.metaTiles with
    | .refused => s.answer c stKvNoQuota
    | .wait k' => (s.reclaimFor c.ctxNo k').defer c.fid
    | .ok t => (t.modCtx c.ctxNo (fun x => { x with kv := some k })).answer c stOk

def State.kvPoolDestroy (s : State) (c : Cmd) : State :=
  match s.kv? c.ctxNo with
  | none => s.answer c stKvSeqInvalid
  | some k =>
    if !k.seqs.isEmpty then s.answer c stKvSeqBound
    else ((s.modCtx c.ctxNo (fun x => { x with kv := none })).dropCharge c.ctxNo chargeKv).answer c stOk

/-- The lowest run of n free list entries (R193): it begins at 0 or where the run of some record ends. -/
def KvPool.freeRun (k : KvPool) (n : Nat) : Option Nat :=
  let used := k.seqs.map (fun p => (p.2.base, p.2.groups * k.lanes))
  let starts := 0 :: used.map (fun u => u.1 + u.2)
  let fitsAt (a : Nat) : Bool := decide (a + n ≤ k.entries) && !(used.any (fun u => decide (u.1 < a + n) && decide (a < u.1 + u.2)))
  (starts.filter fitsAt).foldl (fun (m : Option Nat) a => match m with | none => some a | some b => some (min a b)) none

/-- A free record and list run for LIST_GROUPS groups: the record number and LIST_BASE. -/
def KvPool.place (k : KvPool) (groups : Nat) : Option (Nat × Nat) :=
  (k.seqs.firstFree 0 k.maxSeqs).bind (fun r => (k.freeRun (groups * k.lanes)).map (fun b => (r, b)))

/-- A sequence command when the context has a pool (R193). -/
def State.onPool (s : State) (c : Cmd) (f : KvPool → State) : State :=
  match s.kv? c.ctxNo with
  | none => s.answer c stKvSeqInvalid
  | some k => f k

def State.kvSeqOpen (s : State) (c : Cmd) : State :=
  s.onPool c (fun k =>
    match k.place (c.fld 8 4) with
    | none => (s.kvEvent c.ctxNo 3).answer c stKvListFull
    | some (r, b) =>
      (s.modKv c.ctxNo (fun x => { x with seqs := x.seqs.set r { length := 0, base := b, groups := c.fld 8 4, binds := 0 } })).complete
        c.fid stOk (toLe r 4))

/-- The entries of the first groups of a record, as (group × LANES + lane, page). -/
def KvPool.sharedEntries (k : KvPool) (r : SeqRec) (groups : Nat) : List (Nat × Nat) :=
  (k.list.filter (fun e => decide (r.base ≤ e.1) && decide (e.1 < r.base + groups * k.lanes))).map (fun e => (e.1 - r.base, e.2))

/-- The number under which a fork holds the epoch of its pool (R208). -/
def forkHold (fid : Nat) : Nat := 2 ^ 96 + fid

/-- A fork that has begun to copy takes its pages and its epoch (R196, R208). -/
def State.forkBegin (s : State) (c : Cmd) (k : KvPool) (full : List (Nat × Nat)) : State × Cmd :=
  let fresh := k.take full.length
  let d : Cmd := { c with
    job := { CopyJob.none with copies := ((full.map (·.2)).zip fresh).flatMap (fun p => k.pageCopy p.1 p.2 8192) }
    fork := some ((full.map (·.1)).zip fresh) }
  ((s.modKv c.ctxNo (fun x => { x with prov := x.prov ++ fresh, holds := x.holds ++ [(x.epoch, forkHold c.fid)] })).modCmd c.fid (fun _ => d), d)

/-- A fork gives back the pages it took, its pins and its epoch. -/
def State.forkEnd (s : State) (c : Cmd) : State :=
  let pages := (c.fork.getD []).map (·.2)
  ((s.dropJob c.ctxNo c.job).modKv c.ctxNo (fun x =>
    ({ x with prov := x.prov.filter (fun p => !pages.contains p), holds := x.holds.filter (fun h => h.2 != forkHold c.fid) } : KvPool).release)).modCmd
      c.fid (fun y => { y with job := CopyJob.none, fork := none })

/-- The record that a fork opens, with the entries it shares or has copied (R193, R196). -/
def State.forkDone (s : State) (c : Cmd) (rec base n groups : Nat) (shared : List (Nat × Nat)) : State :=
  let copies := c.fork.getD []
  let names := shared.map (fun e => (e.1, (copies.find? (fun z => z.1 == e.1)).elim e.2 (·.2)))
  let u := (s.forkEnd c).modKv c.ctxNo (fun x =>
    { x with seqs := x.seqs.set rec { length := n, base := base, groups := groups, binds := 0 },
             list := names.foldl (fun (l : AList Nat) (e : Nat × Nat) => l.set (base + e.1) e.2) x.list,
             counts := names.foldl (fun (l : AList Nat) (e : Nat × Nat) => l.set e.2 (AList.getD l e.2 0 + 1)) x.counts })
  (if copies.isEmpty then u else u.kvEvent c.ctxNo 1).complete c.fid stOk (toLe rec 4)

/-- A fork goes on with its copies. One that meets lost data is refused and changes nothing (R196); a tile whose clean copy was discarded is read
again (R242). -/
def State.forkCopies (s : State) (c : Cmd) (rec base n groups : Nat) (shared : List (Nat × Nat)) : State :=
  match s.copyAll c.ctxNo s.steps.dispatched none (.fork c.fid) c.job with
  | .done t => t.forkDone c rec base n groups shared
  | .wait t j => (t.modCmd c.fid (fun y => { y with job := j })).defer c.fid
  | .lost t j cls st =>
    if cls = 7 ∧ st = 0x9C then (t.modCmd c.fid (fun y => { y with job := j })).defer c.fid
    else
      let u := t.forkEnd { c with job := j }
      if cls = 4 then (u.faultCtx c.ctxNo 4 st).answer c st else u.answer c st

/-- KV_SEQ_FORK (R193, R196). -/
def State.kvSeqFork (s : State) (c : Cmd) : State :=
  s.onPool c (fun k =>
    match k.seqs.get? (c.fld 8 4) with
    | none => s.answer c stKvSeqInvalid
    | some src =>
      let n := c.fld 12 4
      let groups := c.fld 16 4
      let g := cdiv n k.p
      if src.length < n ∨ groups < g then s.answer c stKvBadArgs
      else match k.place groups with
        | none => (s.kvEvent c.ctxNo 3).answer c stKvListFull
        | some (r, b) =>
          let shared := k.sharedEntries src g
          let full := shared.filter (fun e => 65535 ≤ AList.getD k.counts e.2 0)
          if c.fork.isSome then s.forkCopies c r b n groups shared
          else if full.isEmpty then s.forkDone c r b n groups shared
          else if k.freePages + k.limbo.length < full.length then (s.kvEvent c.ctxNo 2).answer c stKvPoolFull
          else if k.freePages < full.length then (s.kvEvent c.ctxNo 4).defer c.fid
          else
            let x := s.forkBegin c k full
            x.1.forkCopies x.2 r b n groups shared)

/-- Removes the entries of a record from a group on; pages whose count reaches 0 go to limbo (R193, R197, R208). -/
def KvPool.cut (k : KvPool) (r : SeqRec) (group : Nat) : KvPool :=
  let inside (i : Nat) : Bool := decide (r.base + group * k.lanes ≤ i) && decide (i < r.base + r.groups * k.lanes)
  let d := k.decr ((k.list.filter (fun e => inside e.1)).map (·.2))
  (({ d.1 with list := k.list.filter (fun e => !inside e.1) } : KvPool).toLimbo d.2).release

def State.kvSeqTruncate (s : State) (c : Cmd) : State :=
  s.onPool c (fun k =>
    match k.seqs.get? (c.fld 8 4) with
    | none => s.answer c stKvSeqInvalid
    | some r =>
      let n := c.fld 12 4
      if r.length < n then s.answer c stKvBadArgs
      else (s.modKv c.ctxNo (fun x =>
        let y := x.cut r (cdiv n x.p)
        { y with seqs := y.seqs.set (c.fld 8 4) { r with length := n } })).answer c stOk)

def State.kvSeqClose (s : State) (c : Cmd) : State :=
  s.onPool c (fun k =>
    match k.seqs.get? (c.fld 8 4) with
    | none => s.answer c stKvSeqInvalid
    | some r =>
      if r.binds ≠ 0 then s.answer c stKvSeqBound
      else (s.modKv c.ctxNo (fun x =>
        let y := x.cut r 0
        { y with seqs := y.seqs.erase (c.fld 8 4) })).answer c stOk)

/-- The 16 bytes of a sequence record (R191). -/
def SeqRec.bytes (r : SeqRec) : Bytes := toLe r.length 4 ++ toLe r.base 4 ++ toLe r.groups 4 ++ toLe r.binds 2 ++ [1#8, 0#8]

def State.kvSeqQuery (s : State) (c : Cmd) : State :=
  s.onPool c (fun k =>
    match k.seqs.get? (c.fld 8 4) with
    | none => s.answer c stKvSeqInvalid
    | some r => s.complete c.fid stOk (resultAt [(16, r.bytes)]))

def execKvPoolCreate (fid : Nat) (s : State) : Result := .next (s.streamCmd (s.runOp fid 0x10 stBadField State.kvPoolCreate))
def execKvPoolDestroy (fid : Nat) (s : State) : Result := .next (s.streamCmd (s.runOp fid 0x11 stBadField State.kvPoolDestroy))
def execKvSeqOpen (fid : Nat) (s : State) : Result := .next (s.streamCmd (s.runOp fid 0x12 stBadField State.kvSeqOpen))
def execKvSeqFork (fid : Nat) (s : State) : Result := .next (s.streamCmd (s.runOp fid 0x13 stBadField State.kvSeqFork))
def execKvSeqTruncate (fid : Nat) (s : State) : Result := .next (s.streamCmd (s.runOp fid 0x14 stBadField State.kvSeqTruncate))
def execKvSeqClose (fid : Nat) (s : State) : Result := .next (s.streamCmd (s.runOp fid 0x15 stBadField State.kvSeqClose))
def execKvSeqQuery (fid : Nat) (s : State) : Result := .next (s.streamCmd (s.runOp fid 0x16 stBadField State.kvSeqQuery))

end Sys2Proof.Machine
end

