-- ==== Sys2Proof/Machine/MoveOps.lean ====
section
/-!
DEFINITION. Machine/MoveOps.lean: the pieces of a MOVE (R87, R118, R176, R177, R186, R199, R200, R253), how they go on (R75, R115, R231),
what a message does where it lands, and the end of a host read (R118, R357, R358, R379).
-/
namespace Sys2Proof.Machine

/- Pieces. -/

/-- Cuts n units from an address on at every multiple of a size: addresses and lengths. -/
def cuts (size : Nat) : Nat → Int → Nat → List (Int × Nat)
  | 0, _, _ => []
  | fuel + 1, a, n =>
    if n = 0 then []
    else let k := min n (size - (a % (size : Int)).toNat); (a, k) :: cuts size fuel (a + k) (n - k)

def runs (size : Nat) (a : Int) (n : Nat) : List (Int × Nat) := cuts size (n / size + 2) a n

/-- A number as the 64 bits of a log field. -/
def low64 (a : Int) : Nat := (a % 2 ^ 64).toNat

/-- Pieces of device bytes, one for each tile; an address below 0 lies in no segment (R221, R224). -/
def devPieces (a : Int) (loc n cat : Nat) : List Piece :=
  (runs tileBytes a n).map (fun (r : Int × Nat) =>
    { loc := loc + (r.1 - a).toNat, len := r.2,
      side := if r.1 < (0 : Int) then .bad 1 0xFFFF (low64 r.1) cat else .dev r.1.toNat cat })

/-- Pieces of Ridge blocks from a block number on, counted from the first tile of an address (R252, R253). -/
def ridgePieces (tile : Nat) (b : Int) (loc blocks : Nat) : List Piece :=
  (runs 364 b blocks).map (fun r =>
    let a : Int := ((tile : Int) + r.1 / 364) * tileBytes + r.1 % 364 * 180
    { loc := loc + (r.1 - b).toNat * 256, len := r.2 * 256,
      side := if a < 0 then .bad 1 0xFFFF (low64 a) 0 else .ridge a.toNat r.2 })

/-- Pieces of a host window: the requests of R118, cut at payload offsets in a bounce window, of which only whole units may be reached (R377, R380). -/
def State.winPieces (s : State) (ctx : Nat) (loads : Bool) (win : Nat) (a : Int) (loc n cat : Nat) : List Piece :=
  let at' (r : Int × Nat) (side : PieceSide) : Piece := { loc := loc + (r.1 - a).toNat, len := r.2, side := side }
  let bad (kind : Nat) (r : Int × Nat) : Piece := at' r (.bad kind win (low64 r.1) cat)
  let good (rs : List (Int × Nat)) : List Piece :=
    (rs.zipIdx).map (fun q => if q.1.1 < 0 then bad 3 q.1 else at' q.1 (.win win q.1.1.toNat cat (q.2 + 1 == rs.length)))
  match s.ctx ctx with
  | none => []
  | some c =>
    if !c.confidential then
      good (runs 256 a n)
    else match c.window? win with
      | none => (runs 256 a n).map (bad 3)
      | some w =>
        let open' := if loads then c.sec.h2t.isSome else c.sec.t2h.isSome && a % sealedUnit == 0
        if !open' || decide (a < 0) then (runs 256 a n).map (bad 7)
        else
          let u := a.toNat / sealedUnit
          let units := if n = 0 then 0 else (a.toNat + n - 1) / sealedUnit + 1 - u
          let top : Int := ((u + ((List.range units).filter (fun i => decide (4096 * (u + i + 1) ≤ w.len))).length) * sealedUnit : Nat)
          good (runs 256 a (min n (top - a).toNat)) ++
            (runs 256 a n).filterMap (fun r =>
              if r.1 + r.2 ≤ top then none
              else let lo := max r.1 top; some (bad 3 (lo, (r.1 + r.2 - lo).toNat)))

/-- The first scratchpad row of a gathered item that lies outside the footprint of its core, or outside the rows (R87). -/
def badRow (img : Image) (core : Nat) (a : Int) (n : Nat) : Option Int :=
  ((List.range (((a + n + 511) / 512 - a / 512).toNat)).map (fun (i : Nat) => a / 512 + (i : Int))).find? (fun r =>
    decide (r < 0) || decide (49152 ≤ r) || !(uncovered (img.foot core) ⟨r.toNat, 1⟩).isEmpty)

/-- Pieces of a scratchpad side: rows of another core by requests, rows of this core at once (R87, R115). -/
def scratchPieces (img : Image) (core peer : Nat) (gather : Bool) (a : Int) (loc n : Nat) : List Piece :=
  match if gather then badRow img peer a n else none with
  | some r => [{ loc := loc, len := n, side := .bad 9 0xFFFF (low64 r) 9 }]
  | none =>
    if peer = core then [{ loc := loc, len := n, side := .own a.toNat }]
    else (runs 256 a n).map (fun r => { loc := loc + (r.1 - a).toNat, len := r.2, side := .peer peer r.1.toNat })

/-- The window and the offset of a WINDOW side, with the bindings of R154 resolved. -/
def StepRec.binding (r : StepRec) (d : Desc) : Nat × Nat :=
  if d.window = 0xFFFE then (r.inWin, r.inOff) else if d.window = 0xFFFF then (r.outWin, r.outOff) else (d.window, 0)

/-- Pieces of n bytes of a plain side, at a displacement from REMOTE_ADDR (R87, R118, R253). -/
def State.sidePieces (s : State) (core : Nat) (x : Running) (d : Desc) (disp : Int) (loc n : Nat) : List Piece :=
  if d.other = 2 then
    if d.moveFmt = 0xD then
      ridgePieces (d.remote / tileBytes) (d.remote % tileBytes / 180 + disp / 256) loc (n / 256)
    else devPieces (d.remote + disp) loc n 0
  else if d.other = 3 then
    let b := x.r.binding d
    s.winPieces x.r.ctx d.loads b.1 (d.remote + b.2 + disp) loc n 3
  else scratchPieces x.img core (if d.other = 1 then d.movePeer else core) d.gather ((d.remote * 512 : Nat) + disp) loc n

/-- Zeros that fill the last row of what a transfer lands (R87). -/
def tailPiece (d : Desc) (loc n : Nat) : List Piece :=
  if d.loads ∧ n % 512 ≠ 0 then [{ loc := loc + n, len := 512 - n % 512, side := .zero 0 9 }] else []

/-- Pieces of an item of a STATE side that lies in one stream's state area (R175, R177, R186). -/
def stateItem (d : Desc) (e : Strm) (loc : Nat) : List Piece :=
  let rg := d.remote / 2 ^ 46
  let logged := (e.position - e.anchorPos) * d.stride
  let off := d.remote % 2 ^ 46 + (if rg = 2 ∧ !d.loads then logged else 0)
  let buf (cur : Bool) : Nat := b2n (if d.loads then cur else !cur)
  let first := if rg = 0 then buf e.cur * e.tiles
    else if rg = 1 then 2 * e.tiles + buf e.ckptCur * e.ckTiles else 2 * e.tiles + 2 * e.ckTiles
  let size := (if rg = 0 then e.tiles else if rg = 1 then e.ckTiles else e.logTiles) * tileBytes
  let addr := e.base + first * tileBytes + off
  let inside := min d.itemBytes (size - off)
  let zero := (rg == 0 && e.zero) || (rg == 1 && e.ckptZero)
  let live := if !d.loads then inside else if zero then 0 else if rg = 2 then min inside (logged - off) else inside
  devPieces addr loc live 2 ++
    (if live < inside then [{ loc := loc + live, len := inside - live, side := .zero (addr + live) 2 }] else []) ++
    ((runs tileBytes ((addr + inside : Nat) : Int) (d.itemBytes - inside)).map (fun r =>
      { loc := loc + inside + (r.1 - ((addr + inside : Nat) : Int)).toNat, len := r.2, side := .bad 8 0xFFFF (low64 r.1) 2 })) ++
    tailPiece d loc d.itemBytes

/-- The stream that a token record of an index region names, and its entry when it is open in the step's context. -/
def State.namedStream (s : State) (core : Nat) (x : Running) (d : Desc) (i : Nat) : Nat × Option Strm :=
  let n := streamLe (s.rows core) d.indexReg.first (16 * (i * x.img.tps)) 2
  (n, (s.strms.get? n).filter (fun e => e.ctx == x.r.ctx))

/-- Notes the streams whose STATE or CHECKPOINT region a MOVE writes (R180). -/
def State.noteWrites (s : State) (core : Nat) (x : Running) (d : Desc) : State :=
  if d.other ≠ 5 ∨ d.loads then s
  else
    let rg := d.remote / 2 ^ 46
    let hit := (List.range (d.scaled d.count x.q.batch)).filterMap (fun i =>
      let e := s.namedStream core x d i
      if e.2.any (fun y => decide (d.remote % 2 ^ 46 < (if rg = 0 then y.tiles else y.ckTiles) * tileBytes)) then some (e.1, rg) else none)
    s.modStep x.n (fun r => { r with wrote := r.wrote ++ hit })

/-- Pieces of a MOVE with a STATE side (R176). A stream that is not open in the context is another's resource (R224). -/
def State.statePieces (s : State) (core : Nat) (x : Running) (d : Desc) : List Piece :=
  (List.range (d.scaled d.count x.q.batch)).flatMap (fun i =>
    let loc := d.localReg.first * 512 + i * (cdiv d.itemBytes 512 * 512)
    match (s.namedStream core x d i).2 with
    | some e => stateItem d e loc
    | none => { loc := loc, len := d.itemBytes, side := .bad 4 0xFFFF (d.remote % 2 ^ 46) 2 } :: tailPiece d loc d.itemBytes)

/- KV walks and appends. -/

/-- The page that serves a group and lane of a sequence in a step: its provisional page, else the entry's (R199, R205). -/
def KvPool.pageOf (k : KvPool) (r : StepRec) (rec group lane : Nat) : Option Nat :=
  match r.prov.find? (fun p => p.record == rec && p.group == group && p.lane == lane) with
  | some p => some p.page
  | none => (k.seqs.get? rec).bind (fun q => k.entry q group lane)

/-- The committed KV length and the sequence record of sequence i of a KV_WALK side (R158, R198). A stream that is not open in the context
is another's resource and gives no record (R224). -/
def State.walkSeq (s : State) (core : Nat) (x : Running) (d : Desc) (i : Nat) : Nat × Option Nat :=
  (streamLe (s.rows core) d.indexReg.first (16 * (i * x.img.tps) + 8) 4, (s.namedStream core x d i).2.map (·.kvSeq))

/-- Pieces of one half of a slot (keys or values): runs of positions p, cut at pages, of `item` bytes each (R190, R199). The runs of another
context's stream violate with kind 4 (R224, R421). -/
def kvHalf (k : KvPool) (r : StepRec) (rec : Option Nat) (lane item half p n loc : Nat) : List Piece :=
  (runs k.p ((p : Nat) : Int) n).flatMap (fun q =>
    let a := q.1.toNat
    let at' := loc + (a - p) * item
    match rec with
    | none => [{ loc := at', len := q.2 * item, side := .bad 4 0xFFFF lane 1 }]
    | some c =>
      match k.pageOf r c (a / k.p) lane with
      | some g => devPieces ((k.base + g * 16384 + half * 8192 + a % k.p * item : Nat) : Int) at' (q.2 * item) 1
      | none => [{ loc := at', len := q.2 * item, side := .zero 0 9 }])

/-- Pieces of a read walk (R198, R199); outside a ring the slots end with LENGTH. -/
def State.walkPieces (s : State) (core : Nat) (x : Running) (d : Desc) (k : KvPool) : List Piece :=
  let lane := d.remote % 65536
  let blk := d.stride
  let half := cdiv (blk * d.itemBytes) 512 * 512
  let base := d.localReg.first * 512
  let ring := d.localReg.rows * 512 / (2 * half)
  let blocks := (List.range (d.scaled d.count x.q.batch)).flatMap (fun i =>
    let q := s.walkSeq core x d i
    let lt := if x.img.appendLanes.contains lane then q.1 + x.img.tps else q.1
    let win := d.remote / 65536 % 2 ^ 30
    let b0 := if d.remote / 2 ^ 46 = 1 then (q.1 + 1 - win) / blk else 0
    (List.range (cdiv lt blk - b0)).map (fun j => (i, b0 + j, lt, q.2)))
  let slot (m : Nat) (b : Nat × Nat × Nat × Option Nat) : List Piece :=
    let loc := base + (if d.ring then m % ring else m) * (2 * half)
    let n := min blk (b.2.2.1 - b.2.1 * blk)
    let pad (at' : Nat) : List Piece :=
      if n * d.itemBytes < half then [{ loc := at' + n * d.itemBytes, len := half - n * d.itemBytes, side := .zero 0 9 }] else []
    let body := kvHalf k x.r b.2.2.2 lane d.itemBytes 0 (b.2.1 * blk) n loc ++ pad loc ++
      kvHalf k x.r b.2.2.2 lane d.itemBytes 1 (b.2.1 * blk) n (loc + half) ++ pad (loc + half)
    if d.ring then
      [{ loc := loc, len := 0, side := .slotWait }] ++ body ++ [{ loc := loc, len := 0, side := .slotEnd b.1 b.2.1 b.2.2.1 (loc / 512) }]
    else body
  let all := (blocks.zipIdx).flatMap (fun p => slot p.2 p.1)
  if d.ring then all
  else all.filterMap (fun p =>
    if p.loc + p.len ≤ base + d.length then some p
    else if base + d.length ≤ p.loc then none else some { p with len := base + d.length - p.loc })

/-- Pieces of an append (R200): it writes neither a shared page nor a committed position. -/
def State.appendPieces (s : State) (core : Nat) (x : Running) (d : Desc) (k : KvPool) : List Piece :=
  let lane := d.remote % 65536
  let t := x.img.tps
  let cnt := d.scaled d.count x.q.batch
  let rows := cdiv (d.itemBytes / (fmtWidth d.moveFmt / 8)) (elemsPerRow d.moveFmt)
  (List.range (cnt * t)).flatMap (fun m =>
    let q := s.walkSeq core x d (m / t)
    let p := q.1 + m % t
    let loc := (d.localReg.first + m * rows) * 512
    let fresh := decide ((q.2.bind (fun c => (k.seqs.get? c).map (·.length))).getD 0 ≤ p)
    match q.2.map (fun c => (k.pageOf x.r c (p / k.p) lane).filter (fun g => fresh && decide (AList.getD k.counts g 0 ≤ 1))) with
    | none => [{ loc := loc, len := d.itemBytes, side := .bad 4 0xFFFF lane 1 },
        { loc := loc + cnt * t * rows * 512, len := d.itemBytes, side := .bad 4 0xFFFF lane 1 }]
    | some none => []
    | some (some g) =>
      let a := k.base + g * 16384 + p % k.p * d.itemBytes
      devPieces ((a : Nat) : Int) loc d.itemBytes 1 ++ devPieces ((a + 8192 : Nat) : Int) (loc + cnt * t * rows * 512) d.itemBytes 1)

/-- All pieces of a MOVE, fixed when it issues: its index list and its token records are read then. -/
def State.movePieces (s : State) (core : Nat) (x : Running) (d : Desc) : List Piece :=
  let base := d.localReg.first * 512
  if d.other = 5 then s.statePieces core x d
  else if d.other = 4 then
    match s.kv? x.r.ctx with
    | some k => if d.loads then s.walkPieces core x d k else s.appendPieces core x d k
    | none => []
  else if d.gather then
    (List.range (d.scaled d.count x.q.batch)).flatMap (fun i =>
      let ix := decodeInt 8 (streamLe (s.rows core) d.indexReg.first (4 * i) 4)
      let loc := base + i * (cdiv d.itemBytes 512 * 512)
      s.sidePieces core x d (ix * d.stride) loc d.itemBytes ++ tailPiece d loc d.itemBytes)
  else s.sidePieces core x d 0 base d.length ++ tailPiece d base d.length

/- Progress. -/

/-- The digest that bytes of a piece count toward, by R446; 8 for none. Category 4 is a HOST segment reached by DEVICE. -/
def digestCat (loads model : Bool) (cat : Nat) : Nat :=
  match cat with
  | 0 => if loads then (if model then 1 else 4) else 7
  | 1 => if loads then 3 else 7
  | 2 => if loads then 2 else 6
  | 3 => if loads then 0 else 5
  | 4 => if loads then 0 else 7
  | _ => 8

def State.isModel (s : State) (ctx addr : Nat) : Bool := (s.seg ctx (segOf addr)).any (fun g => g.kind == .model)

/-- The address under which R446 counts bytes of a window. -/
def winAddr (win off : Nat) : Nat := win * 2 ^ 48 + off

/-- Keeps the host-window blocks that a captured step reads, as the first read returned them (R445, FULL mode). -/
def State.notePages (s : State) (n ctx win off : Nat) (b : Bytes) : State :=
  if !(((s.ctx ctx).map (fun (c : Ctx) => c.replay.active && c.replay.full)).getD false) then s
  else s.modStep n (fun r =>
    { r with pages := (runs 64 ((off : Nat) : Int) b.length).foldl (fun (l : AList Bytes) (q : Int × Nat) =>
        let a := q.1.toNat
        let key := win * 2 ^ 64 + a / 64
        if l.has key then l
        else l.set key (fixLen 64 (List.replicate (a % 64) 0#8 ++ (b.drop (a - off)).take q.2))) r.pages })

def moveSite (core idx : Nat) (d : Desc) : Site := { core := some core, tag := d.opTag, desc := some idx }

def State.modMove (s : State) (core idx : Nat) (f : MoveProg → MoveProg) : State :=
  s.modFlight core idx (fun x => { x with move := x.move.map f })

def State.moveOf (s : State) (core idx : Nat) : Option MoveProg := (s.flight core idx).bind (·.move)

/-- A violating request of a MOVE: it is counted, and the first one of its descriptor is logged (R224). -/
def State.moveViol (s : State) (core idx ctx : Nat) (d : Desc) (n kind win addr : Nat) : State :=
  if n = 0 then s
  else
    let t := s.countViol ctx n
    if ((t.moveOf core idx).map (·.viol)).getD false then t
    else (t.logViol ctx (moveSite core idx d) kind win addr).modMove core idx (fun m => { m with viol := true })

/-- Bytes that a load lands at a scratchpad place. -/
def State.land (s : State) (core loc : Nat) (b : Bytes) : State := s.modScratch core (fun p => p.writeBytes loc b)

/-- The number under which a MOVE holds the epoch of its pool (R208). -/
def holdId (step core idx : Nat) : Nat := (step * 8 + core) * 2 ^ 32 + idx

/-- Whether a MOVE has moved everything: no piece is left and no answer is awaited. -/
def InFlight.moved (f : InFlight) : Bool := f.acks == 0 && f.move.any (fun m => m.pieces.isEmpty && m.out == 0)

/-- Releases what a MOVE holds once it has moved everything: its pins, its epoch and what the host interface holds for it (R208, R231, R379, R380). -/
def State.settleMove (s : State) (core idx : Nat) : State :=
  match s.current core, s.flight core idx with
  | some x, some f =>
    if !f.moved then s
    else
      let t := (f.move.elim [] (·.pins)).foldl (fun (u : State) (p : Nat × Nat) => u.unpinTile x.r.ctx p.1 p.2) s
      let u := ({ t with link := t.link.purge (ReadFor.ofMove core idx) } : State).modMove core idx (fun m => { m with pins := [] })
      if f.desc.other = 4 then
        u.modKv x.r.ctx (fun k => ({ k with holds := k.holds.filter (fun h => h.2 != holdId x.n core idx) } : KvPool).release)
      else u
  | _, _ => s

/-- A MOVE that meets a fault does no more of its pieces (R77). -/
def State.failMove (s : State) (core idx : Nat) (d : Desc) (cls st : Nat) : State :=
  (s.raise core (descFault core idx d cls st)).modMove core idx (fun m => { m with pieces := [] })

/-- Host and scratchpad reads that a core awaits (R115). -/
def State.readTags (s : State) (core : Nat) : Nat :=
  match (s.lc core).seqr with
  | some q => (q.inflight.map (fun f => f.move.elim 0 (·.out))).sum
  | none => 0

/-- The tile of a piece. -/
def Piece.tile (p : Piece) : Option (Nat × Nat) :=
  match p.side with
  | .dev a _ => some (segOf a, tileOf a)
  | .ridge a _ => some (segOf a, tileOf a)
  | _ => none

/-- A piece is done: the next becomes the first, and pins on tiles that it does not use are released (R231). -/
def State.pieceDone (s : State) (core idx ctx : Nat) (m : MoveProg) : State :=
  let rest := m.pieces.drop 1
  let keep := (rest.head?).bind Piece.tile
  let gone := m.pins.filter (fun p => keep != some p)
  (gone.foldl (fun (u : State) (p : Nat × Nat) => u.unpinTile ctx p.1 p.2) s).modMove core idx (fun y =>
    { y with pieces := rest, pins := m.pins.filter (fun p => keep == some p) })

/-- A piece that violates: a load lands zeros, a store is dropped (R224, R446). -/
def State.pieceViol (s : State) (core idx : Nat) (x : Running) (d : Desc) (m : MoveProg) (p : Piece) (kind win addr cat blk : Nat) : State :=
  let t := s.moveViol core idx x.r.ctx d 1 kind win addr
  let z := List.replicate p.len 0#8
  let a := if win = 0xFFFF then addr else winAddr win addr
  let u := if m.loads then
      (t.land core p.loc z).addDigest x.n (digestCat true (s.isModel x.r.ctx addr) cat) a blk
        (if blk = 180 then List.replicate (p.len / 256 * 180) 0#8 else z)
    else t
  u.pieceDone core idx x.r.ctx m

/-- A piece that waits for its tile keeps the pin that it has been given (R231). -/
def State.pieceWait (s : State) (core idx : Nat) (m : MoveProg) (p : Piece) (pinned : Bool) : State :=
  match p.tile with
  | some t => if pinned && !m.pins.contains t then s.modMove core idx (fun y => { y with pins := t :: y.pins }) else s
  | none => s

def Piece.held (p : Piece) (m : MoveProg) : Bool := p.tile.any m.pins.contains

/-- Expands the stored Ridge blocks of a run: the BF16 bytes, and how many blocks fail (R249, R264). -/
def State.expandRun (s : State) (b : Bytes) : Bytes × Nat :=
  let bs := (List.range (b.length / 180)).map (fun i => ridgeParse ((b.drop (i * 180)).take 180))
  (bs.flatMap (fun r => ridgeExpand r (s.cmp.gen (r.slot * 4 + r.gen)).table),
    (bs.filter (fun r => !(r.ok && (s.cmp.gen (r.slot * 4 + r.gen)).state != .free))).length)

/-- Ridge blocks fail (R264): each is counted; in a DRAM copy they are an error of that copy, in a stream-through read a failed digest. -/
def State.ridgeFailed (s : State) (core idx ctx : Nat) (d : Desc) (addr n : Nat) : State :=
  let t := ({ s with cmp := { s.cmp with ridgeFail := satPlus s.cmp.ridgeFail n } } : State).cmpEvent 2
  let r := match t.seg ctx (segOf addr), t.tile ctx (segOf addr) (tileOf addr) with
    | some g, some x => if x.st = TileSt.lower then t.masterFailed ctx (segOf addr) (tileOf addr) g.handle x else t.copyLost ctx (segOf addr) (tileOf addr)
    | _, _ => t.copyLost ctx (segOf addr) (tileOf addr)
  r.1.failMove core idx d r.2.1 r.2.2

/-- Works on the first piece of a MOVE: the state, and whether the next piece may follow at once. The pieces of a gathered LOCAL to LOCAL MOVE
are read and written in turn, so a later item sees what an earlier one landed (R87; DESIGN CHOICE, notes/assumptions/50.md). -/
def State.pieceStep (s : State) (core idx : Nat) (x : Running) (d : Desc) (m : MoveProg) (p : Piece) : State × Bool :=
  let ctx := x.r.ctx
  let me := s.station core
  match p.side with
  | .dev a cat =>
    let r := if m.loads then s.devRead ctx x.r.ord a p.len (p.held m) false
      else s.devWrite ctx x.r.ord a ((s.scratch core).readBytes p.loc p.len) (p.held m)
    match r with
    | .ok t b =>
      let data := if m.loads then b else (s.scratch core).readBytes p.loc p.len
      let u := if m.loads then t.land core p.loc b else t
      ((u.addDigest x.n (digestCat m.loads (s.isModel ctx a) cat) a 64 data).pieceDone core idx ctx m, true)
    | .wait t pinned => (t.pieceWait core idx m p pinned, false)
    | .viol k => (s.pieceViol core idx x d m p k 0xFFFF a cat 64, true)
    | .host w off =>
      (s.modMove core idx (fun y => { y with pieces := s.winPieces ctx m.loads w off p.loc p.len 4 ++ y.pieces.drop 1 }), true)
    | .lost t cls st => (t.failMove core idx d cls st, false)
  | .ridge a n =>
    match s.devRead ctx x.r.ord a (n * 180) (p.held m) true with
    | .ok t b =>
      let e := t.expandRun b
      if e.2 = 0 then (((t.land core p.loc e.1).addDigest x.n 1 a 180 b).pieceDone core idx ctx m, true)
      else (t.ridgeFailed core idx ctx d a e.2, false)
    | .wait t pinned => (t.pieceWait core idx m p pinned, false)
    | .viol k => (s.pieceViol core idx x d m p k 0xFFFF a 0 180, true)
    | .host _ _ => (s.pieceViol core idx x d m p 5 0xFFFF a 0 180, true)
    | .lost t cls st => (t.failMove core idx d cls st, false)
  | .win w off cat last =>
    if m.loads then
      if 256 ≤ s.readTags core then (s, false)
      else (((s.inject me hostStation (.hostRead core idx p.loc w off p.len)).pieceDone core idx ctx m).modMove core idx
        (fun y => { y with out := y.out + 1 }), true)
    else
      (((s.inject me hostStation (.hostWrite core idx w off ((s.scratch core).readBytes p.loc p.len) cat last)).pieceDone core idx ctx m).modFlight
        core idx (fun y => { y with acks := y.acks + 1 }), true)
  | .peer k a =>
    if m.loads then
      if 256 ≤ s.readTags core then (s, false)
      else (((s.inject me (s.station k) (.peerRead k a p.len core idx p.loc)).pieceDone core idx ctx m).modMove core idx
        (fun y => { y with out := y.out + 1 }), true)
    else
      (((s.inject me (s.station k) (.peerWrite k a ((s.scratch core).readBytes p.loc p.len) core idx)).pieceDone core idx ctx m).modFlight
        core idx (fun y => { y with acks := y.acks + 1 }), true)
  | .own a =>
    let t := if m.loads then s.land core p.loc ((s.scratch core).readBytes a p.len)
      else s.land core a ((s.scratch core).readBytes p.loc p.len)
    (t.pieceDone core idx ctx m, true)
  | .zero a cat =>
    let z := List.replicate p.len 0#8
    (((if m.loads then s.land core p.loc z else s).addDigest x.n (digestCat m.loads false cat) a 64 z).pieceDone core idx ctx m, true)
  | .bad kind w a cat => (s.pieceViol core idx x d m p kind w a cat 64, true)
  | .slotWait =>
    let half := cdiv (d.stride * d.itemBytes) 512
    let full := (AList.getD (s.lc core).rings (d.fld 20 31 0) []).length
    let attn := x.q.inflight.any (fun f => f.desc.kind == 3 && f.desc.fld 20 31 0 == d.fld 20 31 0)
    if attn || decide (full < d.localReg.rows / (2 * half)) then (s.pieceDone core idx ctx m, true) else (s, false)
  | .slotEnd sq blk lt row =>
    if m.out ≠ 0 then (s, false)
    else
      let n := 2 * cdiv (d.stride * d.itemBytes) 512
      let sl : RingSlot := { seq := sq, blk := blk, lt := lt, rows := (List.range n).map (fun i => (s.scratch core).row (row + i)) }
      ((s.modLc core (fun l => { l with rings := AList.push l.rings (d.fld 20 31 0) sl })).pieceDone core idx ctx m, true)

/-- Works on the pieces of a MOVE until one must wait. -/
def State.pumpN : Nat → State → Nat → Nat → State
  | 0, s, _, _ => s
  | fuel + 1, s, core, idx =>
    match s.current core, s.flight core idx with
    | some x, some f =>
      match f.move with
      | none => s
      | some m =>
        match m.pieces with
        | [] => s
        | p :: _ =>
          let r := s.pieceStep core idx x f.desc m p
          if r.2 then State.pumpN fuel r.1 core idx else r.1
    | _, _ => s

/-- Pieces that a MOVE can still need: a HOST segment's piece becomes up to 257 requests. -/
def State.pump (s : State) (core idx : Nat) : State :=
  match s.moveOf core idx with
  | none => s
  | some m => (State.pumpN (m.pieces.length * 300 + 1) s core idx).settleMove core idx

/-- The MOVEs in flight of a core go on as far as they can, in issue order. -/
def State.wakeCore (s : State) (core : Nat) : State :=
  match (s.lc core).seqr with
  | none => s
  | some q => (q.inflight.filter (fun f => f.move.isSome)).foldl (fun (t : State) f => t.pump core f.idx) s

/-- The tier ports whose MOVEs have work, in the order of the round-robin: the physical ports after the one granted last, ascending (R29).
A port goes with the logical core that it carries and that core's MOVEs in flight, in issue order. -/
def State.portsInTurn (s : State) : List (Nat × Nat × List Nat) :=
  (List.range 9).filterMap (fun i =>
    let p := (s.tier.port + 1 + i) % 9
    match (s.carried p).bind (fun c => (s.lc c).seqr.map (fun q => (c, (q.inflight.filter (fun f => f.move.isSome)).map (·.idx)))) with
    | some (c, x :: t) => some (p, c, x :: t)
    | _ => none)

/-- One grant after another, each to the next port of the round-robin, until every request waits. With nine ports no request waits more
than 8 grants, so none reaches the limit of 32 (R29). -/
def State.pumpPorts : Nat → State → List (Nat × Nat × List Nat) → State
  | 0, s, _ => s
  | _ + 1, s, [] => s
  | fuel + 1, s, (_, _, []) :: rest => State.pumpPorts fuel s rest
  | fuel + 1, s, (p, c, i :: t) :: rest =>
    match s.current c, s.flight c i with
    | some x, some f =>
      match f.move.bind (fun m => m.pieces.head?.map (fun y => (m, y))) with
      | none => State.pumpPorts fuel (s.settleMove c i) ((p, c, t) :: rest)
      | some (m, y) =>
        let r := s.pieceStep c i x f.desc m y
        if r.2 then State.pumpPorts fuel { r.1 with tier := { r.1.tier with port := p } } (rest ++ [(p, c, i :: t)])
        else State.pumpPorts fuel (r.1.settleMove c i) ((p, c, t) :: rest)
    | _, _ => State.pumpPorts fuel s ((p, c, t) :: rest)

/-- Pieces that a core's MOVEs can still need. -/
def State.pumpFuel (s : State) (c : Nat) : Nat :=
  match (s.lc c).seqr with
  | some q => (q.inflight.map (fun f => f.move.elim 0 (fun m => m.pieces.length * 300 + 2))).sum + 1
  | none => 0

/-- Every MOVE in flight goes on as far as it can, the ports in turn (R29), and prefetches that waited ask again. -/
def State.wakeAll (s : State) : State :=
  (State.pumpPorts (((List.range 8).map s.pumpFuel).sum + 10) s s.portsInTurn).retryWants

/- Messages where they land. -/

/-- An awaited read of a MOVE has landed. -/
def State.readLanded (s : State) (core idx loc : Nat) (b : Bytes) : State :=
  ((s.land core loc b).modMove core idx (fun m => { m with out := m.out - 1 })).wakeCore core

def State.acked (s : State) (core idx : Nat) : State :=
  (s.modFlight core idx (fun f => { f with acks := f.acks - 1 })).settleMove core idx

/-- A request of a window write: in a bounce window, the units that the MOVE's access has filled are sealed, and with its last request the rest
(R118, R380). -/
def State.writeRequestAt (s : State) (x : Running) (core idx win off : Nat) (b : Bytes) (last : Bool) : WinWrite :=
  if !s.isConf x.r.ctx then s.winWrite x.r.ctx win off (some x.r.seq) b
  else
    let mine (q : SealBuf) : Bool := q.core == core && q.desc == idx
    let buf := (s.link.seals.find? mine).getD { core := core, desc := idx, win := win, off := off, data := [] }
    let all := buf.data ++ b
    let n := if last then all.length else all.length / sealedUnit * sealedUnit
    let rest := if n = all.length then [] else [{ buf with off := buf.off + n, data := all.drop n }]
    let t : State := { s with link := { s.link with seals := s.link.seals.filter (fun q => !mine q) ++ rest } }
    if n = 0 then { s := t, viol := 0, bad := none, rekeyFail := false } else t.winWrite x.r.ctx win buf.off (some x.r.seq) (all.take n)

/-- A window write at the host interface (R118, R380, R381), answered by its acknowledgement. -/
def State.hostWriteAt (s : State) (core idx win off : Nat) (b : Bytes) (cat : Nat) (last : Bool) : State :=
  match s.current core, s.flight core idx with
  | some x, some f =>
    let w := s.writeRequestAt x core idx win off b last
    let good := if w.viol = 0 then b.length else insideLen ((s.ctx x.r.ctx).bind (fun (c : Ctx) => c.window? win)) off b.length
    let t := (w.s.addDigest x.n (digestCat false false cat) (winAddr win off) 64 (b.take good)).moveViol core idx x.r.ctx f.desc w.viol 3
      win (w.bad.getD 0)
    let u := if w.rekeyFail then t.raise core (descFault core idx f.desc 10 stSecRekeyFail) else t
    u.inject hostStation (u.station core) (.ack core idx)
  | _, _ => s

/-- The bytes of a window read reach the tile: they count for the digests and travel to the core. -/
def State.windowData (s : State) (x : Running) (core idx loc win off : Nat) (b : Bytes) : State :=
  ((s.addDigest x.n 0 (winAddr win off) 64 b).notePages x.n x.r.ctx win off b).inject hostStation (s.station core)
    (.readData core idx loc b)

/-- Units that n payload bytes at an offset touch (R377). -/
def sealedUnits (off n : Nat) : List Nat :=
  (List.range (if n = 0 then 0 else (off + n - 1) / sealedUnit + 1 - off / sealedUnit)).map (· + off / sealedUnit)

/-- The payload of a unit that has been opened for a MOVE. -/
def State.openedFor (s : State) (core idx win u : Nat) : Option Bytes :=
  (s.link.units.find? (fun o => o.core == core && o.desc == idx && o.win == win && o.unit == u)).map (·.data)

/-- Units of a request that are neither opened for its MOVE nor on their way (R379). -/
def State.unitsToFetch (s : State) (core idx win off n : Nat) : List Nat :=
  (sealedUnits off n).filter (fun u => (s.openedFor core idx win u).isNone &&
    !s.link.reads.any (fun p => p.2.who == .unit core idx && p.2.win == win && p.2.off == u * sealedUnit))

/-- Answers the requests of a MOVE whose units are all open (R118, R379). -/
def State.serveAsks (s : State) (x : Running) (core idx : Nat) : State :=
  (s.link.asks.filter (fun a => a.core == core && a.desc == idx)).foldl (fun (t : State) a =>
    let us := (sealedUnits a.off a.len).map (t.openedFor core idx a.win)
    if us.all (·.isSome) then
      ({ t with link := { t.link with asks := t.link.asks.erase a } } : State).windowData x core idx a.loc a.win a.off
        ((((us.map (·.getD [])).flatten).drop (a.off % sealedUnit)).take a.len)
    else t) s

/-- A request of a MOVE to a bounce window: it waits for its units, each of which is fetched whole once for the MOVE (R379). -/
def State.bounceAsk (s : State) (x : Running) (core idx loc win off len : Nat) : State :=
  let t := (s.unitsToFetch core idx win off len).foldl (fun (u : State) k =>
    (u.fetchWin (.unit core idx) x.r.ctx win (k * sealedUnit) sealedUnit).getD u) s
  let a : Ask := { core := core, desc := idx, loc := loc, win := win, off := off, len := len }
  ({ t with link := { t.link with asks := t.link.asks ++ [a] } } : State).serveAsks x core idx

/-- A window read at the host interface (R118, R357, R379): its bytes outside the window read zero. -/
def State.hostReadAt (s : State) (core idx loc win off len : Nat) : State :=
  match s.current core, s.flight core idx with
  | some x, some f =>
    match s.ctx x.r.ctx with
    | none => s
    | some c =>
      let good := (c.span win off len).2.2
      let t := if good < len then s.moveViol core idx x.r.ctx f.desc 1 3 win (off + good) else s
      if good = 0 then t.windowData x core idx loc win off (List.replicate len 0#8)
      else if c.confidential then t.bounceAsk x core idx loc win off len
      else (t.fetchWin (.request core idx loc) x.r.ctx win off len).getD t
  | _, _ => s

/-- Read tags that a window read of a MOVE needs (R330, R357). -/
def State.tagsFor (s : State) (core idx win off len : Nat) : Nat :=
  match (s.current core).bind (fun x => (s.ctx x.r.ctx).bind (fun c => (c.window? win).map (fun w => (c, w)))) with
  | none => 0
  | some (c, w) =>
    let cost (o n : Nat) : Nat := let sp := c.span win o n; (readPieces (w.addr + sp.1) sp.2.1).length
    if c.confidential then ((s.unitsToFetch core idx win off len).map (fun u => cost (u * sealedUnit) sealedUnit)).sum else cost off len

/-- Whether a message can be taken where it lands: a window read needs tags (R330, R357). -/
def State.canLand (s : State) : Msg → Bool
  | .hostRead core idx _ win off len => decide (s.tagsFor core idx win off len ≤ s.freeTags)
  | _ => true

/-- What a message does where it lands; those that an event of their own acts on wait for it. -/
def State.arrive (s : State) (m : Msg) : State :=
  match m with
  | .peerWrite dst a b frm desc => (s.land dst a b).inject (s.station dst) (s.station frm) (.ack frm desc)
  | .peerRead dst a n frm desc loc =>
    s.inject (s.station dst) (s.station frm) (.readData frm desc loc ((s.scratch dst).readBytes a n))
  | .readData dst desc loc b => s.readLanded dst desc loc b
  | .ack dst desc => s.acked dst desc
  | .hostWrite frm desc win off b cat last => s.hostWriteAt frm desc win off b cat last
  | .hostRead frm desc loc win off n => s.hostReadAt frm desc loc win off n
  | _ => s.landMsg m

/-- Requests of a MOVE that land poisoned: its step faults (R118, R358). -/
def State.failReads (s : State) (core idx k : Nat) : State :=
  match s.flight core idx with
  | some f =>
    ((s.raise core (descFault core idx f.desc 4 stDmaPoison)).modMove core idx (fun m => { m with out := m.out - k, pieces := [] })).settleMove core idx
  | none => s

/-- A host read has failed (R358). -/
def State.readDied (s : State) (r : LinkRead) : State :=
  match r.who with
  | .request core idx _ => s.failReads core idx 1
  | .unit core idx =>
    let hit (a : Ask) : Bool := a.core == core && a.desc == idx && a.win == r.win && (sealedUnits a.off a.len).contains (r.off / sealedUnit)
    ({ s with link := { s.link with asks := s.link.asks.filter (fun a => !hit a) } } : State).failReads core idx (s.link.asks.filter hit).length
  | .copy n _ => s.modStep n (fun y => { y with job := { y.job with failed := true } })
  | .fork fid _ => s.modCmd fid (fun y => { y with job := { y.job with failed := true } })

/-- The STEP_SEQ of the step that a host read is made for (R379). -/
def State.seqOf (s : State) (w : ReadFor) : Option Nat :=
  match w with
  | .request core _ _ => (s.current core).map (fun x => x.r.seq)
  | .unit core _ => (s.current core).map (fun x => x.r.seq)
  | .copy n _ => (s.step? n).map (·.seq)
  | .fork _ _ => none

/-- A host read has brought all its bytes (R118, R222, R379). -/
def State.landRead (s : State) (r : LinkRead) : State :=
  match s.readBytes r (s.seqOf r.who) with
  | (none, t) => (t.readFailed true).readDied r
  | (some b, t) =>
    match r.who with
    | .request core idx loc =>
      (match t.current core, t.flight core idx with
        | some x, some _ => t.windowData x core idx loc r.win r.off b
        | _, _ => t)
    | .unit core idx =>
      let o : OpenedUnit := { core := core, desc := idx, win := r.win, unit := r.off / sealedUnit, data := b }
      let u : State := { t with link := { t.link with units := t.link.units ++ [o] } }
      (match u.current core with
        | some x => u.serveAsks x core idx
        | none => u)
    | .copy n i => t.modStep n (fun y => { y with job := y.job.setGot i b })
    | .fork fid i => t.modCmd fid (fun y => { y with job := y.job.setGot i b })

/-- The answer of a read request: its tag is free, and its bytes go to the read it belongs to, which ends with its last request or fails with
its first failure (R118, R357, R358). -/
def State.hostReadDone (s : State) (tag : Nat) (r : HostRead) : State :=
  match s.link.tags.get? tag with
  | none => s
  | some q =>
    let t : State := { s with link := { s.link with tags := s.link.tags.erase tag } }
    let u : State := match r with
      | .ok _ => t
      | .expired => t.readFailed false
      | .poisoned => t.readFailed true
    match t.link.reads.get? q.read with
    | none => u
    | some g =>
      let without : State := { u with link := { u.link with reads := u.link.reads.erase q.read } }
      match r with
      | .ok b =>
        let h : LinkRead := { g with parts := g.parts.set q.part (some (fixLen q.len b)) }
        if h.parts.all (·.isSome) then without.landRead h else { t with link := { t.link with reads := t.link.reads.set q.read h } }
      | _ => without.readDied g

end Sys2Proof.Machine
end

