-- ==== Sys2Proof/Machine/SchedCmds.lean ====
section
/-!
DEFINITION. Machine/SchedCmds.lean: loading and unloading schedule images (R131 to R133, R140, R142, R146 to R148) and the submission of
steps (R154 to R157, R181, R358).
-/
namespace Sys2Proof.Machine

/-- What the schedule commands may change beside the parts of a completion. -/
def State.schedCmd (s r : State) : State :=
  { s.cplOf r with images := r.images, pcores := r.pcores, tier := r.tier, dram := r.dram, cmp := r.cmp, pf := r.pf, link := r.link }

/-- A refused SCHED_LOAD: HANDLE 0, and the place where a check failed (R147, R350). -/
def State.loadRefused (s : State) (c : Cmd) (e : ImgErr) : State :=
  s.complete c.fid e.status.toNat (resultAt [(12, toLe e.sect 1), (13, toLe e.core 1), (16, toLe e.index 4)])

/-- The place of an entry of a section of an image. -/
def imgPlace (b : Bytes) (st : BitVec 8) (typ core idx : Nat) : ImgErr :=
  { status := st, sect := (findSect (readSections b) typ core).getD 0xFF, core := core, index := idx }

/-- The lowest handle slot that is free and not retired (R131, R480; notes/assumptions/24.md). -/
def Images.freeSlot (t : Images) : Option Nat :=
  (List.range 8192).find? (fun k => !t.imgs.has k && decide (AList.getD t.nextGen k 0 < 2 ^ 19))

/-- The lowest core of an image that check 3 of R146 denies to a context. -/
def State.deniedCore (s : State) (x : Ctx) (i : Image) : Option Nat :=
  i.cores.find? (fun k => (x.isolated && !x.cores.testBit k) || (s.carrier k).isNone ||
    s.ctxs.any (fun p => p.2.isolated && p.2.cores.testBit k && s.owner p.2.func != s.owner x.func))

/-- Check 10 of R146: the first footprint entry that overlaps a resident region of another context (R109). -/
def State.scratchTaken (s : State) (ctx : Nat) (i : Image) : Option (Nat × Nat) :=
  let others := (s.ctxs.filter (fun p => p.1 != ctx)).flatMap (fun p => p.2.residents)
  i.cores.findSome? (fun k => ((i.foot k).findIdx? (fun e => others.any (fun r => r.1 / 65536 == k &&
    (Region.mk e.first e.rows).overlaps (Region.mk r.2.first r.2.rows)))).map (fun j => (k, j)))

/-- Assigns a Belay counter to each token on each of its targets, the lowest free ones (check 11 of R146, R148): the counters by
core × 65,536 + token, or the core and the entry that find none. -/
def State.assignCounters (s : State) (i : Image) : Except (Nat × Nat) (AList Nat) :=
  let held (k : Nat) : List Nat := s.images.imgs.flatMap (fun p => (p.2.counterOf.filter (fun q => q.1 / 65536 == k)).map (·.2))
  (i.tokens.zipIdx).foldl (fun (acc : Except (Nat × Nat) (AList Nat)) (p : TokenEntry × Nat) =>
    (bitsSet p.1.targets).foldl (fun (a : Except (Nat × Nat) (AList Nat)) (k : Nat) =>
      match a with
      | .error e => .error e
      | .ok l =>
        let used := held k ++ (l.filter (fun q => q.1 / 65536 == k)).map (·.2)
        match (List.range 1024).find? (fun n => !used.contains n) with
        | some n => .ok (l.set (k * 65536 + p.1.token) n)
        | none => .error (k, p.2)) acc) (.ok [])

/-- Holds for the decode tables of an image (check 12 of R146, R142): the state and the generations held; else the entry that cannot be
held, with whether the claim must wait. -/
def State.holdTables (s : State) : List Bytes → Nat → Except (Nat × Bool) (State × List Nat)
  | [], _ => .ok (s, [])
  | r :: rest, n =>
    match s.claimTable r none with
    | (none, w) => .error (n, w)
    | (some (t, g), _) =>
      match State.holdTables t rest (n + 1) with
      | .ok (u, gs) => .ok (u, g :: gs)
      | .error e => .error e

/-- Creates the resident regions of an image that its context does not have yet; their rows read zero (R140). -/
def State.makeResidents (s : State) (ctx : Nat) (i : Image) : State :=
  i.cores.foldl (fun (t : State) (k : Nat) => ((i.foot k).filter (fun e => e.kind == 1)).foldl (fun (u : State) (e : FootEntry) =>
    let key := k * 65536 + e.rid
    if ((u.ctx ctx).map (fun (x : Ctx) => x.residents.has key)).getD true then u
    else
      let r : Resident := { first := e.first, rows := e.rows, reg := none, armed := false, lost := false, owed := false }
      (u.scrubRows k e.first e.rows).modCtx ctx (fun x => { x with residents := x.residents.set key r })) t) s

/-- Checks 10 to 14 of R146 and the admission itself. A claim that waits leaves `s`, the state before the row, but for what it reclaims. -/
def State.admitImage (s t : State) (c : Cmd) (x : Ctx) (b : Bytes) (i : Image) (slot : Nat) : State :=
  let ctx := c.ctxNo
  match t.scratchTaken ctx i with
  | some (k, j) => t.loadRefused c (imgPlace b 0x49 2 k j)
  | none =>
    match t.assignCounters i with
    | .error (k, j) => t.loadRefused c { imgPlace b 0x4A 3 0xFF j with core := k }
    | .ok counters =>
      match t.holdTables i.refs 0 with
      | .error (_, true) => s.cmpEvent 0
      | .error (j, false) => (t.cmpEvent 1).loadRefused c (imgPlace b 0x4B 4 0xFF j)
      | .ok (u, gens) =>
        if x.size < i.maxBatch then t.loadRefused c (ImgErr.plain 0x4C)
        else match u.claimTiles ctx (chargeImage slot) (i.tiles + i.workspace) with
          | .refused => t.loadRefused c (ImgErr.plain 0x4D)
          | .wait k => s.reclaimFor ctx k
          | .ok v =>
            let gen := AList.getD t.images.nextGen slot 0
            let img : Image :=
              { i.withFacts with gen := gen, ctx := ctx, counterOf := counters, gens := gens,
                                 digest := fixLen 48 (Config.sha384 (b.take (leAt b 8 4))) }
            let w : State := { v.storeImage ctx slot (b.take (leAt b 8 4)) with images := { v.images with imgs := v.images.imgs.set slot img } }
            (w.makeResidents ctx img).complete c.fid stOk (toLe (slot + 8192 * gen) 4)

/-- Checks 2 to 9 of R146 on an image whose check 1 has passed. -/
def State.takeImage (s t : State) (c : Cmd) (b : Bytes) : State :=
  match t.ctx c.ctxNo with
  | none => t
  | some x =>
    let i := parseImage b
    match t.images.freeSlot with
    | none => t.loadRefused c (ImgErr.plain 0x41)
    | some slot =>
      if 64 ≤ (t.images.imgs.filter (fun p => p.2.ctx == c.ctxNo)).length then t.loadRefused c (ImgErr.plain 0x41)
      else match t.deniedCore x i with
        | some k => t.loadRefused c { ImgErr.plain 0x42 with core := k }
        | none =>
          match checks4to9 b (x.residents.map (fun r => (r.1, (r.2.first, r.2.rows)))) with
          | some e => t.loadRefused c e
          | none => s.admitImage t c x b i slot

/-- What the COMMAND record of a SCHED_LOAD carries after the entry (R445): the image bytes as read, or their digest. -/
def State.recordImage (s : State) (c : Cmd) (b : Bytes) : State :=
  let full := ((s.ctx c.ctxNo).map (fun (x : Ctx) => x.replay.full)).getD false
  s.recordWaiting c (if full then b else fixLen 64 (Config.sha384 b))

/-- SCHED_LOAD (R131, R133, R146, R358): the header is read first, then the image when it lies within LENGTH. -/
def State.schedLoad (s : State) (c : Cmd) (r : HostRead) : State :=
  let ctx := c.ctxNo
  let win := c.fld 8 2
  let off := c.fld 16 8
  let len := c.fld 24 4
  let poisoned (t : State) : State := (t.faultCtx ctx 4 stDmaPoison).answer c stDmaPoison
  if len < 64 then s.loadRefused c (ImgErr.plain 0x40)
  else
    let h := s.winRead ctx win off 64 none r
    match h.data with
    | none => poisoned h.s
    | some hd =>
      let size := leAt hd 8 4
      let w := if size < 64 ∨ len < size ∨ 268435456 < size then h else h.s.winRead ctx win off size none r
      match w.data with
      | none => poisoned w.s
      | some b =>
        let t := (w.s.countViol ctx w.viol).recordImage c b
        match check1 b len with
        | some e => t.loadRefused c e
        | none => s.takeImage t c b

def execSchedLoad (fid : Nat) (image : HostRead) (s : State) : Result :=
  .next (s.schedCmd (s.runRead fid 0x02 stBadField (fun t c => t.schedLoad c image)))

/-- The handle slot that a command names, when it is an admitted image of its context (R131, R156 check 1). -/
def State.ownImage (s : State) (c : Cmd) : Option Image :=
  (s.images.imgs.get? (c.fld 8 4 % 8192)).filter (fun i => i.gen == c.fld 8 4 / 8192 && some i.ctx == c.ctx)

/-- SCHED_UNLOAD (R132). -/
def State.schedUnload (s : State) (c : Cmd) : State :=
  match s.ownImage c with
  | none => s.answer c stBadHandle
  | some _ => (s.unloadImage (c.fld 8 4 % 8192)).answer c stOk

def execSchedUnload (fid : Nat) (s : State) : Result := .next (s.schedCmd (s.runOp fid 0x03 stBadField State.schedUnload))

/- Submissions. -/

/-- A token descriptor (R155). -/
def readToken (b : Bytes) : Token := { stream := leAt b 0 2, reset := bit? (leAt b 2 1) 0, token := leAt b 4 4, seed := leAt b 8 8 }

def readTokens (b : Bytes) (n : Nat) : List Token := (List.range n).map (fun k => readToken ((b.drop (16 * k)).take 16))

/-- The streams of a token list with `tps` descriptors for each stream, consecutive and no stream twice (check 4 of R156;
notes/assumptions/25.md); none when it is no such list. -/
def batchStreams (ts : List Token) (b tps : Nat) : Option (List Nat) :=
  let streams := (List.range b).map (fun k => ((ts[k * tps]?).map (·.stream)).getD 0)
  let okRun (k : Nat) : Bool := ((ts.drop (k * tps)).take tps).all (fun t => t.stream == streams.getD k 0)
  if (List.range b).all okRun ∧ streams.Nodup then some streams else none

/-- Whether a stream may take a step of an image: valid, of the context, of a kind in KIND_MASK (check 5 of R156). -/
def State.strmOk (s : State) (ctx : Nat) (i : Image) (n : Nat) : Bool :=
  (s.strms.get? n).any (fun (x : Strm) => x.ctx == ctx && i.kindMask.testBit x.kind)

/-- Causes for which a stream counts as paused (R181): PAUSED, ANCHOR_DUE without an anchoring image, the position ceiling. -/
def Strm.blocks (x : Strm) (i : Image) : Bool × Bool × Bool :=
  (x.paused, x.anchorDue && !i.anchoring, decide (2 ^ 40 ≤ x.position + i.tps))

/-- Check 6 of R156 for a batch: the state with its events set, and whether a stream is paused (R181, R188). -/
def State.pausedCheck (s : State) (ctx : Nat) (i : Image) (streams : List Nat) : State × Bool :=
  let bs := streams.filterMap (fun n => (s.strms.get? n).map (fun (x : Strm) => x.blocks i))
  let t := if bs.any (fun b => b.2.1) then s.strmEvent ctx 1 else s
  let u := if bs.any (fun b => b.2.2) then t.strmEvent ctx 2 else t
  (u, bs.any (fun b => b.1 || b.2.1 || b.2.2))

/-- The step sequence number that the next submission of a context will have: those of its steps that wait for their first dispatch come
before it (R158; notes/assumptions/26.md). -/
def State.seqAhead (s : State) (ctx : Nat) : Nat :=
  ((s.ctx ctx).map (fun (x : Ctx) => x.seq)).getD 0 +
    (s.steps.list.filter (fun p => p.2.ctx == ctx && p.2.stage == .waiting && p.2.reexecs == 0)).length

/-- An accepted submission waits for its dispatch (R154, R157). -/
def State.acceptStep (s : State) (c : Cmd) (i : Image) (ts : List Token) (streams : List Nat) : State :=
  let r : StepRec :=
    { fid := c.fid, q := c.q, ctx := c.ctxNo, handle := c.fld 8 4 % 8192, gen := c.fld 8 4 / 8192, b := c.fld 12 2, tokens := ts,
      streams := streams, inWin := c.fld 22 2, inOff := c.fld 32 8, outWin := c.fld 40 2, outOff := c.fld 48 8, stage := .waiting,
      seq := 0, ord := 0, cores := i.cores, level := 0, mask := 0, reexecs := 0, faults := [], prov := [], pins := [], flags := 0#8,
      fault := none, kat := [], digests := List.replicate 8 0, pages := [], wrote := [], wants := [], since := s.boot.timer }
  ({ s with steps := { s.steps with list := s.steps.list.set s.steps.next r, next := s.steps.next + 1 } } : State).modCmd c.fid
    (fun y => { y with stage := .running })

/-- A token read that failed: the queue enters ERROR and the context faults (R358). -/
def State.tokenReadFailed (s : State) (c : Cmd) : State :=
  let t : State := match c.q with
    | .pair q => { s with queues := s.queues.upd q (fun (x : Queue) => { x with state := .error, cause := 2 }) }
    | .admin _ => s
  (t.complete c.fid stDmaPoison (submitResult (c.fld 8 4 % 8192) (c.fld 8 4 / 8192) 0 4 0 0 (2 ^ 64 - 1) (2 ^ 32 - 1))).faultCtx c.ctxNo 4
    stDmaPoison

/-- SUBMIT_STEP: the checks of R156 in order. -/
def State.submitStep (s : State) (c : Cmd) (r : HostRead) : State :=
  match s.ownImage c, s.ctx c.ctxNo with
  | none, _ => s.answer c stBadHandle
  | _, none => s
  | some i, some x =>
    let b := c.fld 12 2
    let n := c.fld 16 4
    if x.state = 2 then s.answer c stCtxFaulted
    else if b = 0 ∨ i.maxBatch < b then s.answer c stBatchRange
    else if n ≠ b * i.tps then s.answer c stTokenCount
    else
      let w := s.winRead c.ctxNo (c.fld 20 2) (c.fld 24 8) (16 * n) (some (s.seqAhead c.ctxNo)) r
      match w.data with
      | none => w.s.tokenReadFailed c
      | some d =>
        let t := w.s.countViol c.ctxNo w.viol
        let ts := readTokens d n
        match batchStreams ts b i.tps with
        | none => t.answer c stTokenCount
        | some streams =>
          if !streams.all (t.strmOk c.ctxNo i) then t.answer c stStreamInvalid
          else
            let p := t.pausedCheck c.ctxNo i streams
            if p.2 then p.1.answer c stStreamPaused else t.acceptStep c i ts streams

def execSubmitStep (fid : Nat) (tokens : HostRead) (s : State) : Result :=
  .next (s.schedCmd (s.runRead fid 0x01 stBadField (fun t c => t.submitStep c tokens)))

end Sys2Proof.Machine
end

