-- ==== Sys2Proof/Machine/StepOps.lean ====
section
/-!
DEFINITION. Machine/StepOps.lean: steps: dispatch (R24, R25, R145, R157, R158, R203 to R205), the start token (R151), commit (R21, R180, R206,
R428 to R430), the outcome of a fault (R77, R436 to R439), and the replay records of a step (R444, R445).
-/
namespace Sys2Proof.Machine

/- Replay records of a step. -/

/-- The pages that a captured step read, as headers and bytes, ascending (R445). -/
def windowPages (l : AList Bytes) : Bytes :=
  (((l.map (fun p => p.1 / 64)).dedup).map (fun k =>
    let win := k * 64 / 2 ^ 64
    fixLen 64 (fixLen 8 (toLe win 2) ++ toLe (k * 64 % 2 ^ 64 * 64) 8) ++
      (List.range 64).flatMap (fun i => fixLen 64 (AList.getD l (k * 64 + i) [])))).flatten

/-- Writes STEP_IN and STEP_END for a step that ends (R445). -/
def State.recordStep (s : State) (r : StepRec) (status cls flags : Nat) : State :=
  match s.ctx r.ctx with
  | none => s
  | some c =>
    let toks := (r.tokens.map (fun t =>
      toLe (relIndex c.first t.stream) 2 ++ toLe (b2n t.reset) 1 ++ [0#8] ++ toLe t.token 4 ++ toLe t.seed 8)).flatten
    let body := fixLen (cdiv toks.length 64 * 64) toks ++ windowPages r.pages
    let map := if c.func = 0 then packBits (s.lcores.zipIdx.map (fun p => (4 * p.2, p.1.carrier.toNat))) else 0
    (s.replayRec r.ctx 0x05 0 r.seq (toLe r.tokens.length 4) body).replayRec r.ctx 0x06 0 r.seq
      (toLe status 1 ++ toLe (cls + 16 * r.reexecs) 1 ++ toLe flags 1 ++ [0#8] ++ toLe map 4 ++ toLe r.level 1 ++ toLe r.mask 1)
      ((r.digests.map (fun d => toLe d 8)).flatten)

/-- The RANGE_RECORD entries of a step in which RANGE is set: one for each core that holds a record (R95, R430). -/
def State.rangeLogs (s : State) (r : StepRec) : State :=
  match s.ctx r.ctx with
  | none => s
  | some c => r.cores.foldl (fun (t : State) (k : Nat) =>
    match (s.lc k).seqr.bind (·.range) with
    | none => t
    | some g => t.logTo c.func
        { mkLog 0x0108 [(32, g.tile), (64, g.mag), (128, r.seq)] with
          ctx := some r.ctx, tag := g.tag, desc := some g.desc, core := some k }) s

/-- Releases what a step holds beside its cores: the pins of its prefetches and copies, its host reads and the epochs of its transfers (R143, R208,
R231). -/
def State.releaseStep (s : State) (n : Nat) (r : StepRec) : State :=
  let t := (r.pins ++ r.job.pins).foldl (fun (u : State) (p : Nat × Nat) => u.unpinTile r.ctx p.1 p.2) s
  let u : State := { t with link := t.link.purge (fun w => w.ofStep n r.cores) }
  let moves := r.cores.flatMap (fun (c : Nat) => (((s.lc c).seqr.map (·.inflight)).getD []).flatMap (fun f => f.move.elim [] (·.pins)))
  let v := moves.foldl (fun (w : State) (p : Nat × Nat) => w.unpinTile r.ctx p.1 p.2) u
  v.modKv r.ctx (fun k => ({ k with holds := k.holds.filter (fun h => h.2 / 2 ^ 32 / 8 != n) } : KvPool).release)

def State.dropStep (s : State) (n : Nat) : State := { s with steps := { s.steps with list := s.steps.list.erase n } }

/-- The result fields of a step's completion (R349). -/
def StepRec.result (r : StepRec) (flags : Flags) (f : FaultRec) : Bytes :=
  submitResult r.handle r.gen flags.toNat f.cls.toNat f.core f.tag r.seq f.desc

/-- Completes a submission that was never dispatched (R203, R349). -/
def State.refuseStep (s : State) (n : Nat) (r : StepRec) (status : Nat) : State :=
  (s.dropStep n).complete r.fid status (submitResult r.handle r.gen 0 0 0 0 (2 ^ 64 - 1) (2 ^ 32 - 1))

/- Faults. -/

/-- The bytes of a tile of a MODEL segment: its DRAM copy or its flash master, when they match its digest (R229). -/
def State.modelTile (s : State) (ctx addr : Nat) : Option Bytes :=
  match s.seg ctx (segOf addr), s.tile ctx (segOf addr) (tileOf addr) with
  | some g, some t =>
    let copy := if t.st = .upper ∨ t.st = .evictPending then s.dram.readFrame t.frame t.off tileBytes else none
    ((copy.filter (s.digestOk g (tileOf addr) t)).or (some (s.lowerBytes ctx (segOf addr) g (tileOf addr) t))).filter
      (s.digestOk g (tileOf addr) t)
  | _, _ => none

/-- F2 rewrites the run of a registered region that one tile holds (R435, R436). -/
def State.rewriteRun (s : State) (ctx core : Nat) (r : Resident) (addr i : Nat) : Option State :=
  (s.modelTile ctx (addr + i * tileBytes)).map (fun b => s.modScratch core (fun p => p.writeBytes ((r.first + 128 * i) * 512) b))

/-- F2 refetches the registered regions of a context that are lost (R436); one whose tiles cannot be read stays LOST. -/
def State.refetch (s : State) (ctx : Nat) : State :=
  (((s.ctx ctx).map (fun (c : Ctx) => c.residents)).getD []).foldl (fun (t : State) (p : Nat × Resident) =>
    match p.2.reg with
    | some (addr, n) =>
      if !p.2.lost then t
      else
        let u := (List.range n).foldl (fun (acc : Option State) (i : Nat) =>
          acc.bind (fun v => v.rewriteRun ctx (p.1 / 65536) p.2 addr i)) (some t)
        match u with
        | some v => v.modCtx ctx (fun c => { c with residents := c.residents.upd p.1 (fun r => { r with lost := false, owed := false }) })
        | none => t
    | none => t) s

/-- Whether a fault is re-executed (R437, R438): its class allows it, and neither its own allowance nor that of the step is spent. -/
def State.mayReexec (s : State) (r : StepRec) (f : FaultRec) : Bool :=
  let had := AList.getD r.faults f.cls.toNat 0
  decide (r.reexecs < 2) &&
    (match f.cls.toNat with
      | 1 => had == 0
      | 2 => had == 0
      | 5 => had == 0 && r.cores.all (fun c => (s.carrier c).isSome)
      | 7 => f.status.toNat == 0x9C && decide (had < 2)
      | _ => false)

/-- Classes whose fault, when it is written, faults the context (R437, R438). -/
def faultsCtx (cls : Nat) : Bool := [1, 2, 4, 5, 7, 9, 10].contains cls

/-- A CHECK fault counts for each physical core it names, and for its context (R442, R449). -/
def State.countCheck (s : State) (r : StepRec) : State :=
  (r.kat.foldl (fun (t : State) (c : Nat) => t.modScratch c (fun p =>
    { p with checkFaults := lastDay p.checkFaults s.boot.timer ++ [s.boot.timer] })) s).modCtx r.ctx
      (fun x => { x with checkFaults := x.checkFaults + 1 })

/-- Pages that a step held in advance go to limbo (R207, R208). -/
def State.dropProv (s : State) (r : StepRec) : State :=
  s.modKv r.ctx (fun k => (k.toLimbo (r.prov.map (·.page))).release)

/-- The step waits again for its re-execution (R438, R440, R452). -/
def State.reexec (s : State) (n : Nat) (r : StepRec) (f : FaultRec) : State :=
  let kat := if f.cls = 1 then r.kat.filter (fun c => (s.carrier c).isSome) else []
  let t := s.modStep n (fun y =>
    { y with stage := .waiting, reexecs := y.reexecs + 1, prov := [], pins := [], flags := 0#8, fault := none, kat := kat, pages := [],
             wrote := [], wants := [], since := s.boot.timer, digests := List.replicate 8 0, job := CopyJob.none
             faults := AList.set y.faults f.cls.toNat (AList.getD y.faults f.cls.toNat 0 + 1) })
  let u := kat.foldl (fun (v : State) (c : Nat) => v.modScratch c (fun p => { p with testing := true })) t
  let w := u.modCtx r.ctx (fun x => { x with reexecs := x.reexecs + 1 })
  let func := ((w.ctx r.ctx).map (·.func)).getD 0
  let y := w.logBoth func { mkLog 0x0101 [(0, f.cls.toNat), (4, r.reexecs + 1), (64, r.seq)] with ctx := some r.ctx }
  if f.cls = 7 then y.tierEvent r.ctx 3 else y

/-- The completion of a step that faults, with its log entry and what its class does to its context (R21, R159, R437). -/
def State.failStep (s : State) (n : Nat) (r : StepRec) (f : FaultRec) (flags : Flags) : State :=
  let func := ((s.ctx r.ctx).map (·.func)).getD 0
  let t := if f.cls = 3 then s.refetch r.ctx else s
  let u := t.logBoth func
    { mkLog 0x0020 [(0, f.status.toNat), (8, f.cls.toNat), (64, r.seq)] with
      ctx := some r.ctx, tag := f.tag, desc := some f.desc, core := if f.desc = 2 ^ 32 - 1 then none else some f.core }
  let v := ((u.dropStep n).recordStep r f.status.toNat f.cls.toNat flags.toNat).complete r.fid f.status.toNat (r.result flags f)
  if faultsCtx f.cls.toNat then v.faultCtx r.ctx f.cls.toNat f.status.toNat else v

/-- The outcome of a step that has faulted, once its cores have nothing in flight (R77, R148, R207). -/
def State.endFault (s : State) (n : Nat) : State :=
  match s.step? n with
  | none => s
  | some r =>
    match r.fault with
    | none => s
    | some f =>
      let flags := Flags.ofCores (r.flags :: r.cores.map (fun c => ((s.lc c).seqr.map (·.flags)).getD 0#8))
      let again := s.mayReexec r f
      let t := if again then s else s.rangeLogs r
      let t := ((t.releaseStep n r).clearStep n r.cores).dropProv r
      let t := if f.cls = 1 then t.countCheck r else t
      let t := t.cairnRecord r.ctx r.seq none 0xFFFFFFFF 0 4
      (if again then t.reexec n r f else t.failStep n r f flags).wakeAll

/-- An operation in flight that cannot end by itself once its step stops: it waits for a token, a slot, the collector, or the other half of
a ring. -/
def InFlight.stuck (q : Seqr) (f : InFlight) : Bool :=
  isWait f.desc || ((f.desc.kind == 6 || f.desc.kind == 7) && f.waits) ||
    (f.desc.kind == 3 && !q.inflight.any (fun y => y.desc.kind == 5 && y.desc.ring && y.desc.fld 20 31 0 == f.desc.fld 20 31 0) &&
      ((q.stream.zipIdx).any (fun p => p.1.kind == 5 && p.1.ring && p.1.fld 20 31 0 == f.desc.fld 20 31 0 && decide (q.idx ≤ p.2)))) ||
    (f.desc.kind == 5 && f.desc.ring && !q.inflight.any (fun y => y.desc.kind == 3 && y.desc.fld 20 31 0 == f.desc.fld 20 31 0) &&
      f.move.any (fun m => m.out == 0 && (match m.pieces with
        | p :: _ => p.side == .slotWait
        | [] => false)))

/-- Whether nothing that a core has in flight will still complete (R77); a halted carrier completes nothing. -/
def State.drained (s : State) (core : Nat) : Bool :=
  match (s.lc core).seqr with
  | none => true
  | some q => (s.carrier core).isNone || (s.scratch core).halted || q.inflight.all (fun f => f.stuck q)

/-- The outcome of every step that has faulted and whose cores have drained. -/
def State.settleFaults (s : State) : State :=
  (s.steps.list.filter (fun p => p.2.stage == .faulting)).foldl (fun (t : State) p =>
    if p.2.cores.all t.drained then t.endFault p.1 else t) s

/-- A step faults: its cores issue nothing more (R77). -/
def State.faultStep (s : State) (n : Nat) (f : FaultRec) : State :=
  match s.step? n with
  | none => s
  | some r =>
    let t := s.modStep n (fun y => { y with stage := .faulting, fault := if y.fault.isSome then y.fault else some f })
    r.cores.foldl (fun (u : State) (c : Nat) => u.modSeq c (fun q => { q with stopped := true })) t

/-- A fault that no descriptor raised (R349): it names core 0 and all ones. -/
def stepFault (cls status : Nat) : FaultRec :=
  { cls := BitVec.ofNat 4 cls, status := BitVec.ofNat 8 status, core := 0, desc := 2 ^ 32 - 1, tag := 0 }

/-- What a row about cores, the Rope or the tiers leaves, with the outcomes of the faults that it lets end. -/
def State.coreDone (s r : State) : State := s.coreRow r.settleFaults

/- Dispatch. -/

/-- KV records that the streams of a step are bound to. -/
def State.stepRecs (s : State) (r : StepRec) : List Nat :=
  (r.streams.filterMap (fun i => (s.strms.get? i).map (·.kvSeq))).filter (· != noSeq)

/-- Whether two steps share a stream or a sequence record (R157, R203). -/
def State.sharesData (s : State) (a b : StepRec) : Bool :=
  a.streams.any b.streams.contains || (a.ctx == b.ctx && (s.stepRecs a).any (s.stepRecs b).contains)

def sharesCores (a b : StepRec) : Bool := a.cores.any b.cores.contains

/-- Whether a logical core can take a step: its carrier is ON, is not under test, and no switch of it is wanted or under way (R96, R440,
R475). A core without a carrier takes none, and faults the step (R442). -/
def State.coreReady (s : State) (c : Nat) : Bool :=
  match s.carrier c with
  | none => true
  | some p => (s.pcr p).dom == 0 && !(s.pcr p).testing && !(s.pcr p).halted && s.sparing.wanted != some c && s.sparing.busy != some c

/-- Whether the service record's switch has still to be repeated before the first dispatch (R98). -/
def State.switchDue (s : State) : Bool := s.nv.switched.isSome && (s.carried 8).isNone && s.sparing.usable

/-- Cores of a step that F2 must scrub: they last served another context (R25). -/
def State.toScrub (s : State) (r : StepRec) : List Nat :=
  r.cores.filter (fun c => (s.carrier c).isSome && (s.scratch c).lastCtx != some r.ctx)

/-- The conditions of dispatch that concern a step alone: its context, its cores, its class, and the steps that are dispatched. -/
def State.ready1 (s : State) (r : StepRec) : Bool :=
  match s.ctx r.ctx with
  | none => false
  | some x =>
    r.stage == .waiting && (x.state != 3 || decide (0 < r.reexecs)) && r.kat.isEmpty && r.cores.all s.coreReady &&
      !(s.steps.list.any (fun p => p.2.live && (sharesCores p.2 r || s.sharesData p.2 r))) &&
      (s.param 0x0303 x.cls == 0 || decide (0 ≤ s.steps.buckets.getD x.cls 0))

/-- Order between waiting steps of one context that share a stream or a sequence: re-executions first, then fetch order (R438, R157). -/
def goesBefore (a b : StepRec) : Bool :=
  if (a.reexecs == 0) != (b.reexecs == 0) then a.reexecs != 0 else decide (a.fid < b.fid)

/-- Whether an earlier step of its context, with which a step shares data, still waits (R157, R203). -/
def State.behindData (s : State) (n : Nat) (r : StepRec) : Bool :=
  s.steps.list.any (fun p => p.1 != n && p.2.stage == .waiting && goesBefore p.2 r && p.2.ctx == r.ctx && s.sharesData p.2 r)

/-- Service class of a step. -/
def State.stepClass (s : State) (r : StepRec) : Nat := ((s.ctx r.ctx).map (fun (x : Ctx) => x.cls)).getD 0

/-- The moment from which the age of a waiting step counts: that of its submission, and in a capped class not before the bucket turned
non-negative (R29, R145). -/
def State.waitSince (s : State) (r : StepRec) : Nat :=
  let c := s.stepClass r
  if s.param 0x0303 c = 0 then r.since else max r.since (s.steps.bucketSince.getD c 0)

/-- The first of some waiting steps by a measure. -/
def firstStep (f : StepRec → Nat) (l : List (Nat × StepRec)) : Option (Nat × StepRec) :=
  l.foldl (fun (acc : Option (Nat × StepRec)) x =>
    match acc with | none => some x | some y => if f x.2 < f y.2 ∨ (f x.2 = f y.2 ∧ x.2.fid < y.2.fid) then some x else some y) none

/-- The step that the dispatch arbiter picks among some that wait, with the class and the grants it has then had (R24, R29): a re-execution
first (R438), then a step older than 10 ms, the oldest first, then weighted round-robin by class, in fetch order within a class. -/
def State.nextStep (s : State) (l : List (Nat × StepRec)) : Option (Nat × Nat × Nat) :=
  let keep (x : Option (Nat × StepRec)) : Option (Nat × Nat × Nat) := x.map (fun p => (p.1, s.steps.dispClass, s.steps.dispUsed))
  (keep (firstStep (·.fid) (l.filter (fun p => p.2.reexecs != 0)))).or
    ((keep (firstStep s.waitSince (l.filter (fun p => decide (s.waitSince p.2 + 10000 < s.boot.timer))))).or
      ((List.range 5).findSome? (fun k =>
        let cls := (s.steps.dispClass + k) % 4
        let used := if k = 0 then s.steps.dispUsed else 0
        if used < s.param 0x0304 cls then
          (firstStep (·.fid) (l.filter (fun p => s.stepClass p.2 == cls))).map (fun p => (p.1, cls, used + 1))
        else none)))

/-- The arbiter's pick among the waiting steps that could be dispatched now and share a core with a step: its rivals and itself (R24). -/
def State.pick (s : State) (r : StepRec) : Option (Nat × Nat × Nat) :=
  s.nextStep (s.steps.list.filter (fun p => sharesCores p.2 r && s.ready1 p.2 && !s.behindData p.1 p.2))

/-- Whether F1 may dispatch a step now (R24, R29, R145, R157, R203, R414, R453). -/
def State.mayDispatch (s : State) (n : Nat) (r : StepRec) (paced : Bool) : Bool :=
  s.running && !s.coreOut 1 && (!s.coreOut 2 || (s.toScrub r).isEmpty) && !s.switchDue && (s.power.pacing == 0 || paced) && s.ready1 r &&
    !s.behindData n r && (s.pick r).any (fun p => p.1 == n)

/-- What checks 7 to 11 of R203 and R204 make of a step. -/
inductive KvCheck where
  | ok (need : List Prov)
  | refuse (status : Nat) (event : Option Nat)
  | wait

/-- The entries that an append will need a page for: absent ones and shared ones (R205). -/
def KvPool.needed (k : KvPool) (img : Image) (rec : Nat) (q : SeqRec) : List Prov :=
  let g0 := q.length / k.p
  (List.range ((q.length + img.tps - 1) / k.p + 1 - g0)).flatMap (fun i => (List.range k.lanes).filterMap (fun l =>
    match k.entry q (g0 + i) l with
    | none => some { record := rec, group := g0 + i, lane := l, page := 0, copies := none }
    | some g =>
      if 1 < AList.getD k.counts g 0 then some { record := rec, group := g0 + i, lane := l, page := 0, copies := some g } else none))

def State.kvCheck (s : State) (img : Image) (r : StepRec) : KvCheck :=
  if !img.usesKv then .ok []
  else match s.kv? r.ctx with
    | none => .refuse stKvNoSeq none
    | some k =>
      let recs := r.streams.map (fun i => ((s.strms.get? i).map (·.kvSeq)).getD noSeq)
      let seqs := recs.filterMap (fun n => (k.seqs.get? n).map (fun q => (n, q)))
      if seqs.length ≠ recs.length then .refuse stKvNoSeq none
      else if img.kvWriting && !decide recs.Nodup then .refuse stKvSeqShared none
      else if img.kvFmt ≠ k.fmt ∨ img.kvItem ≠ k.headDim * k.w ∨ !(img.walkLanes ++ img.appendLanes).all (fun l => decide (l < k.lanes)) ∨
          (img.kvWriting && !(List.range k.lanes).all img.appendLanes.contains) then .refuse stKvGeometry none
      else if img.kvWriting && !seqs.all (fun q => decide (q.2.length + img.tps ≤ q.2.groups * k.p) &&
          decide (q.2.length + img.tps ≤ 2 ^ 32 - 1)) then .refuse stKvListFull (some 3)
      else
        let need := if img.kvWriting then seqs.flatMap (fun q => k.needed img q.1 q.2) else []
        if k.freePages + k.limbo.length < need.length then .refuse stKvPoolFull (some 2)
        else if k.freePages < need.length then .wait
        else .ok ((need.zip (k.take need.length)).map (fun p => { p.1 with page := p.2 }))

/-- The DISPATCH region's bytes (R158, R170). -/
def State.dispatchBytes (s : State) (img : Image) (r : StepRec) : Bytes :=
  let strm (i : Nat) : Option Strm := s.strms.get? i
  let kvLen (i : Nat) : Nat := (((s.kv? r.ctx).bind (fun (k : KvPool) => (strm i).bind (fun e => k.seqs.get? e.kvSeq))).map
    (fun (q : SeqRec) => q.length)).getD 0
  let samples := (r.streams.zipIdx).map (fun p =>
    toLe (((r.tokens[p.2 * img.tps + img.tps - 1]?).map (·.seed)).getD 0) 8 ++
      toLe (((strm p.1).map (·.position)).getD 0 + img.tps) 5 ++ [0#8, 0#8, 0#8])
  let toks := (r.tokens.zipIdx).map (fun p =>
    let pend := p.2 % img.tps == 0 && (strm p.1.stream).any (·.resetPending)
    toLe p.1.stream 2 ++ toLe (b2n (p.1.reset || pend)) 1 ++ [0#8] ++ toLe p.1.token 4 ++ toLe (kvLen p.1.stream) 4 ++
      [0#8, 0#8, 0#8, 0#8])
  let pad (b : Bytes) : Bytes := fixLen (cdiv b.length 512 * 512) b
  fixLen 512 (toLe r.b 4 ++ toLe r.tokens.length 4 ++ toLe r.seq 8) ++ pad samples.flatten ++ pad toks.flatten

/-- Rows of a core that lie in no resident region of any context are marked scrub-pending (R25). -/
def State.scrubCore (s : State) (core ctx : Nat) : State :=
  let res : Ranges := s.ctxs.flatMap (fun p => (p.2.residents.filter (fun q => q.1 / 65536 == core)).map (fun q => (q.2.first, q.2.rows)))
  s.modScratch core (fun p =>
    { (Ranges.compl res scratchRows).foldl (fun (q : PCore) (g : Nat × Nat) => q.markScrub g.1 g.2) p with lastCtx := some ctx })

/-- Prepares one core of a step: its dispatch region, its sequencer and its digest slots (R151, R158). -/
def State.loadCore (s : State) (n : Nat) (img : Image) (r : StepRec) (b : Bytes) (core : Nat) : State :=
  let dr := img.dispatchRegion core
  (s.modScratch core (fun p => { (p.writeBytes (dr.first * 512) (fixLen (dr.rows * 512) b)) with lastUse := s.boot.timer })).modLc core (fun l =>
    { l with
      counters := [], slots := [], rings := []
      seqr := some { step := n, idx := 0, stream := img.stream core, inflight := [], flags := 0#8, range := none, batch := r.b,
                     started := false, stopped := false, ended := false, fault := none } })

/-- The DRAM bytes that a step is charged (R145). -/
def State.stepCharge (s : State) (img : Image) (r : StepRec) : Nat :=
  let kv := s.kv? r.ctx
  let len (i : Nat) : Nat := ((kv.bind (fun (k : KvPool) => (s.strms.get? i).bind (fun (e : Strm) => k.seqs.get? e.kvSeq))).map
    (fun (q : SeqRec) => q.length)).getD 0
  budgetDramFixed img.budget + budgetDramPerStream img.budget * r.b + budgetDramPerPos img.budget * (r.streams.map len).sum

/-- The Second level and the policy mask in force from a dispatch (R429). -/
def State.checkSetting (s : State) (x : Ctx) : Nat × Nat :=
  (max (s.param 0x0601 x.cls) x.setLevel, s.param 0x0602 x.cls ||| x.setMask)

/-- The number under which the copies of a step hold the epoch of its pool (R208). -/
def copyHold (n : Nat) : Nat := holdId n 0 (2 ^ 32 - 1)

/-- The copies of a step's provisional pages: keys and values of the positions before the first new one (R205). -/
def KvPool.provCopies (k : KvPool) (prov : List Prov) : List Copy :=
  prov.flatMap (fun p => p.copies.elim [] (fun src =>
    k.pageCopy src p.page ((((k.seqs.get? p.record).map (·.length)).getD 0 - p.group * k.p) * k.headDim * k.w)))

/-- The dispatch itself (R145, R158, R205). -/
def State.startStep (s : State) (n : Nat) (img : Image) (r : StepRec) (x : Ctx) (prov : List Prov) : State :=
  let set := s.checkSetting x
  let seq := if r.reexecs = 0 then x.seq else r.seq
  let r1 : StepRec :=
    { r with stage := .dispatched, seq := seq, ord := s.steps.dispatched, level := set.1, mask := set.2, prov := prov, pins := [],
             flags := 0#8, fault := none, kat := [], digests := List.replicate 8 0, pages := []
             job := { CopyJob.none with copies := (s.kv? r.ctx).elim [] (fun k => k.provCopies prov) } }
  let t : State := { s with
    steps := { s.steps with
      list := s.steps.list.set n r1, dispatched := s.steps.dispatched + 1
      buckets := if s.param 0x0303 x.cls = 0 then s.steps.buckets
        else s.steps.buckets.modify x.cls (fun b => b - ((s.stepCharge img r : Nat) : Int))
      dispClass := ((s.pick r).map (fun p => p.2.1)).getD s.steps.dispClass
      dispUsed := ((s.pick r).map (fun p => p.2.2)).getD s.steps.dispUsed }
    coll := { s.coll with latches := s.coll.latches.set n { cores := r.cores, set := [], flags := 0#8 } } }
  let t := t.modCtx r.ctx (fun y =>
    { y with seq := if r.reexecs = 0 then y.seq + 1 else y.seq, level := set.1, mask := set.2, cairn := y.cairnNext })
  let t := t.modKv r.ctx (fun k =>
    { k with prov := k.prov ++ prov.map (·.page)
             holds := if (k.provCopies prov).isEmpty then k.holds else k.holds ++ [(k.epoch, copyHold n)] })
  let t := if prov.any (fun p => p.copies.isSome) then t.kvEvent r.ctx 0 else t
  let t := (s.toScrub r).foldl (fun (u : State) (c : Nat) => u.scrubCore c r.ctx) t
  let b := s.dispatchBytes img r1
  let t := r.cores.foldl (fun (u : State) (c : Nat) => u.loadCore n img r1 b c) t
  t.cairnRecord r.ctx seq none 0xFFFFFFFF 0 2

/-- A step that faults at its dispatch takes a sequence number and does not run (R436, R442). -/
def State.faultAtDispatch (s : State) (n : Nat) (r : StepRec) (x : Ctx) (cls status : Nat) : State :=
  let seq := if r.reexecs = 0 then x.seq else r.seq
  let set := s.checkSetting x
  let t := s.modStep n (fun y =>
    { y with stage := .faulting, seq := seq, level := set.1, mask := set.2, fault := some (stepFault cls status) })
  (t.modCtx r.ctx (fun y => { y with seq := if r.reexecs = 0 then y.seq + 1 else y.seq, level := set.1, mask := set.2 })).endFault n

/-- F1 dispatches a waiting step (R156 check 6, R203 to R205, R436, R442). A region lost in a spare switch faults the next step of its
context, whatever image it runs (R97), and then each step of an image that names it while it stays LOST (R436). A step whose descriptors lie in a
lost tile of the image's copy faults (R137, R244). -/
def State.dispatchStep (s : State) (n : Nat) (paced : Bool) : State :=
  match s.step? n with
  | none => s
  | some r =>
    match s.images.imgs.get? r.handle, s.ctx r.ctx with
    | some img, some x =>
      if !s.mayDispatch n r paced then s
      else
        let p := s.pausedCheck r.ctx img r.streams
        if r.reexecs = 0 && p.2 then p.1.refuseStep n r stStreamPaused
        else match s.kvCheck img r with
          | .refuse st ev => (match ev with
              | some e => s.kvEvent r.ctx e
              | none => s).refuseStep n r st
          | .wait => s.kvEvent r.ctx 4
          | .ok prov =>
            if x.residents.any (fun g => g.2.owed) || img.residentKeys.any (fun k => (x.residents.get? k).any (fun (g : Resident) => g.lost)) then
              (s.modCtx r.ctx (fun y => { y with residents := y.residents.map (fun g => (g.1, { g.2 with owed := false })) })).faultAtDispatch
                n r x 3 stResidentLost
            else if !r.cores.all (fun c => (s.carrier c).isSome) then s.faultAtDispatch n r x 5 stCoreFail
            else match s.streamLost r.handle img r.cores with
              | some t => t.faultAtDispatch n r x 8 0x70
              | none => s.startStep n img r x prov
    | _, _ => s

/- The start token. -/

/-- F1 makes the copies that are left and posts token 0 to every core of the step (R151, R205). -/
def State.postStart (s : State) (n : Nat) : State :=
  match s.step? n with
  | none => s
  | some r =>
    if r.stage ≠ .dispatched ∨ s.coreOut 1 ∨ !s.running then s
    else match s.copyAll r.ctx r.ord (some r.seq) (.copy n) r.job with
      | .wait t j => t.modStep n (fun y => { y with job := j })
      | .lost t j cls st => (t.modStep n (fun y => { y with job := j })).faultStep n (stepFault cls st)
      | .done t =>
        let u := (t.modKv r.ctx (fun k => ({ k with holds := k.holds.filter (fun h => h.2 != copyHold n) } : KvPool).release)).modStep n
          (fun y => { y with stage := .running, job := CopyJob.none })
        r.cores.foldl (fun (u : State) (c : Nat) => u.landMsg (.belay c 0 n)) u

/- Commit. -/

/-- A stream after the commit of a step that consumed `tps` of its tokens and wrote its STATE region, its CHECKPOINT region, both or neither
(R21, R180). -/
def Strm.committed (e : Strm) (tps : Nat) (wrote ckpt : Bool) : Strm :=
  let pos := e.position + tps
  let anchor := if ckpt then pos else e.anchorPos
  { e with
    cur := if wrote then !e.cur else e.cur
    zero := e.zero && !wrote
    ckptCur := if ckpt then !e.ckptCur else e.ckptCur
    ckptZero := e.ckptZero && !ckpt
    anchorPos := anchor
    position := pos
    resetPending := false
    anchorDue := e.anchorPeriod != 0 && decide (e.anchorPeriod ≤ pos - anchor) }

/-- The sequences and pages of a KV-writing step at its commit (R206, R208). -/
def KvPool.committed (k : KvPool) (img : Image) (prov : List Prov) (recs : List Nat) : KvPool :=
  let at' (p : Prov) : Nat := ((k.seqs.get? p.record).map (fun q => q.base + p.group * k.lanes + p.lane)).getD 0
  let old := prov.filterMap (fun p => k.list.get? (at' p))
  let k1 : KvPool := { k with
    list := prov.foldl (fun (l : AList Nat) (p : Prov) => l.set (at' p) p.page) k.list
    counts := prov.foldl (fun (l : AList Nat) (p : Prov) => l.set p.page 1) k.counts
    prov := k.prov.filter (fun g => !(prov.any (fun p => p.page == g)))
    seqs := recs.foldl (fun (l : AList SeqRec) (r : Nat) => l.upd r (fun q => { q with length := q.length + img.tps })) k.seqs }
  let d := k1.decr old
  (d.1.toLimbo d.2).release

/-- Stream i of a step after its commit (R180). -/
def StepRec.after (r : StepRec) (img : Image) (i : Nat) (e : Strm) : Strm :=
  e.committed img.tps (r.wrote.contains (i, 0)) (r.wrote.contains (i, 1))

/-- The streams after the commit of a step (R21, R180). -/
def State.strmsAfter (s : State) (r : StepRec) (img : Image) : AList Strm :=
  r.streams.foldl (fun (l : AList Strm) (i : Nat) => l.upd i (r.after img i)) s.strms

/-- Applies a step's results to its streams, sequences and regions, and ends it (R21, R22, R180, R206, R435). -/
def State.applyStep (s : State) (n : Nat) (img : Image) (r : StepRec) (flags : Flags) : State :=
  let recs := s.stepRecs r
  let before := r.streams.filterMap (fun i => (s.strms.get? i).map (fun e => (i, e)))
  let due := before.any (fun (p : Nat × Strm) => (r.after img p.1 p.2).anchorDue)
  let reset := before.any (fun (p : Nat × Strm) => p.2.resetPending)
  let t := s.rangeLogs r
  let t : State := { t with strms := s.strmsAfter r img }
  let t := if due then t.strmEvent r.ctx 0 else t
  let t := if reset then t.strmEvent r.ctx 3 else t
  let t := if img.kvWriting then t.modKv r.ctx (fun k => k.committed img r.prov recs) else t
  let t := t.modCtx r.ctx (fun y =>
    { y with residents := y.residents.map (fun p => (p.1, { p.2 with armed := p.2.armed || p.2.reg.isSome })) })
  let t := (t.releaseStep n r).clearStep n r.cores
  let t := t.cairnRecord r.ctx r.seq none 0xFFFFFFFF 0 3
  let none' : FaultRec := { cls := 0, status := 0, core := 0, desc := 0, tag := 0 }
  (((t.dropStep n).recordStep r 0 0 flags.toNat).complete r.fid stOk (r.result flags none')).wakeAll

/-- A step whose cores are all done and which F1 ends now, with its image and its flag word (R126). -/
def State.committing (s : State) (n : Nat) : Option (StepRec × Image × Flags) :=
  match s.step? n with
  | none => none
  | some r =>
    if !s.coll.ready.contains n || s.coreOut 1 || !s.running || r.stage != .running then none
    else (s.images.imgs.get? r.handle).map (fun i => (r, i, ((s.coll.latches.get? n).map (fun (l : Latch) => l.flags)).getD 0#8))

/-- F1 commits a step whose cores are all done, or faults it under its policy mask (R126, R428). -/
def State.commitStep (s : State) (n : Nat) : State :=
  match s.committing n with
  | none => s
  | some (r, img, flags) => if flags.policyFault r.mask then (s.faultStep n (stepFault 6 stPolicy)).settleFaults else s.applyStep n img r flags

/-- The streams that the end of a step leaves: those of a step that commits move on (R180). -/
def State.commitStrms (s : State) (n : Nat) : AList Strm :=
  match s.committing n with
  | none => s.strms
  | some (r, img, flags) => if flags.policyFault r.mask then s.strms else s.strmsAfter r img

end Sys2Proof.Machine
end

