-- ==== Sys2Proof/Machine/CareRows.lean ====
section
/-!
DEFINITION. Machine/CareRows.lean: known-answer self-tests (R440, R442), switches to the spare core (R96 to R98), the comparisons of cached tiles
and resident regions (R434, R435), scrubs of scratchpad rows (R107) and long droop holds (R456).
-/
namespace Sys2Proof.Machine

/- Self-tests. -/

/-- A periodic self-test starts on a core that no step uses (R440). -/
def State.startKat (s : State) (p : Nat) : State :=
  let x := s.pcr p
  if s.running && !s.coreOut 1 && decide (p < 9) && s.param 0x0606 0 != 0 && x.dom == 0 && !x.testing && !x.halted && !x.outOfService &&
      !s.coreUsed p && s.sparing.busy.isNone then
    s.modPc p (fun y => { y with testing := true })
  else s

def execKatPeriodExpiry (pcore : Nat) (s : State) : Result := .next (s.coreDone (s.startKat pcore))

/-- A self-test ends: rows outside resident regions await scrub, the re-executions that waited for the core go on, and the spare is asked for
when the test fails, or when it passes once too often between CHECK faults (R440, R442). -/
def State.endKat (s : State) (p : Nat) (passes : Bool) : State :=
  if !s.running || s.coreOut 1 || !(s.pcr p).testing then s
  else
    let awaited := (s.carried p).any (fun c => s.steps.list.any (fun r => r.2.stage == .waiting && r.2.kat.contains c))
    let t := (s.modPc p (fun y => { y with testing := false })).scrubOthers p
    let u := match s.carried p with
      | none => t
      | some c => { t with steps := { t.steps with
          list := t.steps.list.map (fun r => if r.2.stage = .waiting then (r.1, { r.2 with kat := r.2.kat.filter (· != c) }) else r) } }
    let v := if passes then u else u.logPf (mkLog 0x0103 [(0, p), (4, b2n (!awaited))])
    match s.carried p with
    | none => v
    | some c =>
      if !passes then v.orderSpare c p 2
      else if s.param 0x0605 0 ≤ (lastDay (s.pcr p).checkFaults s.boot.timer).length then v.orderSpare c p 0
      else v

def execKatComplete (pcore : Nat) (passes : Bool) (s : State) : Result := .next (s.coreDone (s.endKat pcore passes))

/- The spare core. -/

/-- Whether a step that is being dispatched or runs uses a logical core. -/
def State.lcoreUsed (s : State) (c : Nat) : Bool := s.steps.list.any (fun r => r.2.live && r.2.cores.contains c)

/-- The switch that F1 wants begins once no step uses the core: the old carrier stops, and the spare core's rows are scrubbed (R96 events 2 to 4). -/
def State.startSwitch (s : State) (core : Nat) : State :=
  let cs := s.pcr 8
  if s.sparing.wanted = some core ∧ s.running ∧ !s.coreOut 1 ∧ !s.coreOut 2 ∧ s.sparing.usable ∧ cs.dom = 0 ∧ !cs.testing ∧ s.carried 8 = none ∧
      !s.lcoreUsed core ∧ (s.carrier core).all (fun p => !(s.pcr p).testing) then
    let t : State := { s with sparing := { s.sparing with busy := some core, wanted := none } }
    let u := match s.carrier core with
      | some p => t.modPc p (fun y => { y with halted := true, forwardOnly := true })
      | none => t
    u.modPc 8 (fun y => { (y.markScrub 0 scratchRows) with forwardOnly := false, lastCtx := none })
  else s

def execSpareSwitch (core : Nat) (s : State) : Result := .next (s.coreDone (s.startSwitch core))

/-- Copies one resident region of a context to the spare core. One that cannot be read, or that fails its digest on arrival, reads zero and is
LOST, and the next step of the context faults for it (R96, R97). -/
def State.copyRegion (s : State) (old : Option Nat) (lost : List Nat) (ctx key : Nat) (r : Resident) : State :=
  let gone := s.modCtx ctx (fun c => { c with residents := c.residents.upd key (fun x => { x with lost := true, owed := true }) })
  match old with
  | some p =>
    if lost.contains (ctx * 65536 + key % 65536) then gone
    else s.modPc 8 (fun y => y.writeBytes (r.first * 512) ((s.pcr p).readBytes (r.first * 512) (r.rows * 512)))
  | none => gone

/-- The copy to the spare core ends: it carries the logical core, and the old carrier is out of service (R96 events 5 and 6, R98). -/
def State.endSwitch (s : State) (core : Nat) (lost : List Nat) : State :=
  if s.sparing.busy ≠ some core ∨ !s.running ∨ s.coreOut 1 ∨ s.coreOut 2 then s
  else
    let old := s.carrier core
    let regions := s.ctxs.flatMap (fun c => (c.2.residents.filter (fun r => r.1 / 65536 == core)).map (fun r => (c.1, r)))
    let t := regions.foldl (fun (u : State) (x : Nat × Nat × Resident) => u.copyRegion old lost x.1 x.2.1 x.2.2) s
    let u := match old with
      | some p => t.modPc p (fun y => { y with outOfService := true })
      | none => t
    let v := u.modLc core (fun l => { l with carrier := 8 })
    let sp : Sparing := { v.sparing with busy := none, retired := (old.map (BitVec.ofNat 4)).getD v.sparing.retired }
    let nv : Nv := { v.nv with
      switched := some (core, old.getD core), carrierless := v.nv.carrierless.filter (· != core) }
    ({ v with sparing := sp, nv := nv } : State).logPf (mkLog 0x0012 [(0, core), (4, 8)])

def execSpareCopyComplete (core : Nat) (lost : List Nat) (s : State) : Result := .next (s.coreDone (s.endSwitch core lost))

/- Comparisons. -/

/-- A cached tile that mismatches its digest is expelled (R434). -/
def State.expel (s : State) (ctx seg tile : Nat) (t : Tile) : State :=
  let func := ((s.ctx ctx).map (fun (c : Ctx) => c.func)).getD 0
  let u := (s.evict ctx seg tile).logBoth func
    { mkLog 0x0104 [(64, seg * 2097152 + tile * tileBytes)] with ctx := some ctx, pfDetail := [(128, t.frame)] }
  (u.modCtx ctx (fun c => { c with expels := c.expels + 1 })).reportFrame t

/-- F2 compares one cached MODEL tile with its digest (R434). A copy that cannot be read is discarded (R242). -/
def State.compareTile (s : State) (corrupt : List (Nat × Nat × Nat)) (ctx seg tile : Nat) : State :=
  match s.seg ctx seg, s.tile ctx seg tile with
  | some g, some t =>
    if g.kind != .model || g.prot || t.st != .upper then s
    else match s.dram.readFrame t.frame t.off tileBytes with
      | none => if t.pins = 0 then s.leave ctx seg tile t else s
      | some b =>
        if corrupt.contains (ctx, seg, tile) || !s.digestOk g tile t b then s.expel ctx seg tile t else s
  | _, _ => s

/-- Every cached tile of the tile's MODEL segments. -/
def State.cachedTiles (s : State) : List (Nat × Nat × Nat) :=
  s.ctxs.flatMap (fun c => c.2.segs.flatMap (fun g =>
    if g.2.kind != .model then []
    else ((g.2.tiles.zipIdx).filter (fun t => t.1.st == .upper)).map (fun t => (c.1, g.1, t.2))))

def State.compareAll (s : State) (corrupt : List (Nat × Nat × Nat)) : State :=
  if s.f2Runs then s.cachedTiles.foldl (fun (t : State) x => t.compareTile corrupt x.1 x.2.1 x.2.2) s else s

def execDigestComparePeriod (corrupt : List (Nat × Nat × Nat)) (s : State) : Result := .next (s.coreDone (s.compareAll corrupt))

/-- F2 compares the run of a registered region that one tile holds with the tile's digest, and rewrites it on a mismatch (R435). A tile whose
master fails its digest too damages its object (R243). -/
def State.scanRun (s : State) (ctx key : Nat) (r : Resident) (addr i : Nat) : State :=
  let core := key / 65536
  let a := addr + i * tileBytes
  match s.seg ctx (segOf a), s.tile ctx (segOf a) (tileOf a) with
  | some g, some t =>
    if g.kind != .model || s.digestOk g (tileOf a) t ((s.scratch core).readBytes ((r.first + 128 * i) * 512) tileBytes) then s
    else
      let u := (s.rewriteRun ctx core r addr i).getD (s.damageModel g.handle)
      let func := ((s.ctx ctx).map (fun (c : Ctx) => c.func)).getD 0
      (u.logBoth func { mkLog 0x0106 [(0, core), (16, key % 65536), (64, a)] with ctx := some ctx }).modCtx ctx
        (fun c => { c with expels := c.expels + 1 })
  | _, _ => s

/-- Scans the registered regions of a context on the cores that no step of it uses (R435). -/
def State.scanCtx (s : State) (ctx : Nat) (c : Ctx) : State :=
  (c.residents.filter (fun r => r.2.armed && !r.2.lost && (s.carrier (r.1 / 65536)).isSome &&
      !s.steps.list.any (fun x => x.2.ctx == ctx && x.2.live && x.2.cores.contains (r.1 / 65536)))).foldl
    (fun (t : State) r => match r.2.reg with
      | some (addr, n) => (List.range n).foldl (fun (u : State) i => u.scanRun ctx r.1 r.2 addr i) t
      | none => t) s

def State.scanAll (s : State) : State :=
  if s.f2Runs then s.ctxs.foldl (fun (t : State) c => t.scanCtx c.1 c.2) s else s

def execResidentScanPeriod (s : State) : Result := .next (s.coreDone s.scanAll)

/-- A row that awaits scrub is written with zeros (R107). -/
def PCore.scrubRow (p : PCore) (row : Nat) : PCore :=
  if Ranges.has p.scrub row then { p with mem := p.mem.clear (row * 512) 512, scrub := Ranges.remove p.scrub row } else p

def execScrubWrite (pcore row : Nat) (s : State) : Result :=
  if s.running ∧ row < scratchRows then .next { s with pcores := s.pcores.modify pcore (fun p => p.scrubRow row) } else .next s

/- Droop. -/

/-- Every running step faults in class CORE, and the governor raises VCORE by 20 mV (R456). -/
def State.droopFaults (s : State) : State :=
  let running := (s.steps.list.filter (fun p => p.2.live && p.2.stage != .faulting)).map (·.1)
  (running.foldl (fun (t : State) n => t.faultStep n (stepFault 5 stCoreFail)) s).setVcore (min s.vcoreMax (s.power.vcore.toNat + 4))

def execDroopTimeout (region : Nat) (s : State) : Result :=
  if s.governs ∧ region ∈ s.power.holds then
    let t := s.droopFaults
    .next { (s.coreDone t) with power := t.power }
  else .next s

end Sys2Proof.Machine
end

