-- ==== Sys2Proof/Machine/CheckCmds.lean ====
section
/-!
DEFINITION. Machine/CheckCmds.lean: the check, resident-region and replay commands (R429, R435, R436, R443 to R449).
-/
namespace Sys2Proof.Machine

/-- What the check commands may change beside the parts of a completion. -/
def State.checkCmd (s r : State) : State := { s.cplOf r with pcores := r.pcores }

/-- CHECK_SET (R429). -/
def State.checkSet (s : State) (c : Cmd) : State :=
  (s.modCtx c.ctxNo (fun x => { x with setLevel := c.fld 8 1 % 4, setMask := c.fld 9 1 % 128 })).answer c stOk

def Cmd.residentKey (c : Cmd) : Nat := c.fld 8 1 % 8 * 65536 + c.fld 10 2

/-- Whether the n tiles from a device address lie in MODEL segments of a context (R435). -/
def Ctx.modelTiles (x : Ctx) (addr n : Nat) : Bool :=
  (List.range n).all (fun i => (x.segs.get? (segOf (addr + i * tileBytes))).any (fun (g : Seg) => g.kind == .model))

/-- RESIDENT_REF (R435). -/
def State.residentRef (s : State) (c : Cmd) : State :=
  let addr := c.fld 16 6
  let n := c.fld 24 4
  if addr % tileBytes ≠ 0 then s.answer c stBadField
  else match s.ctx c.ctxNo with
    | none => s
    | some x =>
      match x.residents.get? c.residentKey with
      | none => s.answer c stResidentBadRef
      | some r =>
        if r.rows ≠ 128 * n || !(x.modelTiles addr n) then s.answer c stResidentBadRef
        else (s.modCtx c.ctxNo (fun y => { y with residents := y.residents.upd c.residentKey (fun z =>
          { z with reg := some (addr, n), armed := false }) })).answer c stOk

/-- RESIDENT_ACK (R436): the region then reads zero until it is written. -/
def State.residentAck (s : State) (c : Cmd) : State :=
  match (s.ctx c.ctxNo).bind (fun (x : Ctx) => x.residents.get? c.residentKey) with
  | none => s.answer c stOk
  | some r =>
    if !r.lost then s.answer c stOk
    else
      let t := s.modScratch (c.fld 8 1 % 8) (fun p => p.markScrub r.first r.rows)
      (t.modCtx c.ctxNo (fun y => { y with residents := y.residents.upd c.residentKey (fun z => { z with lost := false, owed := false }) })).answer c stOk

/-- Whether a context is empty but for one window (R443). -/
def State.ctxEmpty (s : State) (n win : Nat) (x : Ctx) : Bool :=
  x.segs.isEmpty && x.kv.isNone && x.windows.all (fun p => p.1 == win) && !(s.images.imgs.any (fun p => p.2.ctx == n)) &&
    !(s.strms.any (fun p => p.2.ctx == n)) && !(s.nv.models.any (fun p => p.2.attached == some n))

/-- REPLAY_START (R443, R445). -/
def State.replayStart (s : State) (c : Cmd) : State :=
  let w := c.fld 8 2
  if c.fld 24 8 % 4096 ≠ 0 then s.answer c stBadField
  else match s.ctx c.ctxNo with
    | none => s
    | some x =>
      if s.param 0x0607 0 = 0 then s.answer c stRplNotAllowed
      else if x.replay.active then s.answer c stRplActive
      else if !s.ctxEmpty c.ctxNo w x then s.answer c stRplNotEmpty
      else if !x.windows.has w then s.answer c stWindowInvalid
      else
        let mode := c.fld 10 1 % 2
        let start : Replay :=
          { active := true, full := mode == 1, win := w, off := c.fld 16 8, len := c.fld 24 8, written := 0, records := 0, reason := 0,
            held := [] }
        let t := s.modCtx c.ctxNo (fun y => { y with replay := start })
        (t.replayRec c.ctxNo 0x01 0 (2 ^ 64 - 1) (toLe mode 4 ++ toLe x.size 4 ++ toLe s.nv.serial 8 ++ toLe s.nv.svn 2) []).answer c stOk

/-- REPLAY_STOP (R443, R449). -/
def State.replayStop (s : State) (c : Cmd) : State :=
  let t := s.replayEnd c.ctxNo 0
  t.complete c.fid stOk (toLe (((t.ctx c.ctxNo).map (fun (x : Ctx) => x.replay.written)).getD 0) 8)

/-- REPLAY_STATUS (R449). -/
def State.replayStatus (s : State) (c : Cmd) : State :=
  match s.ctx c.ctxNo with
  | none => s
  | some x => s.complete c.fid stOk (resultAt
      [(8, toLe (b2n x.replay.active + 2 * x.replay.reason) 1), (16, toLe x.replay.written 8), (24, toLe x.replay.records 8)])

/-- CHECK_QUERY (R449). -/
def State.checkQuery (s : State) (c : Cmd) : State :=
  match s.ctx c.ctxNo with
  | none => s
  | some x => s.complete c.fid stOk (toLe x.reexecs 4 ++ toLe x.checkFaults 4 ++ toLe x.expels 4 ++ toLe x.level 1 ++ toLe x.mask 1)

def execCheckSet (fid : Nat) (s : State) : Result := .next (s.checkCmd (s.runOp fid 0x40 stBadField State.checkSet))
def execResidentRef (fid : Nat) (s : State) : Result := .next (s.checkCmd (s.runOp fid 0x41 stBadField State.residentRef))
def execResidentAck (fid : Nat) (s : State) : Result := .next (s.checkCmd (s.runOp fid 0x42 stBadField State.residentAck))
def execReplayStart (fid : Nat) (s : State) : Result := .next (s.checkCmd (s.runOp fid 0x43 stBadField State.replayStart))
def execReplayStop (fid : Nat) (s : State) : Result := .next (s.checkCmd (s.runOp fid 0x44 stBadField State.replayStop))
def execReplayStatus (fid : Nat) (s : State) : Result := .next (s.checkCmd (s.runOp fid 0x45 stBadField State.replayStatus))
def execCheckQuery (fid : Nat) (s : State) : Result := .next (s.checkCmd (s.runOp fid 0x46 stBadField State.checkQuery))

end Sys2Proof.Machine
end

