-- ==== Sys2Proof/Machine/CtxCmds.lean ====
section
/-!
DEFINITION. Machine/CtxCmds.lean: the context and queue-pair commands (R344, R347, R352, R353), the function-level reset and the VF disable.
-/
namespace Sys2Proof.Machine

/-- What the context commands may change beside the parts of a completion. -/
def State.ctxCmd (s r : State) : State :=
  { s.cplOf r with nv := s.nv.modelsOf r.nv, dram := r.dram, strms := r.strms, images := r.images, pcores := r.pcores, tier := r.tier, cmp := r.cmp, flash := r.flash,
                   lcores := r.lcores, rope := r.rope, coll := r.coll, link := r.link, draws := r.draws }

def State.isoMode (s : State) : Bool := s.param 0x0101 0 == 1

/-- The lowest run of n stream-table entries that no context reserves (R173, R352). -/
def State.freeEntries (s : State) (n : Nat) : Option Nat :=
  let used := s.ctxs.map (fun p => (p.2.first, p.2.size))
  let starts := 0 :: used.map (fun u => u.1 + u.2)
  let fitsAt (a : Nat) : Bool := decide (a + n ≤ 65536) && !(used.any (fun u => decide (u.1 < a + n) && decide (a < u.1 + u.2)))
  (starts.filter fitsAt).foldl (fun (m : Option Nat) a => match m with | none => some a | some b => some (min a b)) none

/-- Spill extents of 2 MiB in the spill partition (R321): what the other partitions leave of 1 TiB. -/
def State.spillUnits (s : State) : Nat := 524000 - s.param 0x0401 0

/-- The context that a CTX_CREATE describes, at a stream-table entry, with a fresh nonce (R352). -/
def Cmd.newCtx (c : Cmd) (s : State) (first : Nat) (nonce : Bytes) : Ctx :=
  let f := c.fld 14 1
  let iso := s.isoMode || bit? f 3
  { func := c.func, state := 1, cls := f % 4, confidential := bit? f 4, isolated := iso, borrow := bit? f 2 && !iso,
    partition := c.fld 15 1, cores := c.fld 20 1, first := first, size := c.fld 8 3 % 2 ^ 17, guarantee := c.fld 12 2,
    spill := c.fld 16 3 % 2 ^ 20, seq := 0, viol := 0, skip := 0, strmEv := [], kvEv := [], tierEv := [], windows := [], segs := [],
    kv := none, hand := (0, 0), setLevel := 0, setMask := 0, level := s.param 0x0601 (f % 4), mask := s.param 0x0602 (f % 4), reexecs := 0,
    checkFaults := 0, expels := 0, residents := [], replay := Replay.idle, ordinal := 0, cairn := none, cairnNext := none, cairnSeq := 0,
    cairnDrop := 0, sec := CtxSec.fresh nonce, charges := [], copies := [] }

/-- Whether the isolation rules let a context be created (R353, R388). -/
def State.isolationOk (s : State) (x : Ctx) : Bool :=
  let others := s.ctxs.filter (fun p => s.owner p.2.func != s.owner x.func)
  !(others.any (fun p => p.2.isolated && p.2.partition == x.partition)) &&
    (!x.isolated || !(others.any (fun p => p.2.partition == x.partition || (p.2.cores &&& x.cores) != 0))) &&
    !(s.isoMode && x.func != 0 && x.partition == s.param 0x020C 0)

/-- Whether the guarantee and the spill quota fit (R226, R236, R294, R352). -/
def State.quotaFits (s : State) (x : Ctx) : Bool :=
  let all := (s.ctxs.map (fun p => p.2.guarantee)).sum
  let mine := ((s.ctxs.filter (fun p => p.2.partition == x.partition)).map (fun p => p.2.guarantee)).sum
  let spill := (s.ctxs.map (fun p => p.2.spill)).sum
  decide (all + x.guarantee ≤ s.guaranteeable none) && decide (mine + x.guarantee ≤ s.guaranteeable (some x.partition)) &&
    decide (spill + x.spill ≤ s.spillUnits)

/-- Whether a partition has a group (R296): the range of CTX_CREATE's PARTITION (notes/assumptions/22.md). -/
def State.hasPartition (s : State) (n : Nat) : Bool := (List.range 8).any (fun g => s.param 0x020C g == n)

/-- CTX_CREATE (R226, R296, R352, R353, R375, R388). -/
def State.ctxCreate (s : State) (c : Cmd) : State :=
  let d := s.draw
  let x := c.newCtx s 0 d.1
  if 65536 < x.size ∨ x.isolated == (x.cores == 0) ∨ !s.hasPartition x.partition then s.answer c stBadField
  else if x.confidential && !(s.link.ideEnabled && s.link.ideSecure) then s.answer c stSecNoIde
  else match s.ctxs.firstFree 0 (if s.isoMode then min 4096 (8 + s.ctxs.length) else 4096) with
    | none => s.answer c stCtxLimit
    | some n =>
      if (s.isoMode && decide (8 ≤ s.ctxs.length)) || decide (s.param 0x0102 c.func ≤ (s.ctxs.filter (fun p => p.2.func == c.func)).length) then
        s.answer c stCtxLimit
      else match s.freeEntries x.size with
        | none => s.answer c stCtxNoResources
        | some first =>
          if !s.quotaFits x || !s.isolationOk x then s.answer c stCtxNoResources
          else
            let t : State := { d.2 with ctxs := d.2.ctxs.set n { x with first := first } }
            let done (u : State) : State := u.complete c.fid stOk (resultAt [(8, toLe n 2), (12, toLe first 2)])
            if !x.isolated ∨ x.size = 0 then done t
            else match t.claimTiles n chargeStrm 32 with
              | .ok u => done u
              | .wait k => (s.reclaimFor n k).defer c.fid
              | .refused => s.answer c stCtxNoResources

/-- An admin command that names a context: it exists and belongs to the issuing function unless the PF issues it (R351). -/
def State.onCtx (s : State) (c : Cmd) (n : Nat) (k : Ctx → State) : State :=
  match s.ctx n with
  | none => s.answer c stCtxInvalid
  | some x => if c.func ≠ 0 ∧ x.func ≠ c.func then s.answer c stNotPermitted else k x

/-- Whether a step of a context runs, or a command of its queues has started and not ended (R352 step 1). -/
def State.ctxBusy (s : State) (n : Nat) : Bool :=
  s.steps.list.any (fun p => p.2.ctx == n && (p.2.live || p.2.reexecs != 0)) ||
    s.cmds.list.any (fun e => e.ctx == some n && e.stage == .running && !(s.steps.list.any (fun p => p.2.fid == e.fid)))

/-- Marks a context as being reset and lets the command wait. -/
def State.ctxWait (s : State) (c : Cmd) (n : Nat) : State := (s.modCtx n (fun x => { x with state := 3 })).defer c.fid

/-- CTX_RESET (R352, R364). -/
def State.ctxReset (s : State) (c : Cmd) : State :=
  let n := c.fld 8 2
  s.onCtx c n (fun _ =>
    if s.ctxBusy n then s.ctxWait c n
    else
      let t := ((s.abortCmds n).teardown n true).draw
      (t.2.modCtx n (fun x => x.cleared t.1)).answer c stOk)

/-- CTX_DESTROY (R352). -/
def State.ctxDestroy (s : State) (c : Cmd) : State :=
  let n := c.fld 8 2
  s.onCtx c n (fun _ =>
    if s.ctxBusy n then s.ctxWait c n
    else ((s.abortCmds n).removeCtx n).answer c stOk)

/-- QP_CREATE (R344, R350, R351). -/
def State.qpCreate (s : State) (c : Cmd) : State :=
  let depth := c.fld 10 2 + 1
  let p := c.fld 12 3
  let sq := c.fld 16 8
  let cq := c.fld 24 8
  let n := c.fld 8 2
  if (s.ctx n).any (fun (x : Ctx) => c.func != 0 && x.func != c.func) then s.answer c stNotPermitted
  else if depth < 64 ∨ sq % 4096 ≠ 0 ∨ cq % 4096 ≠ 0 then s.answer c stQpBadArgs
  else match s.ctx n with
    | none => s.answer c stCtxInvalid
    | some x =>
      let held := (s.queues.filter (fun q => (s.ctx q.2.ctx).any (fun (y : Ctx) => y.func == x.func))).length
      match s.queues.firstFree 0 32768 with
      | none => s.answer c stQpLimit
      | some q =>
        if s.param 0x0103 x.func ≤ held then s.answer c stQpLimit
        else
          let new : Queue :=
            { ctx := n, depth := depth, pasid := if bit? p 20 then some (p % 2 ^ 20) else none, sqBase := sq, cqBase := cq,
              vector := c.fld 32 2, state := .active, cause := 0, sqHead := 0, sqTail := 0, cqHead := 0, cqTail := 0, phase := true, held := [],
              ordinal := x.ordinal, since := 0 }
          let t : State := { s with queues := s.queues.set q new }
          (t.modCtx n (fun y => { y with ordinal := y.ordinal + 1 })).complete c.fid stOk (toLe q 2)

/-- QP_DELETE (R347). -/
def State.qpDelete (s : State) (c : Cmd) : State :=
  let q := c.fld 8 2
  match s.queues.get? q with
  | none => s.answer c stQpInvalid
  | some x =>
    if c.func ≠ 0 ∧ !((s.ctx x.ctx).any (fun (y : Ctx) => y.func == c.func)) then s.answer c stNotPermitted
    else if s.cmds.list.any (fun e => e.q == .pair q) then
      ({ s with queues := s.queues.upd q (fun y => { y with state := .deleting }) } : State).defer c.fid
    else ({ s with queues := s.queues.erase q } : State).answer c stOk

def execCtxCreate (fid : Nat) (s : State) : Result := .next (s.ctxCmd (s.runOp fid 0x80 stBadField State.ctxCreate))
def execCtxReset (fid : Nat) (s : State) : Result := .next (s.ctxCmd (s.runOp fid 0x81 stBadField State.ctxReset))
def execCtxDestroy (fid : Nat) (s : State) : Result := .next (s.ctxCmd (s.runOp fid 0x82 stBadField State.ctxDestroy))
def execQpCreate (fid : Nat) (s : State) : Result := .next (s.cplOf (s.runOp fid 0x83 stBadField State.qpCreate))
def execQpDelete (fid : Nat) (s : State) : Result := .next (s.cplOf (s.runOp fid 0x84 stBadField State.qpDelete))

/-- An FLR of a function, or of every function when it is the PF (R352). In the halt of R405 it resets the registers that answer there
(R12, R404). In OFF, in Bivouac and under reset no request arrives (R457). -/
def execFunctionLevelReset (func : Nat) (s : State) : Result :=
  if s.hostLives then
    let r := if func = 0 then ((0 :: s.funcs.keys ++ s.ctxs.map (fun p => p.2.func)).dedup).foldl (fun (t : State) f => t.resetFunc f) s
      else s.resetFunc func
    .next { s.ctxCmd r with
      pf := r.pf, power := r.power, boot := { s.boot with recoveryAddr := r.boot.recoveryAddr, recoveryLen := r.boot.recoveryLen },
      sparing := { s.sparing with ueLast := r.sparing.ueLast } }
  else .next s

/-- SR-IOV disables a VF: CTX_DESTROY on each of its contexts, and its admin queue is disabled (R352). -/
def execVfDisable (func : Nat) (s : State) : Result :=
  if s.hostLives ∧ func ≠ 0 then .next (s.ctxCmd (s.resetFunc func)) else .next s

end Sys2Proof.Machine
end

