-- ==== Sys2Proof/Machine/DramRows.lean ====
section
/-!
DEFINITION. Machine/DramRows.lean: the channel controllers' queues and accesses (R274 to R281, R298), refresh and its counters (R283 to R285),
retraining (R286 to R289), rank retirement (R290 to R293), set-point changes (R295) and quad power (R297, R299).
-/
namespace Sys2Proof.Machine

/-- The number of the frame that lies at a frame position of a rank, if one does (R269, R270). -/
def Dram.frameOf (d : Dram) (chan rank fr : Nat) : Option Nat :=
  let g := chan / 4
  let x := d.group g
  let sp := x.spareIdx
  let home (r : Nat) : Nat := g * groupFrames + (if r ≤ sp then r * rankFrames else r * rankFrames - 480) + fr
  let r := chan % 4 * 2 + rank
  if r ≠ sp then some (home r)
  else match x.retired with
    | some (ch, rk) =>
      if x.spareState = 3 ∨ (x.spareState = 2 ∧ fr < x.migProgress.toNat) then some (home (ch * 2 + b2n rk))
      else if fr < 480 then some (home r) else none
    | none => if fr < 480 then some (home r) else none

/-- The frame of a block key. -/
def Dram.frameOfKey (d : Dram) (k : Nat) : Option Nat := d.frameOf (keyChan k) (keyRank k) (keyIdx k / frameBlocks)

/-- The tile that lies in a block: context, segment, tile. -/
def State.tileOfKey (s : State) (k : Nat) : Option (Nat × Nat × Nat) :=
  let i := keyIdx k % frameBlocks / 1024
  match (s.dram.frameOfKey k).bind (fun f => s.tier.frames.get? f) with
  | some (.segment c g) => some (c, g, i)
  | some (.cache c _ slots) => (slots.get? i).map (fun p => (c, p.1, p.2))
  | _ => none

/-- What the tile of a block is sealed with, when it is PROTECTED (R383). -/
def State.keysOf (s : State) (k : Nat) : Option (Nat × SealKeys) :=
  (s.tileOfKey k).bind (fun p => (s.seg p.1 p.2.1).bind (fun g => (s.tileKeys p.1 p.2.1 g p.2.2).map (fun x => (p.1, x))))

/-- The 64 bytes of a block as they reach the controller: of a PROTECTED tile, its part of the encrypted sector (R275, R383). -/
def State.storedBlock (s : State) (k : Nat) : Bytes :=
  match s.keysOf k with
  | none => s.dram.cells k
  | some (_, x) =>
    let first := k / 8 * 8
    (x.close (keyIdx first % 1024 * 64) ((List.range 8).flatMap (fun i => s.dram.cells (first + i)))).drop ((k - first) * 64) |>.take 64

/-- The check bytes of a block as they stand beside it in its row (R272, R273, R275). -/
def State.check (s : State) (k : Nat) : List Nat := eccOf (keyIdx k) (keyChan k) (keyRank k) (s.storedBlock k)

/-- The 2,048 bytes of a row: DATA, CHECK, POISON and POISON_INV (R272). -/
def State.rowBytes (s : State) (base bank row : Nat) : Bytes :=
  let ks := (List.range 30).map (fun i => base + slotBlock bank row i)
  ks.flatMap s.storedBlock ++ (ks.flatMap s.check).map (BitVec.ofNat 8) ++ toLe (s.dram.poisonWord base bank row) 4 ++
    toLe (2 ^ 32 - 1 - s.dram.poisonWord base bank row) 4

/-- The context for which a request is made (R277, R298). -/
def State.reqCtx (s : State) : Requester → Option Nat
  | .step c => (s.current c).map (fun x => x.r.ctx)
  | .ctx c => some c
  | .firmware => none

/-- The service class of a request: its context's, or that of the firmware (R277). -/
def State.reqClass (s : State) (w : Requester) : Nat :=
  match (s.reqCtx w).bind s.ctx with
  | some x => x.cls
  | none => s.param 0x0203 0

/-- A request that reaches a quad that is off follows the violation rule, for the context that it was made for (R298). -/
def State.lateRequest (s : State) (frame : Nat) (w : Requester) : State :=
  let t := ({ s with dram := { s.dram with violCnt := satUp s.dram.violCnt } } : State).dramEvent 9
  match s.reqCtx w with
  | none => t
  | some c =>
    match t.ctx c with
    | none => t
    | some x => (t.countViol c 1).logBoth x.func
        { mkLog 0x0010 [(0, 6), (16, 0xFFFF)] with
          ctx := some c, core := (match w with | .step k => some k | _ => none), pfDetail := [(128, frame)] }

/-- Whether the quad of a block takes requests. -/
def Dram.accepts (d : Dram) (k : Nat) : Bool := ((d.chan (keyChan k)).quad (keyRank k) (blockQuad (keyIdx k))).accepts

/-- Gives the answer of a block read. -/
def Dram.answer (d : Dram) (tag : Nat) (b : Option Bytes) : Dram := { d with answers := d.answers ++ [(tag, b)] }

/-- What the tier engine does with an uncorrectable read of a block: a copy that can be had again is dropped, an only copy is poisoned, in its
tile and in its slot; with the class and the status of the fault of a reading step (R242, R244, R274). -/
def State.ueBlock (s : State) (k : Nat) : State × Option (Nat × Nat) :=
  let poisoned (t : State) : State := { t with dram := t.dram.poisonAll [k] }
  match (s.dram.frameOfKey k).bind (fun f => s.tier.frames.get? f) with
  | some (.segment c g) => let r := s.copyLost c g (keyIdx k % frameBlocks / 1024); (poisoned r.1, some r.2)
  | some (.cache c _ slots) =>
    match slots.get? (keyIdx k % frameBlocks / 1024) with
    | some (g, t) =>
      let r := s.copyLost c g t
      (if (s.tile c g t).any (fun (x : Tile) => x.dirty) then poisoned r.1 else r.1, some r.2)
    | none => (poisoned s, none)
  | some (.charged c) =>
    match s.imageAt c ((s.dram.frameOfKey k).getD 0 * 32 + keyIdx k % frameBlocks / 1024) with
    | some (slot, t) => (poisoned (s.loseImage c slot t), some (8, 0x70))
    | none => (poisoned s, none)
  | _ => (poisoned s, none)

/-- The tier engine deals with a block that cannot be used, and the step that reads it faults (R242, R244). -/
def State.lostRead (s : State) (k : Nat) (w : Requester) : State :=
  let r := s.ueBlock k
  match w, r.2 with
  | .step c, some (cls, st) =>
    match s.current c with
    | some x => (r.1.faultStep x.n (stepFault cls st)).settleFaults
    | none => r.1
  | _, _ => r.1

/-- An uncorrectable block read is counted (R274). -/
def State.ueRead (s : State) (k : Nat) (w : Requester) : State := (s.countChanUe (keyChan k)).lostRead k w

/-- Bytes that a read returned for a block of a PROTECTED tile differ from those that its MAC binds: the copy is uncorrectable, and MAC_FAIL_CNT
increments (R384). -/
def State.macRead (s : State) (k ctx : Nat) (w : Requester) : State :=
  ((s.modCtx ctx (fun x => { x with sec := { x.sec with macFail := satUp x.sec.macFail } })).secEvent ctx 1).lostRead k w

/-- What the DRAM rows that can fault a step may change: the parts of a core row, and the service record of the ranks. -/
def State.dramDone (s r : State) : State := { s.coreRow r with nv := s.nv.serviceOf r.nv }

/-- A block read of a frame enters its channel (R276, R280, R289, R298). A full queue withholds its acknowledge. -/
def State.readRequest (s : State) (frame block : Nat) (w : Requester) (tag : Nat) : State :=
  let k := s.dram.keyOf frame block
  let c := keyChan k
  if (s.dram.chan c).state = 3 then
    let t := s.ueRead k w
    { t with dram := t.dram.answer tag none }
  else if !s.dram.accepts k then
    let t := s.lateRequest frame w
    { t with dram := t.dram.answer tag (some (List.replicate 64 0#8)) }
  else match s.dram.queued k with
    | some b => { s with dram := s.dram.answer tag (some b) }
    | none =>
      if (s.dram.chan c).reads.length < 128 then
        let r : DramRead := { rank := keyRank k, block := keyIdx k, cls := s.reqClass w, who := w, tag := tag, kept := none }
        { s with dram := s.dram.setChan c (fun x => { x with reads := x.reads ++ [r] }) }
      else s

def execDramReadRequest (frame block : Nat) (who : Requester) (tag : Nat) (s : State) : Result :=
  if allFrames ≤ frame ∨ frameBlocks ≤ block then .fault .absentDram
  else if s.running then .next (s.dramDone (s.readRequest frame block who tag)) else .next s

/-- Places a write in a channel's queue, in the entry of the same block when there is one (R280); none when the queue is full. -/
def Dram.queueWrite (d : Dram) (k : Nat) (b : Bytes) : Option Dram :=
  if (d.queued k).isSome then some (d.writeKey k b)
  else if (d.chan (keyChan k)).writes.length < 64 then
    some (d.setChan (keyChan k) (fun x => { x with writes := x.writes ++ [{ rank := keyRank k, block := keyIdx k, data := fixLen 64 b }] }))
  else none

/-- A write that a DOWN channel drops is lost with the tile it belongs to (R244, R289). -/
def State.lostWrite (s : State) (k : Nat) : State :=
  match (s.dram.frameOfKey k).bind (fun f => s.tier.frames.get? f) with
  | some (.segment c g) => (s.copyLost c g (keyIdx k % frameBlocks / 1024)).1
  | some (.cache c _ slots) =>
    match slots.get? (keyIdx k % frameBlocks / 1024) with
    | some (g, t) => s.dropWrite c g t
    | none => s
  | _ => s

/-- A block write of a frame enters its channel, and the spare rank's too while its frame is being copied (R276, R280, R289, R292, R298). -/
def State.writeRequest (s : State) (frame block : Nat) (w : Requester) (b : Bytes) : State :=
  let k := s.dram.keyOf frame block
  if (s.dram.chan (keyChan k)).state = 3 then s.lostWrite k
  else if !s.dram.accepts k then s.lateRequest frame w
  else
    let d := s.dram.queueWrite k b
    let e := match s.dram.mirror frame block with
      | some m => d.bind (fun x => x.queueWrite m b)
      | none => d
    { s with dram := e.getD s.dram }

def execDramWriteRequest (frame block : Nat) (who : Requester) (data : Bytes) (s : State) : Result :=
  if allFrames ≤ frame ∨ frameBlocks ≤ block then .fault .absentDram
  else if s.running then .next (s.dramRow (s.writeRequest frame block who data)) else .next s

/-- Whether a channel issues accesses: it serves, or is between two training slices (R287, R295). -/
def DramChan.issues (c : DramChan) : Bool := c.state == 0 || (c.state == 1 && !c.training.any (fun t => t.inSlice))

/-- Whether a bank is not held by a forced refresh or refresh management command (R283). -/
def DramChan.bankFree (c : DramChan) (rank block : Nat) : Bool :=
  decide (c.debt.getD (blockBank rank block).1 0 < 8) && decide (c.rfmDebt.getD (blockBank rank block).1 0 < 8)

/-- Whether draw n of the entropy source schedules a neighbour refresh: with probability 2 to the power of minus P (R284). -/
def State.pnrDrawn (s : State) (n : Nat) : Bool := leAt (Config.entropy n) 0 4 % 2 ^ s.param 0x0205 0 == 0

/-- Rows are activated: each takes a draw, and those that it picks have a neighbour refresh scheduled (R284). -/
def State.activated (s : State) (chan : Nat) (acts : List (Nat × Nat)) : State :=
  let hit := (acts.zipIdx.filter (fun a => s.pnrDrawn (s.draws + a.2))).map (·.1)
  { s with dram := s.dram.setChan chan (fun c => { c with pnrDue := c.pnrDue ++ hit }), draws := s.draws + acts.length }

/-- A channel issues its next read and opens its row (R278, R281, R284). -/
def State.readIssue (s : State) (chan : Nat) (aged : Bool) : State :=
  let c := s.dram.chan chan
  let weights := (List.range 4).map (fun i => s.param 0x0202 i)
  if !c.issues then s
  else match c.choose weights aged (fun r => c.bankFree r.rank r.block) with
    | none => s
    | some (r, cls, used) =>
      let b := blockBank r.rank r.block
      State.activated { s with dram := s.dram.setChan chan (fun x =>
        { x with reads := dropRead x.reads r, issued := x.issued ++ [r], openRows := x.openRows.set b.1 b.2, wrrClass := cls, wrrUsed := used }) }
        chan (if c.openRows.get? b.1 = some b.2 then [] else [b])

/-- What the rows that activate DRAM rows may change. -/
def State.accessRow (s r : State) : State := { s with dram := r.dram, draws := r.draws }

def execDramReadIssue (chan : Nat) (aged : Bool) (s : State) : Result :=
  if 32 ≤ chan then .fault .absentDram
  else if s.running then .next (s.accessRow (s.readIssue chan aged)) else .next s

/-- Logs a corrected read (R274, R286, R290). -/
def State.countCe (s : State) (chan rank idx : Nat) : State :=
  { s with dram := s.dram.setChan chan (fun c => { c with ce := satUp c.ce, ceLog := (s.boot.timer, rank, idx) :: c.ceLog }) }

/-- The exclusive-or of an error pattern on a word whose bytes begin at a position. -/
def errWord (error : List (Nat × Nat)) (at' : Nat) : Nat :=
  error.foldl (fun w p => if at' ≤ p.1 ∧ p.1 < at' + 4 then w ^^^ (p.2 * 256 ^ (p.1 - at')) else w) 0

/-- The data bytes of a codeword with an error pattern on it: its symbols 4 to 67 (R273). -/
def errData (error : List (Nat × Nat)) (b : Bytes) : Bytes :=
  error.foldl (fun (x : Bytes) p => if 4 ≤ p.1 then x.modify (p.1 - 4) (fun y => y ^^^ BitVec.ofNat 8 p.2) else x) b

/-- The slots of a row that its words name as poisoned when they come with an error pattern: set in POISON, or clear in POISON_INV; and whether the
words disagree (R272, R274). -/
def State.poisonRead (s : State) (k : Nat) (error : List (Nat × Nat)) : List Nat × Bool :=
  let b := blockBank 0 (keyIdx k)
  let w := s.dram.poisonWord (k - keyIdx k) b.1 b.2
  let p := w ^^^ errWord error 72
  let q := w ^^^ errWord error 76
  ((List.range 30).filter (fun i => p.testBit i || q.testBit i), p != q)

/-- The words of a row disagree: the error counts as corrected, and the next write drain writes both with every slot that either names (R274). -/
def State.poisonFixed (s : State) (k : Nat) (slots : List Nat) : State :=
  let b := blockBank 0 (keyIdx k)
  let t := s.countCe (keyChan k) (keyRank k) (keyIdx k)
  { t with dram := t.dram.setChan (keyChan k) (fun c =>
    { c with repoison := slots.map (fun i => k - keyIdx k + slotBlock b.1 b.2 i) ++ c.repoison }) }

/-- Decodes a block as it comes from the array, with an error pattern over the 72 symbols of its codeword and the poison words of its row (R272 to
R274): the state after it, and the data or none. The codeword is that of the stored data and check bytes with the address of the block; the code is linear, so
the error pattern alone decides the outcome (of a PROTECTED tile, over its ciphertext: notes/assumptions/13.md). A corrected block is rewritten at the next drain unless a newer write of it waits. `scrub` tells that
the patrol scrub reads it, which leaves the tile to its next read (R285). -/
def State.decodeBlock (s : State) (k : Nat) (kept : Option (Option Bytes)) (error : List (Nat × Nat)) (who : Requester) (scrub : Bool) :
    State × Option Bytes :=
  let c := keyChan k
  let words := s.poisonRead k error
  let s1 := if words.2 then s.poisonFixed k words.1 else s
  match if words.1.contains (blockSlot (keyIdx k)) && kept.isNone then none else kept.getD (s.dram.array k) with
  | none => (if scrub then s1.countChanUe c else s1.ueRead k who, none)
  | some b =>
    let code := error.filter (fun p => p.1 < 72)
    -- bytes of a PROTECTED block that come back altered: its MAC tells (R384), or its next read when the scrub, which checks none, wrote them back
    let altered (t : State) (ctx : Nat) : State × Option Bytes :=
      (if scrub then { t with dram := { t.dram with bad := k :: t.dram.bad.filter (· != k) } } else t.macRead k ctx who, none)
    match eccDecode code with
    | .clean =>
      match (s.keysOf k).filter (fun _ => errData code b != b) with
      | some (ctx, _) => if scrub then (s1, none) else altered s1 ctx
      | none => (s1, some (errData code b))
    | .corrected sym mag =>
      let fixed := errData ((sym, mag) :: code) b
      let t := s1.countCe c (keyRank k) (keyIdx k)
      match (s.keysOf k).filter (fun _ => fixed != b) with
      | some (ctx, _) => altered t ctx
      | none => (if kept.isSome ∨ (t.dram.queued k).isSome then t else { t with dram := (t.dram.queueWrite k fixed).getD (t.dram.store k fixed) }, some fixed)
    | .uncorrectable =>
      let u : State := { s1 with dram := s1.dram.setChan c (fun x => { x with ueRanks := keyRank k :: x.ueRanks.filter (· != keyRank k) }) }
      (if scrub then { u.countChanUe c with dram := { (u.countChanUe c).dram with bad := k :: u.dram.bad.filter (· != k) } } else u.ueRead k who, none)

/-- The oldest issued read of a channel returns (R274). -/
def State.readData (s : State) (chan : Nat) (error : List (Nat × Nat)) : State :=
  match (s.dram.chan chan).issued with
  | [] => s
  | r :: rest =>
    let t : State := { s with dram := s.dram.setChan chan (fun x => { x with issued := rest }) }
    let d := t.decodeBlock (blockKey chan r.rank r.block) r.kept error r.who false
    { d.1 with dram := d.1.dram.answer r.tag d.2 }

def execDramReadData (chan : Nat) (error : List (Nat × Nat)) (s : State) : Result :=
  if 32 ≤ chan then .fault .absentDram
  else if s.running then .next (s.dramDone (s.readData chan error)) else .next s

/-- Issues queued writes until 16 or fewer remain and none of the aged ones does: open-row hits first, then the oldest (R279). -/
def drainWrites (free : DramWrite → Bool) : Nat → AList Nat → List DramWrite → List DramWrite → List DramWrite × List DramWrite × AList Nat
  | 0, rows, _, ws => ([], ws, rows)
  | n + 1, rows, aged, ws =>
    if ws.length ≤ 16 ∧ aged.all (fun a => !ws.contains a) then ([], ws, rows)
    else
      let able := ws.filter free
      let hit := able.find? (fun w => let b := blockBank w.rank w.block; rows.get? b.1 == some b.2)
      match hit.or able.head? with
      | none => ([], ws, rows)
      | some w =>
        let b := blockBank w.rank w.block
        let r := drainWrites free n (rows.set b.1 b.2) aged (ws.erase w)
        (w :: r.1, r.2.1, r.2.2)

/-- Whether a queued write can be issued: no forced refresh holds its bank, and no earlier read of its block is on its way (R280, R283). -/
def DramChan.canDrain (c : DramChan) (w : DramWrite) : Bool :=
  c.bankFree w.rank w.block && !(c.reads ++ c.issued).any (fun r => r.rank == w.rank && r.block == w.block)

/-- The rows that a sequence of writes activates, given the open rows before it (R281, R284). -/
def rowActs : AList Nat → List DramWrite → List (Nat × Nat)
  | _, [] => []
  | rows, w :: ws =>
    let b := blockBank w.rank w.block
    (if rows.get? b.1 = some b.2 then [] else [b]) ++ rowActs (rows.set b.1 b.2) ws

/-- A drain burst; it also writes the poison words that were found to disagree (R274, R279). `aged` tells how many of the oldest writes are older than
the limit. -/
def State.drainBurst (s : State) (chan aged : Nat) (readsIdle : Bool) : State :=
  let c := s.dram.chan chan
  if !c.issues ∨ !(decide (48 ≤ c.writes.length) || aged != 0 || readsIdle) then s
  else
    let r := drainWrites c.canDrain c.writes.length c.openRows (c.writes.take aged) c.writes
    let d := r.1.foldl (fun (x : Dram) w => x.store (blockKey chan w.rank w.block) w.data) (s.dram.poisonAll c.repoison)
    State.activated { s with dram := d.setChan chan (fun x => { x with writes := r.2.1, openRows := r.2.2, repoison := [] }) } chan
      (rowActs c.openRows r.1)

def execWriteDrainBurst (chan aged : Nat) (readsIdle : Bool) (s : State) : Result :=
  if 32 ≤ chan then .fault .absentDram
  else if s.running then .next (s.accessRow (s.drainBurst chan aged readsIdle)) else .next s

/-- Whether a bank has a queued request. -/
def DramChan.bankBusy (c : DramChan) (bank : Nat) : Bool :=
  c.reads.any (fun r => (blockBank r.rank r.block).1 == bank) || c.writes.any (fun w => (blockBank w.rank w.block).1 == bank)

/-- The row of an idle bank closes (R281). -/
def execPageIdleClose (chan bank : Nat) (s : State) : Result :=
  if 32 ≤ chan then .fault .absentDram
  else if s.running ∧ !(s.dram.chan chan).bankBusy bank then
    .next { s with dram := s.dram.setChan chan (fun c => { c with openRows := c.openRows.erase bank }) }
  else .next s

/-- Whether a bank is refreshed: its quad is on and its rank is not retired (R283). -/
def DramChan.refreshed (c : DramChan) (bank : Nat) : Bool :=
  (c.quad (bank / 16) (bank % 4)).accepts && !(if bank / 16 = 0 then c.retired0 else c.retired1)

/-- The debt of a bank after a refresh falls due: pulled in at an idle bank, postponed at a busy one, forced at a debt of 8; and whether the refresh
is issued (R283). -/
def refreshDebt (busy : Bool) (d : Nat) : Nat × Bool := if !busy then (d - 1, true) else if d < 8 then (d + 1, false) else (7, true)

/-- A per-bank refresh or a refresh management command falls due; an RFM command follows the same rules with a debt of its own (R283). -/
def DramChan.refresh (c : DramChan) (bank : Nat) (rfm : Bool) : DramChan :=
  let r := refreshDebt (c.bankBusy bank) ((if rfm then c.rfmDebt else c.debt).getD bank 0)
  { c with
    debt := if rfm then c.debt else c.debt.set bank r.1
    rfmDebt := if rfm then c.rfmDebt.set bank r.1 else c.rfmDebt
    openRows := if r.2 then c.openRows.erase bank else c.openRows }

def execRefresh (chan bank : Nat) (rfm : Bool) (s : State) : Result :=
  if 32 ≤ chan ∨ 32 ≤ bank then .fault .absentDram
  else if s.running ∧ (s.dram.chan chan).issues ∧ (s.dram.chan chan).refreshed bank then
    .next { s with dram := s.dram.setChan chan (fun c => c.refresh bank rfm) }
  else .next s

/-- The controller reads MR4 of both ranks and shows the higher refresh rate (R283, R301). -/
def execMr4Poll (chan : Nat) (rate0 rate1 : BitVec 4) (s : State) : Result :=
  if 32 ≤ chan then .fault .absentDram
  else if s.running ∧ (s.dram.chan chan).state ≠ 3 then
    .next { s with dram := s.dram.setChan chan (fun c => { c with rate := if rate0.toNat < rate1.toNat then rate1 else rate0 }) }
  else .next s

/-- A scheduled neighbour refresh runs: it takes the bank, whose row closes (R281, R284). -/
def execNeighbourRefresh (chan bank row : Nat) (s : State) : Result :=
  if 32 ≤ chan ∨ 32 ≤ bank then .fault .absentDram
  else if s.running ∧ (s.dram.chan chan).issues ∧ (bank, row) ∈ (s.dram.chan chan).pnrDue then
    .next { s with dram := s.dram.setChan chan (fun c =>
      { c with pnr := satUp c.pnr, pnrDue := c.pnrDue.erase (bank, row), openRows := c.openRows.erase bank }) }
  else .next s

/-- Quad number n of the tile as (channel, rank, quad). -/
def quadAt (n : Nat) : Nat × Nat × Nat := (n / 8, n / 4 % 2, n % 4)

/-- Blocks of a quad. -/
def quadBlocks : Nat := 240 * frameBlocks

/-- Whether the patrol scrub reads a quad: its rank is in service or takes the place of a retired one (R285). -/
def Dram.patrolled (d : Dram) (n : Nat) : Bool :=
  let q := quadAt n
  let c := d.chan q.1
  c.state != 3 && (c.quad q.2.1 q.2.2 == .on) && !(if q.2.1 = 0 then c.retired0 else c.retired1) &&
    (!d.isSpare q.1 (q.2.1 == 1) || (d.group (q.1 / 4)).spareState == 3)

/-- The next block that the patrol scrub reads, from a block on (R285). -/
def Dram.patrolNext (d : Dram) (k : Nat) : Option Nat :=
  let n := k / quadBlocks
  if d.patrolled n then some k
  else ((List.range 256).map (fun i => (n + 1 + i) % 256)).findSome? (fun m => if d.patrolled m then some (m * quadBlocks) else none)

def execPatrolScrub (error : List (Nat × Nat)) (s : State) : Result :=
  if s.f2Runs then
    match s.dram.patrolNext s.dram.patrol with
    | none => .next s
    | some k =>
      let t := (s.decodeBlock k none error .firmware true).1
      .next (s.dramRow { t with dram := { t.dram with patrol := (k + 1) % (256 * quadBlocks) } })
  else .next s

/-- Whether a cause makes a channel due (R286). -/
def State.isDue (s : State) (c : DramChan) (cause : DueCause) : Bool :=
  match cause with
  | .temperature t => decide (10 ≤ (t - c.tempAtTrain).natAbs)
  | .drift d => decide (s.param 0x0208 0 < d)
  | .errors => decide (8 ≤ (c.ceLog.filter (fun e => decide (s.boot.timer < e.1 + 1000000))).length)
  | .period => decide (c.lastTrain + 1000000 * s.param 0x0207 0 ≤ s.boot.timer)

/-- A channel becomes due, and is trained when its group is free; a temperature that a die reports is kept for the end of the next training (R286). -/
def State.becomeDue (s : State) (chan : Nat) (cause : DueCause) : State :=
  let c := s.dram.chan chan
  let temp : Int := match cause with
    | .temperature t => t
    | _ => c.temp
  let t : State := { s with dram := s.dram.setChan chan (fun x => { x with temp := temp }) }
  if c.state = 3 ∨ c.due ∨ c.training.isSome ∨ !s.isDue c cause then t
  else ({ t with dram := t.dram.setChan chan (fun x => { x with due := true }) } : State).trainNext (chan / 4)

def execRetrainDue (chan : Nat) (cause : DueCause) (s : State) : Result :=
  if 32 ≤ chan then .fault .absentDram
  else if s.f2Runs then .next (s.dramRow (s.becomeDue chan cause)) else .next s

/-- A slice starts: the rows close and the queues hold (R287). -/
def execRetrainSliceStart (chan : Nat) (s : State) : Result :=
  if 32 ≤ chan then .fault .absentDram
  else if s.f2Runs ∧ (s.dram.chan chan).state = 1 ∧ s.dram.change = none then
    .next { s with dram := s.dram.setChan chan (fun c =>
      { c with openRows := [], training := c.training.map (fun t => { t with inSlice := true }) }) }
  else .next s

/-- A retraining ends on a channel that serves again. -/
def State.endTraining (s : State) (chan : Nat) (f : DramChan → DramChan) : State :=
  ({ s with dram := s.dram.setChan chan (fun c => f { c with state := 0, training := none }) } : State).groupFree (chan / 4)

/-- Everything that a channel had queued or issued when it went DOWN completes as uncorrectable reads and dropped writes (R289). -/
def State.failQueued (s : State) (chan : Nat) : State :=
  let c := s.dram.chan chan
  let t : State := { s with dram := s.dram.setChan chan (fun x => { x with reads := [], issued := [], writes := [], pnrDue := [], repoison := [] }) }
  let u := (c.issued ++ c.reads).foldl (fun (v : State) r =>
    let w := v.ueRead (blockKey chan r.rank r.block) r.who
    { w with dram := w.dram.answer r.tag none }) t
  c.writes.foldl (fun (v : State) w => v.lostWrite (blockKey chan w.rank w.block)) u

/-- A channel is marked DOWN: what it had queued is lost, the rank with more allocated frames is retired onto the spare where it allows, and the
other is withdrawn (R289, R294). -/
def State.channelDown (s : State) (chan : Nat) : State :=
  let g := s.dram.group (chan / 4)
  let t := (({ s with dram := s.dram.setChan chan (fun c => { c with state := 3, training := none, due := false }) } : State).dramEvent 6).failQueued chan
  let live := [false, true].filter (fun r => !t.dram.isRetired chan r)
  if g.spareState ≠ 0 ∨ g.spareCh.toNat = chan % 4 then
    live.foldl (fun (u : State) r => u.withdrawRank chan r) (t.dramEvent 5)
  else
    let spared := decide ((t.framesOn chan false).length < (t.framesOn chan true).length)
    (live.filter (fun r => r != spared)).foldl (fun (u : State) r => u.withdrawRank chan r) (t.retireStart chan spared)

/-- The last slice of a retraining ends (R287, R289). -/
def State.verified (s : State) (chan : Nat) (t : Training) (passes : Bool) : State :=
  if passes then
    (s.endTraining chan (fun c => { c with trainCnt := satUp c.trainCnt, lastTrain := s.boot.timer, tempAtTrain := c.temp })).dramEvent 0
  else if !t.second then
    { s with dram := s.dram.setChan chan (fun c => { c with training := some { slices := 0, inSlice := false, second := true } }) }
  else
    let u := (s.dramEvent 1).dramEvent 2
    match s.dram.lower s.dram.speed with
    | some _ =>
      let d : Dram := { u.dram with fspOk := u.dram.fspOk &&& ~~~((1 : BitVec 3) <<< s.dram.speed.toNat) }
      (({ u with dram := d } : State).endTraining chan id).settlePoint
    | none => (u.channelDown chan).groupFree (chan / 4)

/-- A slice ends (R287). -/
def State.sliceEnd (s : State) (chan : Nat) (passes : Bool) : State :=
  match (s.dram.chan chan).training with
  | none => s
  | some t =>
    if !t.inSlice then s
    else
      let n := t.slices + 1
      let u : State := { s with dram := s.dram.setChan chan (fun c => { c with training := some { t with slices := n, inSlice := false } }) }
      (if n < trainSlices then u else u.verified chan t passes).settlePoint

def execRetrainSliceEnd (chan : Nat) (passes : Bool) (s : State) : Result :=
  if 32 ≤ chan then .fault .absentDram
  else if s.f2Runs then .next (s.dramDone (s.sliceEnd chan passes)) else .next s

/-- Whether the corrected errors of a rank, with the frames reported to DRAM service (R242, R434), have reached a threshold of R290. -/
def State.manyErrors (s : State) (chan : Nat) (rank : Bool) : Bool :=
  let c := s.dram.chan chan
  let mine := c.ceLog.filter (fun e => e.2.1 == b2n rank)
  let minute := (mine ++ c.reports.filter (fun e => e.2.1 == b2n rank)).filter (fun e => decide (s.boot.timer < e.1 + 60000000))
  let day := mine.filter (fun e => decide (s.boot.timer < e.1 + 86400000000))
  let rows := (day.map (fun e => blockBank e.2.1 e.2.2)).dedup
  decide (s.param 0x0209 0 ≤ ((minute.map (fun e => e.2.2)).dedup).length) ||
    rows.any (fun b => decide (s.param 0x020A 0 ≤ (rows.filter (fun x => x.1 == b.1)).length))

/-- Whether a rank must be retired (R290). -/
def State.mustRetire (s : State) (chan : Nat) (rank : Bool) : Bool :=
  s.manyErrors chan rank || (s.dram.chan chan).ueRanks.contains (b2n rank)

/-- Whether the errors point at a whole channel and have not yet led to a retraining: both ranks have reached a threshold by corrected errors alone
(R290; notes/assumptions/50.md). -/
def State.blamesChannel (s : State) (chan : Nat) : Bool :=
  s.manyErrors chan false && s.manyErrors chan true && (s.dram.chan chan).ueRanks.isEmpty && !(s.dram.chan chan).retrained &&
    (s.dram.chan chan).state != 3

/-- Sustained errors of a whole channel make it due for retraining first (R286, R290). -/
def State.retrainFirst (s : State) (chan : Nat) : State :=
  let c := s.dram.chan chan
  ({ s with dram := s.dram.setChan chan (fun x => { x with due := c.due || c.training.isNone, retrained := true }) } : State).trainNext (chan / 4)

/-- A retirement trigger, or a retirement that waits for its borrowed frames (R290, R291, R293). The spare rank itself is retired in no case; once it is
in use a trigger on it finds no further spare. -/
def State.retire (s : State) (chan : Nat) (rank : Bool) : State :=
  let g := s.dram.group (chan / 4)
  if g.spareState = 1 ∧ g.retired = some (chan % 4, rank) then s.retireStep (chan / 4)
  else if s.dram.isRetired chan rank ∨ (s.dram.isSpare chan rank ∧ g.spareState ≠ 3) ∨ !s.mustRetire chan rank then s
  else if s.blamesChannel chan then s.retrainFirst chan
  else if g.spareState = 0 then s.retireStart chan rank
  else s.spareExhausted chan rank

def execRankRetire (chan : Nat) (rank : Bool) (s : State) : Result :=
  if 32 ≤ chan then .fault .absentDram
  else if s.f2Runs then .next (s.dramRow (s.retire chan rank)) else .next s

/-- Copies one frame position of a rank to the spare: the array's bytes, the poison bits and the writes still queued for it; a block that cannot be
read, as those of `ue` now turn out, is written poisoned (R292). -/
def Dram.copyFrame (d : Dram) (src dst : Nat) (ue : List Nat) : Dram :=
  let lost := (d.chan (keyChan src)).state == 3
  let inside (x : Nat) : Bool := decide (src ≤ x) && decide (x < src + frameBlocks)
  let ws := (d.chan (keyChan src)).writes.filter (fun w => inside (blockKey (keyChan src) w.rank w.block))
  let e : Dram := { d with
    data := if lost then d.data else d.data.copy (src * 64) (dst * 64) (frameBlocks * 64),
    wild := Ranges.removeRun d.wild dst frameBlocks,
    bad := d.bad.filter (fun x => !(decide (dst ≤ x) && decide (x < dst + frameBlocks))),
    poison := d.poison.filter (fun x => !(decide (dst ≤ x) && decide (x < dst + frameBlocks))) ++
      (if lost then (List.range frameBlocks).map (· + dst)
       else (((d.poison ++ d.bad).filter inside).map (fun x => x - src) ++ ue).dedup.map (· + dst)) }
  if lost then e else ws.foldl (fun (x : Dram) w => x.store (blockKey (keyChan src) w.rank w.block - src + dst) w.data) e

/-- One frame of a migration has been copied (R291, R292). -/
def State.migrated (s : State) (g : Nat) (ue : List Nat) : State :=
  let x := s.dram.group g
  match x.retired with
  | none => s
  | some (ch, rk) =>
    let spc := g * 4 + x.spareCh.toNat
    let spr := b2n x.spareRank
    if x.spareState ≠ 2 ∨ (List.range 4).any (fun q => (s.dram.chan spc).quad spr q != .on) then s
    else
      let fr := x.migProgress.toNat
      let c := ue.foldl (fun (u : State) _ => u.countChanUe (g * 4 + ch)) s
      let d := c.dram.copyFrame (blockKey (g * 4 + ch) (b2n rk) (fr * frameBlocks)) (blockKey spc spr (fr * frameBlocks)) ue
      let t : State := { c with dram := d.setGroup g (fun y => { y with migProgress := BitVec.ofNat 10 (fr + 1) }) }
      if fr + 1 < 960 then t
      else
        let off (c : DramChan) : DramChan :=
          { c with quads := c.quads.zipIdx.map (fun p => if p.2 / 4 = b2n rk then .closing false else p.1),
                   retired0 := c.retired0 || !rk, retired1 := c.retired1 || rk }
        let u : State := { t with
          dram := (t.dram.setChan (g * 4 + ch) off).setGroup g (fun y => { y with spareState := 3 }),
          nv := { t.nv with sparedRanks := (g * 4 + ch, rk) :: t.nv.sparedRanks } }
        ((u.dramEvent 4).logPf (retireLog (g * 4 + ch) rk 1)).groupFree g

def execMigrationFrameCopied (group : Nat) (bad : List Nat) (s : State) : Result :=
  if 8 ≤ group then .fault .absentDram
  else if s.f2Runs then .next (s.dramRow (s.migrated group bad)) else .next s

/-- The tile starts a change of set point (R295). -/
def execSetPointChange (target : BitVec 2) (s : State) : Result :=
  if s.f2Runs ∧ target = s.wantedPoint then .next (s.dramRow s.settlePoint) else .next s

/-- A channel has switched; the next one begins (R295). -/
def State.switched (s : State) (chan : Nat) : State :=
  match s.dram.change with
  | none => s
  | some (target, c) =>
    if c ≠ chan then s
    else
      let d := s.dram.setChan c (fun x => { x with state := if x.state = 3 then 3 else if x.training.isSome then 1 else 0 })
      (({ s with dram := d.switchFrom target (c + 1) } : State).settlePoint).trainNext (c / 4)

def execChannelSwitchDone (chan : Nat) (s : State) : Result :=
  if 32 ≤ chan then .fault .absentDram
  else if s.f2Runs then .next (s.dramRow (s.switched chan)) else .next s

/-- Whether a quad holds a frame that is in use or that firmware keeps (R226, R297). -/
def State.quadUsed (s : State) (chan rank quad : Nat) : Bool :=
  s.tier.frames.any (fun p => s.dram.frameLoc p.1 == (chan, rank, (s.dram.frameLoc p.1).2.2) && (s.dram.frameLoc p.1).2.2 / 240 == quad) ||
    (s.dram.frameOf chan rank (quad * 240)).any s.firmwareFrame

/-- An unused quad is marked CLOSING (R297). -/
def execQuadPowerDown (chan rank quad : Nat) (s : State) : Result :=
  if 32 ≤ chan ∨ 2 ≤ rank ∨ 4 ≤ quad then .fault .absentDram
  else if s.f2Runs ∧ (s.dram.chan chan).quad rank quad = .on ∧ !s.quadUsed chan rank quad ∧
      !(s.dram.isSpare chan (rank == 1) ∧ (s.dram.group (chan / 4)).spareState ≠ 0 ∧ (s.dram.group (chan / 4)).spareState ≠ 3) then
    .next { s with dram := s.dram.setChan chan (fun c => c.setQuad rank quad (.closing false)) }
  else .next s

/-- The controller acknowledges a quad whose requests have drained (R297, R299). -/
def execQuadOffAck (chan rank quad : Nat) (s : State) : Result :=
  if 32 ≤ chan ∨ 2 ≤ rank ∨ 4 ≤ quad then .fault .absentDram
  else
    let c := s.dram.chan chan
    let mine (r b : Nat) : Bool := r == rank && blockQuad b == quad
    match c.quad rank quad with
    | .closing up =>
      if s.running ∧ !c.writes.any (fun w => mine w.rank w.block) ∧ !c.reads.any (fun r => mine r.rank r.block) then
        .next { s with dram := s.dram.setChan chan (fun x =>
          { (x.setQuad rank quad (if up then .rising else .off)) with
            openRows := x.openRows.filter (fun p => !(p.1 / 16 == rank && p.1 % 4 == quad)),
            pnrDue := x.pnrDue.filter (fun p => !(p.1 / 16 == rank && p.1 % 4 == quad)) }) }
      else .next s
    | _ => .next s

/-- Whether a quad must stay dark: a dark quad of a spare that is not in use, or a quad of a retired rank (R269, R297). -/
def Dram.dark (d : Dram) (chan rank quad : Nat) : Bool :=
  (if rank = 0 then (d.chan chan).retired0 else (d.chan chan).retired1) ||
    (d.isSpare chan (rank == 1) && decide (2 ≤ quad) && (d.group (chan / 4)).spareState.toNat < 2)

/-- F2 powers a quad up before it allocates one of its frames; an enable that a power-down holds up is queued (R299, R462). -/
def execQuadPowerUp (chan rank quad : Nat) (s : State) : Result :=
  if 32 ≤ chan ∨ 2 ≤ rank ∨ 4 ≤ quad then .fault .absentDram
  else if s.f2Runs ∧ !s.dram.dark chan rank quad then
    match (s.dram.chan chan).quad rank quad with
    | .off => .next { s with dram := s.dram.setChan chan (fun c => c.setQuad rank quad .rising) }
    | .closing false =>
      .next { (s.pwrEvent 4) with dram := s.dram.setChan chan (fun c => c.setQuad rank quad (.closing true)) }
    | _ => .next s
  else .next s

/-- A quad is up; what it holds is undefined, and segments that waited for a frame of it are placed (R294, R299). -/
def execQuadPowerUpDone (chan rank quad : Nat) (s : State) : Result :=
  if 32 ≤ chan ∨ 2 ≤ rank ∨ 4 ≤ quad then .fault .absentDram
  else if s.running ∧ (s.dram.chan chan).quad rank quad = .rising then
    let k := blockKey chan rank (quad * quadBlocks)
    let d := s.dram.setChan chan (fun c => c.setQuad rank quad .on)
    let t : State := { s with dram := { d with
      wild := Ranges.addRun d.wild k quadBlocks, wildGen := d.wildGen.set (k / quadBlocks) (d.wildGen.getD (k / quadBlocks) 0 + 1),
      poison := d.poison.filter (fun x => x < k || k + quadBlocks ≤ x), bad := d.bad.filter (fun x => x < k || k + quadBlocks ≤ x) } }
    .next (s.dramRow (t.tier.unplaced.foldl (fun (u : State) p => u.placeSeg p.1 p.2) t))
  else .next s

end Sys2Proof.Machine
end

