-- ==== Sys2Proof/Machine/FwCmds.lean ====
section
/-!
DEFINITION. Machine/FwCmds.lean: the firmware and configuration commands (R409, R411 to R415, R419, R422, R425).
-/
namespace Sys2Proof.Machine

/-- What the firmware commands may change beside the parts of a completion. -/
def State.fwCmd (s r : State) : State :=
  { s.cplOf r with nv := s.nv.slotsOf r.nv, link := r.link, pf := r.pf }

/-- What CFG_UPDATE may change beside the parts of a completion. -/
def State.cfgCmd (s r : State) : State := { s.cplOf r with params := r.params, cfgm := r.cfgm, dram := r.dram, link := r.link, pf := r.pf }

/-- What FW_SVN_COMMIT may change beside the parts of a completion. -/
def State.svnCmd (s r : State) : State := { s.cplOf r with nv := s.nv.burnedOf r.nv, pf := r.pf }

/-- The host bytes that an admin command reads while the link carries TLPs; an expired read completes it with ST_DMA_POISON (R358; notes/assumptions/22.md). -/
def State.onBytes (s : State) (c : Cmd) (r : HostRead) (k : Bytes → State) : State :=
  match s.onLink r with
  | .ok b => k (fixLen (c.fld 16 4) b)
  | .expired => (s.readFailed false).answer c stDmaPoison
  | .poisoned => (s.readFailed true).answer c stDmaPoison

/-- The slot on which no core runs (R412). -/
def State.idleSlot (s : State) : Nat := if s.fw.cores.any (fun c => c.slot == 0) then 1 else 0

/-- Ends a FW_UPDATE with its log entry (R412, R421). -/
def State.endUpdate (s : State) (c : Cmd) (status slot seq : Nat) (result : Bytes) : State :=
  (s.logPf (mkLog 0x0006 [(0, slot), (8, status), (64, seq)])).complete c.fid status result

/-- FW_UPDATE (R400, R401, R412). -/
def State.fwUpdate (s : State) (c : Cmd) (image : HostRead) : State :=
  let slot := s.idleSlot
  let refuse (t : State) (st : Nat) : State := t.endUpdate c st slot 0 []
  if s.flash.blocked || s.flash.paused then s
  else if 8388608 < c.fld 16 4 ∨ c.fld 16 4 % 64 ≠ 0 then refuse s stFwBadImage
  else s.onBytes c image (fun b =>
    if !fwImageOk b then refuse s stFwBadImage
    else if !s.nv.verifies b then refuse s stFwBadSignature
    else if leAt b 6 2 < s.nv.svn then refuse s stFwRollback
    else if s.fw.activate.isSome ∨ (s.fw.cores.any (fun x => x.slot == 0) ∧ s.fw.cores.any (fun x => x.slot == 1)) then refuse s stFwBusy
    else
      let seq := s.nv.topSeq + 1
      let r : Commit := { slot := slot, seq := seq, svn := leAt b 6 2, digest := Config.sha384 b, size := b.length }
      let t : State := { s with nv := { s.nv with
        slotA := if slot = 0 then b else s.nv.slotA, slotB := if slot = 0 then s.nv.slotB else b, commits := r :: s.nv.commits } }
      (t.fwEvent 4).endUpdate c stOk slot seq (resultAt [(8, toLe slot 1), (16, toLe seq 8)]))

/-- FW_ACTIVATE (R413): the first named core goes out of service; FW_CORE_RESTART brings each back, and FW_ACTIVATE_CONFIRM completes the
command. -/
def State.fwActivate (s : State) (c : Cmd) : State :=
  let cores := (List.range 4).filter (fun i => (c.fld 8 1).testBit i)
  if cores.isEmpty then s.answer c stBadField
  else if s.fw.activate.isSome then s.defer c.fid
  else match s.nv.newest.bind s.nv.committed with
    | none => s.answer c stFwIncompatible
    | some i =>
      let others := (s.fw.cores.zipIdx).filter (fun p => !cores.contains p.2)
      if s.fw.stateVer < i.stateMin ∨ i.stateMax < s.fw.stateVer ∨ others.any (fun p => p.1.ipc != i.ipc) then s.answer c stFwIncompatible
      else
        let t : State := { s with fw := { s.fw with activate := some { fid := c.fid, image := i, todo := cores, done := [] } } }
        (t.modCore (cores.headD 0) (fun x => { x with restarting := true })).modCmd c.fid (fun y => { y with stage := .running })

/-- FW_SVN_COMMIT (R327, R415, R483): a program pulse, which waits while none begins (R323). -/
def State.fwSvnCommit (s : State) (c : Cmd) : State :=
  match s.nv.newest.bind s.nv.committed with
  | none => s.answer c stFwBusy
  | some i =>
    if s.flash.blocked || s.flash.paused then s
    else if s.fw.activate.isSome ∨ !((s.fw.cores.zipIdx).all (fun p => p.1.runs p.2 i)) then s.answer c stFwBusy
    else if i.svn ≤ s.nv.svn then s.complete c.fid stOk (toLe s.nv.svn 2)
    else
      let t : State := { s with nv := { s.nv with otp := s.nv.otp.burn (BitVec.ofNat 256 (2 ^ i.svn - 1)) } }
      (t.fwEvent 6).complete c.fid stOk (toLe t.nv.svn 2)

/-- A refused update record or record set sets CFG_REFUSED and is logged (R421, R427). -/
def State.cfgRefuse (s : State) (c : Cmd) (status : Nat) : State := ((s.fwEvent 3).logPf (mkLog 0x0005 [(0, status)])).answer c status

/-- The entries of a well-formed update record (R409, check 1). -/
def State.updateRecord (s : State) (b : Bytes) : Option (Nat × List CfgEntry) :=
  if s.cfgm.k = 2 ^ 32 - 1 ∨ b.length < 64 + 24 + 208 ∨ leAt b 0 4 ≠ 0x50445543 ∨ leAt b 4 2 ≠ 1 ∨ leAt b 6 2 ≠ 0 ∨ leAt b 8 8 = 0 ∨
      leAt b 8 8 ≠ s.nv.serial then none
  else match readRecord (b.take (b.length - 208)) 64 with
    | some (sub, es, top) => if top = b.length - 208 then some (sub, es) else none
    | none => none

/-- CFG_UPDATE (R366, R409, R410, R482). Records of the host and firmware subsystems apply at once. -/
def State.cfgUpdate (s : State) (c : Cmd) (record : HostRead) : State :=
  s.onBytes c record (fun b =>
    match s.updateRecord b with
    | none => s.cfgRefuse c stCfgBadRecord
    | some (sub, es) =>
      if !s.nv.verifies b then s.cfgRefuse c stFwBadSignature
      else if (b.drop 16).take 48 ≠ fixLen 48 s.cfgm.digest then s.cfgRefuse c stCfgBaseMismatch
      else if es.any (fun e => (paramRow e.param).any (·.bootOnly)) then s.cfgRefuse c stCfgBootOnly
      else if !es.all CfgEntry.inRange then s.cfgRefuse c stCfgBadRecord
      else
        let p : CfgPending := { k := s.cfgm.k + 1, subsys := sub, fid := c.fid, entries := es }
        let m : CfgM := { s.cfgm with k := s.cfgm.k + 1, digest := Config.sha384 (fixLen 48 s.cfgm.digest ++ b), pending := s.cfgm.pending ++ [p] }
        let t := ({ s with cfgm := m } : State).modCmd c.fid (fun y => { y with stage := .running })
        if sub = 5 ∨ sub = 8 then t.applyRecord p else t)

/-- CFG_WRITE (R411). -/
def State.cfgWrite (s : State) (c : Cmd) (records : HostRead) : State :=
  if s.flash.blocked || s.flash.paused then s
  else s.onBytes c records (fun b =>
    let q0 := (s.nv.recordSet s.nv.cfg0).map (·.1)
    let q1 := (s.nv.recordSet s.nv.cfg1).map (·.1)
    match s.nv.recordSet b with
    | none => s.cfgRefuse c stCfgBadRecord
    | some (seq, _) =>
      if q0.any (fun q => decide (seq ≤ q)) ∨ q1.any (fun q => decide (seq ≤ q)) then s.cfgRefuse c stCfgBadRecord
      else
        let second := match q0, q1 with
          | some a, some d => decide (d < a)
          | some _, none => true
          | none, _ => false
        let t : State := { s with nv := if second then { s.nv with cfg1 := b } else { s.nv with cfg0 := b } }
        t.complete c.fid stOk (toLe (b2n second) 1))

/-- LOG_RING_SET (R419). -/
def State.logRingSet (s : State) (c : Cmd) : State :=
  let depth := c.fld 16 4
  let p := c.fld 20 3
  if depth ≠ 0 ∧ (c.fld 8 8 % 4096 ≠ 0 ∨ depth < 64 ∨ 65536 < depth ∨ 2 ^ depth.log2 ≠ depth) then s.answer c stBadField
  else
    let ring : Option LogRing :=
      if depth = 0 then none else some { base := c.fld 8 8, depth := depth, pasid := if bit? p 20 then some (p % 2 ^ 20) else none }
    let t := s.modFunc c.func (fun f => { f with ring := ring })
    t.complete c.fid stOk (toLe (s.func c.func).lsn.toNat 8)

/-- CAIRN_SET (R422). -/
def State.cairnSet (s : State) (c : Cmd) : State :=
  let n := c.fld 8 2
  let len := c.fld 24 4
  if s.param 0x0802 0 = 0 then s.answer c stNotPermitted
  else if len % 4096 ≠ 0 ∨ (len = 0 ∧ bit? (c.fld 12 1) 0) then s.answer c stBadField
  else match s.ctx n with
    | none => s.answer c stCtxInvalid
    | some x =>
      if (c.func ≠ 0 ∧ x.func ≠ c.func) ∨ x.confidential ∨ !x.windows.has (c.fld 10 2) then s.answer c stNotPermitted
      else
        let next : Option Cairn := if bit? (c.fld 12 1) 0 then some { win := c.fld 10 2, off := c.fld 16 8, len := len } else none
        (s.modCtx n (fun y => { y with cairnNext := next })).answer c stOk

def execFwUpdate (fid : Nat) (image : HostRead) (s : State) : Result :=
  .next (s.fwCmd (s.runRead fid 0x90 stBadField (fun t c => t.fwUpdate c image)))
def execFwActivate (fid : Nat) (s : State) : Result := .next (s.fwCmd (s.runOp fid 0x91 stBadField State.fwActivate))
def execFwSvnCommit (fid : Nat) (s : State) : Result := .next (s.svnCmd (s.runOp fid 0x92 stBadField State.fwSvnCommit))
def execCfgUpdate (fid : Nat) (record : HostRead) (s : State) : Result :=
  .next (s.cfgCmd (s.runRead fid 0x93 stBadField (fun t c => t.cfgUpdate c record)))
def execCfgWrite (fid : Nat) (records : HostRead) (s : State) : Result :=
  .next (s.fwCmd (s.runRead fid 0x94 stBadField (fun t c => t.cfgWrite c records)))
def execLogRingSet (fid : Nat) (s : State) : Result := .next (s.cplOf (s.runOp fid 0x95 stBadField State.logRingSet))
def execCairnSet (fid : Nat) (s : State) : Result := .next (s.cplOf (s.runOp fid 0x96 stBadField State.cairnSet))

end Sys2Proof.Machine
end

