-- ==== Sys2Proof/Machine/SegCmds.lean ====
section
/-!
DEFINITION. Machine/SegCmds.lean: the segment, model and window commands (R238 to R241, R354, R370 to R375).
-/
namespace Sys2Proof.Machine

/-- What the segment and model commands may change beside the parts of a completion. -/
def State.tierCmd (s r : State) : State :=
  { s.cplOf r with nv := s.nv.modelsOf r.nv, tier := r.tier, cmp := r.cmp, dram := r.dram, flash := r.flash, link := r.link, pf := r.pf, draws := r.draws }

/-- Tiles charged for the tier tables of a context (R223, R259), and for its MAC stores (R384). -/
def Ctx.tableTiles (c : Ctx) : Nat := cdiv c.segs.length 124 + cdiv (c.segs.filter (fun p => p.2.kind == .tiered)).length 16
def Ctx.macTiles (c : Ctx) : Nat := cdiv (c.segs.filter (fun p => p.2.prot)).length 2

/-- Maps segments and charges their tables and MAC stores; `whole` counts the 2 MiB frames they will take beside. -/
def State.mapSegs (s : State) (ctx whole : Nat) (new : List (Nat × Seg)) : ClaimRes :=
  let t := s.modCtx ctx (fun c => { c with segs := new.foldl (fun (l : AList Seg) (p : Nat × Seg) => l.set p.1 p.2) c.segs })
  match s.ctx ctx, t.ctx ctx with
  | some a, some b =>
    if !s.fits ctx (32 * whole + (b.tableTiles - a.tableTiles) + (b.macTiles - a.macTiles)) then .refused
    else match t.claimTiles ctx chargeTables b.tableTiles with
      | .ok u => u.claimTiles ctx chargeMac b.macTiles
      | r => r
  | _, _ => .refused

/-- Charges the tables and MAC stores of the segments that are left after an unmap. -/
def State.unmapSegs (s : State) (ctx : Nat) (gone : List Nat) : State :=
  let t := s.modCtx ctx (fun c => { c with segs := c.segs.filter (fun p => !gone.contains p.1) })
  match t.ctx ctx with
  | none => t
  | some b => (t.lowerCharge ctx chargeTables b.tableTiles).lowerCharge ctx chargeMac b.macTiles

/-- The lowest n spill extents that no context holds (R236). -/
def State.freeExtents (s : State) (n : Nat) : List Nat :=
  let used := (s.tier.extents.map (·.2)).flatten
  ((List.range (used.length + n)).filter (fun i => !used.contains i)).take n

/-- Frames for n DRAM segments: the state with the frames being zeroed for them, or none when one is lacking. -/
def State.takeFrames (s : State) (ctx : Nat) : List Nat → Option (State × List (Nat × Nat))
  | [] => some (s, [])
  | sg :: rest =>
    match s.findFrame ctx false with
    | .ok f =>
      let t : State := { s.setFrame f (.zeroing (some (ctx, sg))) with dram := s.dram.zeroFrame f 0 frameBytes }
      (State.takeFrames t ctx rest).map (fun r => (r.1, (sg, f) :: r.2))
    | _ => none

/-- The segment that SEG_MAP makes of the n-th segment of its range (R222, R223, R375). -/
def Cmd.newSeg (c : Cmd) (conf : Bool) (n handle serial : Nat) : Seg :=
  let kind := match c.fld 16 1 % 8 with | 1 => SegKind.dram | 2 => .tiered | _ => .host
  { kind := kind, stream := false, prot := kind != .host && (conf || bit? (c.fld 16 1) 3), handle := handle, serial := serial,
    lower := if kind = .host then c.fld 24 8 + n * 2097152 else 0,
    tiles := if kind = .tiered then List.replicate 32 (Tile.fresh .zero 0 0) else [], poison := [], noFrame := false }

/-- SEG_MAP (R241). Segments of kind DRAM complete when their frames are zero (FRAME_ZEROED). -/
def State.segMap (s : State) (c : Cmd) : State :=
  let first := c.fld 8 4
  let count := c.fld 12 4
  let kind := c.fld 16 1 % 8
  let range := (List.range count).map (· + first)
  if count = 0 ∨ !([1, 2, 4].contains kind) ∨ 2 ^ 27 < first + count then s.answer c stSegBadArgs
  else match s.ctx c.ctxNo with
    | none => s
    | some x =>
      let held := ((s.tier.extents.get? c.ctxNo).getD []).length
      if x.segs.any (fun p => decide (first ≤ p.1) && decide (p.1 < first + count)) then s.answer c stSegBusy
      else if 2 ^ 20 < x.segs.length + count ∨ (kind = 2 ∧ (x.spill < held + count ∨ 1 ≤ s.flash.state)) then s.answer c stSegNoQuota
      else if kind = 1 then
        match s.mapSegs c.ctxNo count (range.map (fun i => (i, c.newSeg x.confidential (i - first) 0 0))) with
        | .refused => s.answer c stSegNoQuota
        | .wait k => (s.reclaimFor c.ctxNo (k + count)).defer c.fid
        | .ok t =>
          match t.takeFrames c.ctxNo range with
          | some (u, fs) =>
            (fs.foldl (fun (v : State) (p : Nat × Nat) => v.modSeg c.ctxNo p.1 (fun g => { g with handle := p.2 })) u).modCmd c.fid
              (fun y => { y with stage := .running })
          | none => (t.lacks c.ctxNo count).elim (s.answer c stSegNoQuota) (fun k => (s.reclaimFor c.ctxNo k).defer c.fid)
      else
        let ext := if kind = 2 then s.freeExtents count else []
        match s.mapSegs c.ctxNo 0 (range.map (fun i =>
            (i, c.newSeg x.confidential (i - first) (if kind = 4 then c.fld 18 2 else 0) (ext.getD (i - first) 0)))) with
        | .refused => s.answer c stSegNoQuota
        | .wait k => (s.reclaimFor c.ctxNo k).defer c.fid
        | .ok t =>
          let u : State := if ext.isEmpty then t
            else { t with tier := { t.tier with extents := t.tier.extents.set c.ctxNo (((t.tier.extents.get? c.ctxNo).getD []) ++ ext) } }
          u.answer c stOk

/-- Whether a tile of a segment still has a pin or a transfer that keeps it (R232, R240). -/
def Tile.kept (t : Tile) : Bool := t.pins != 0 || t.st == .promoting || t.st == .evictPending || t.st == .demoting

/-- Evicts the kept tiles of a segment (R230). -/
def State.evictSeg (s : State) (ctx sg : Nat) : State :=
  match s.seg ctx sg with
  | none => s
  | some g => (g.tiles.zipIdx).foldl (fun (t : State) (p : Tile × Nat) =>
      if p.1.kept then t.evict ctx sg p.2 else t) s

/-- Frees what a segment holds: its frame, its slots, its spill extent and pages (R241, R386). -/
def State.freeSeg (s : State) (ctx sg : Nat) : State :=
  match s.seg ctx sg with
  | none => s
  | some g =>
    match g.kind with
    | .dram => if g.noFrame then s else s.releaseFrame g.handle
    | .host => s
    | .model => ((g.tiles.filter (fun t => t.st.present)).foldl (fun (t : State) x => t.freeSlot x.slot) s)
    | .tiered =>
      let t := (g.tiles.filter (fun x => x.st.present)).foldl (fun (t : State) x => t.freeSlot x.slot) s
      let pages := (List.range 128).map (· + (spillUnit + g.serial) * 128)
      let ext := ((t.tier.extents.get? ctx).getD []).filter (· != g.serial)
      { t with flash := t.flash.unmap pages,
               tier := { t.tier with extents := if ext.isEmpty then t.tier.extents.erase ctx else t.tier.extents.set ctx ext } }

/-- Unmaps segments: tiles that are still kept are evicted first and the command waits (R232, R240, R241). -/
def State.dropSegs (s : State) (c : Cmd) (sgs : List Nat) (done : State → State) : State :=
  let busy := sgs.any (fun i => (s.seg c.ctxNo i).any (fun (g : Seg) => g.tiles.any Tile.kept))
  if busy then (sgs.foldl (fun (t : State) i => t.evictSeg c.ctxNo i) s).defer c.fid
  else done (((sgs.foldl (fun (t : State) i => t.freeSeg c.ctxNo i) s).unmapSegs c.ctxNo sgs).settleGens)

/-- Mapped segments of a range. -/
def Ctx.segsIn (x : Ctx) (first count : Nat) : List (Nat × Seg) :=
  x.segs.filter (fun p => decide (first ≤ p.1) && decide (p.1 < first + count))

/-- SEG_UNMAP (R241): its one refusal is ST_SEG_BUSY; a range that maps nothing is unmapped already (notes/assumptions/22.md). -/
def State.segUnmap (s : State) (c : Cmd) : State :=
  match s.ctx c.ctxNo with
  | none => s
  | some x =>
    let sel := x.segsIn (c.fld 8 4) (c.fld 12 4)
    if sel.any (fun p => p.2.kind == .model) then s.answer c stSegBusy
    else s.dropSegs c (sel.map (·.1)) (fun t => t.answer c stOk)

/-- SEG_ATTR (R238, R241). -/
def State.segAttr (s : State) (c : Cmd) : State :=
  let first := c.fld 8 4
  let count := c.fld 12 4
  if count = 0 ∨ 2 ^ 27 < first + count then s.answer c stSegBadArgs
  else match s.ctx c.ctxNo with
    | none => s
    | some x =>
      let sel := x.segsIn first count
      if sel.length ≠ count ∨ !(sel.all (fun p => p.2.kind == .model)) then s.answer c stSegBadArgs
      else (sel.foldl (fun (t : State) (p : Nat × Seg) =>
        t.modSeg c.ctxNo p.1 (fun g => { g with stream := bit? (c.fld 16 1) 0 })) s).answer c stOk

/-- The 16 bytes of a segment entry as a function sees them (R223, R241, R389). -/
def Seg.bytes (g : Seg) (func : Nat) : Bytes :=
  toLe (g.kind.code + 8 * b2n g.stream + 16 * b2n g.prot) 2 ++ toLe (if g.kind = .dram ∧ func ≠ 0 then 0 else g.handle) 2 ++ toLe g.serial 4 ++
    toLe g.lower 6 ++ [0#8, 0#8]

/-- SEG_QUERY: an unmapped segment reads as an entry of zeros (R223, R241). -/
def State.segQuery (s : State) (c : Cmd) : State :=
  let e := ((s.seg c.ctxNo (c.fld 8 4)).map (fun (g : Seg) => g.bytes c.func)).getD (List.replicate 16 0#8)
  s.complete c.fid stOk (resultAt [(16, e)])

def execSegMap (fid : Nat) (s : State) : Result := .next (s.tierCmd (s.runOp fid 0x18 stBadField State.segMap))
def execSegUnmap (fid : Nat) (s : State) : Result := .next (s.tierCmd (s.runOp fid 0x19 stBadField State.segUnmap))
def execSegAttr (fid : Nat) (s : State) : Result := .next (s.tierCmd (s.runOp fid 0x1A stBadField State.segAttr))
def execSegQuery (fid : Nat) (s : State) : Result := .next (s.tierCmd (s.runOp fid 0x1B stBadField State.segQuery))

/- Models. -/

/-- The object a command names, when it belongs to the submitting function (R240, R241). -/
def State.ownModel (s : State) (c : Cmd) : Option Model := (s.nv.models.get? (c.fld 8 2)).filter (fun m => m.func == c.func)

/-- The MODEL segments that an attach maps (R223, R240). -/
def Model.segsAt (m : Model) (id first : Nat) : List (Nat × Seg) :=
  (List.range m.segs).map (fun i =>
    (first + i, { kind := .model, stream := false, prot := m.prot, handle := id, serial := m.serial, lower := i,
                  tiles := ((m.tiles.drop (32 * i)).take 32).map (fun t => Tile.fresh .lower t.fmt t.digest), poison := [], noFrame := false }))

/-- The MODEL record of a replay capture (R445): the object's 16 decode-table entries are those it holds, by table index. -/
def State.replayModel (s : State) (ctx id : Nat) (m : Model) : State :=
  let hashes := (m.tiles.map (fun (t : ModelTile) => toLe t.digest 8)).flatten
  let tabs := ((List.range 16).map (fun i => match m.tables.get? i with
    | some g => fixLen 16 (s.cmp.gen (g.1 * 4 + g.2)).table
    | none => List.replicate 16 0#8)).flatten
  s.replayRec ctx 0x04 0 (2 ^ 64 - 1) (toLe id 2) (fixLen 48 m.digest ++ fixLen 48 (Config.sha384 hashes) ++ List.replicate 32 0#8 ++ tabs)

/-- MODEL_ATTACH (R240, R241, R374). -/
def State.modelAttach (s : State) (c : Cmd) : State :=
  let first := c.fld 24 4
  match (s.ownModel c).filter (fun m => m.tag == c.fld 16 8), s.ctx c.ctxNo with
  | none, _ => s.answer c stModelInvalid
  | _, none => s
  | some m, some x =>
    if m.damaged then s.answer c stModelDamaged
    else if m.attached.isSome then s.answer c stModelBusy
    else if m.prot != x.confidential then s.answer c stSecNotProtected
    else if 2 ^ 27 < first + m.segs then s.answer c stSegBadArgs
    else if !(x.segsIn first m.segs).isEmpty then s.answer c stSegBusy
    else if 2 ^ 20 < x.segs.length + m.segs then s.answer c stSegNoQuota
    else match s.mapSegs c.ctxNo 0 (m.segsAt (c.fld 8 2) first) with
      | .refused => s.answer c stSegNoQuota
      | .wait k => (s.reclaimFor c.ctxNo k).defer c.fid
      | .ok t =>
        let u : State := { t with nv := { t.nv with models := t.nv.models.upd (c.fld 8 2) (fun (y : Model) =>
          { y with attached := some c.ctxNo }) } }
        (u.replayModel c.ctxNo (c.fld 8 2) m).answer c stOk

/-- Marks an object as attached to no context. -/
def State.detached (s : State) (id : Nat) : State :=
  { s with nv := { s.nv with models := s.nv.models.upd id (fun (y : Model) => { y with attached := none }) } }

/-- The promotions of a segment that are under way go on without it (R254). -/
def State.orphanSeg (s : State) (ctx sg : Nat) : State :=
  (s.tier.promos.filter (fun p => p.1 == ctx && p.2.1 == sg)).foldl (fun (t : State) p => t.orphan p.1 p.2.1 p.2.2) s

/-- MODEL_DETACH: every present tile is evicted and the segments are unmapped; a promotion under way keeps its generation in RETIRING until it ends
(R240, R254). It waits only for tiles that something still reads (R232). -/
def State.modelDetach (s : State) (c : Cmd) : State :=
  match (s.ownModel c).filter (fun m => m.attached == c.ctx), s.ctx c.ctxNo with
  | none, _ => s.answer c stModelInvalid
  | _, none => s
  | some _, some x =>
    let sgs := (x.segs.filter (fun p => p.2.kind == .model && p.2.handle == c.fld 8 2)).map (·.1)
    let t := sgs.foldl (fun (t : State) i => t.evictSeg c.ctxNo i) s
    if sgs.any (fun i => (t.seg c.ctxNo i).any (fun (g : Seg) => g.tiles.any (fun y => y.pins != 0))) then t.defer c.fid
    else (sgs.foldl (fun (t : State) i => t.orphanSeg c.ctxNo i) t).dropSegs c sgs (fun t => (t.detached (c.fld 8 2)).answer c stOk)

/-- MODEL_REMOVE: the object's pages are unmapped and its blocks queued for erase, and its holds are released (R240, R254). -/
def State.modelRemove (s : State) (c : Cmd) : State :=
  match (s.ownModel c).filter (fun m => m.tag == c.fld 16 8) with
  | none => s.answer c stModelInvalid
  | some m =>
    if m.attached.isSome then s.answer c stModelBusy
    else
      let pages := (s.flash.map.filter (fun p => m.units.contains (p.1 / 128))).map (·.1)
      let t : State := { s with nv := { s.nv with models := s.nv.models.erase (c.fld 8 2) }, flash := s.flash.unmap pages }
      let u := t.releaseGens (m.tables.map (fun p => p.2.1 * 4 + p.2.2))
      let v : State := { u with nv := { u.nv with gens := u.cmp.gens } }
      v.answer c stOk

/-- MODEL_QUERY (R241, R350). -/
def State.modelQuery (s : State) (c : Cmd) : State :=
  match s.ownModel c with
  | none => s.answer c stModelInvalid
  | some m => s.complete c.fid stOk (resultAt [(16, toLe m.segs 4 ++ toLe m.serial 4 ++ toLe (b2n m.damaged + 2 * b2n m.attached.isSome) 1)])

def execModelAttach (fid : Nat) (s : State) : Result := .next (s.tierCmd (s.runOp fid 0x21 stBadField State.modelAttach))
def execModelDetach (fid : Nat) (s : State) : Result := .next (s.tierCmd (s.runOp fid 0x22 stBadField State.modelDetach))
def execModelRemove (fid : Nat) (s : State) : Result := .next (s.tierCmd (s.runOp fid 0x23 stBadField State.modelRemove))
def execModelQuery (fid : Nat) (s : State) : Result := .next (s.tierCmd (s.runOp fid 0x24 stBadField State.modelQuery))

/- Host windows. -/

/-- WINDOW_OPEN (R354). -/
def State.windowOpen (s : State) (c : Cmd) : State :=
  let addr := c.fld 8 8
  let len := c.fld 16 8
  let p := c.fld 24 3
  let all := (s.ctxs.map (fun x => x.2.windows.length)).sum
  if addr % 64 ≠ 0 ∨ len % 64 ≠ 0 ∨ len < 64 ∨ 2 ^ 64 < addr + len then s.answer c stWindowBadArgs
  else match (s.ctx c.ctxNo).bind (fun (x : Ctx) => x.windows.firstFree 0 1024) with
    | none => s.answer c stWindowLimit
    | some w =>
      if 16384 ≤ all then s.answer c stWindowLimit
      else
        let win : Window := { addr := addr, len := len, pasid := if bit? p 20 then some (p % 2 ^ 20) else none }
        (s.modCtx c.ctxNo (fun x => { x with windows := x.windows.set w win })).complete c.fid stOk (toLe w 2)

/-- WINDOW_CLOSE (R354); a replay capture that writes into the window ends (R443). -/
def State.windowClose (s : State) (c : Cmd) : State :=
  let w := c.fld 8 2
  match s.ctx c.ctxNo with
  | none => s
  | some x =>
    if !x.windows.has w then s.answer c stWindowInvalid
    else
      let t := if x.replay.active && x.replay.win == w then s.replayEnd c.ctxNo 3 else s
      (t.modCtx c.ctxNo (fun y => { y with windows := y.windows.erase w })).answer c stOk

def execWindowOpen (fid : Nat) (s : State) : Result := .next (s.cplOf (s.runOp fid 0x28 stBadField State.windowOpen))
def execWindowClose (fid : Nat) (s : State) : Result := .next (s.cplOf (s.runOp fid 0x29 stBadField State.windowClose))

end Sys2Proof.Machine
end

