-- ==== Sys2Proof/Machine/Install.lean ====
section
/-!
DEFINITION. Machine/Install.lean: MODEL_INSTALL: the Onalyn container (R370, R371), key release (R372, R373), Ridge-16 encoding (R250 to
R252), decode tables (R255) and the object written to flash (R239, R305, R311).
-/
namespace Sys2Proof.Machine

/-- A tensor record of a container: format, Ridge mark, table index, object offset, and its plaintext. -/
structure Tensor where
  fmt : Nat
  ridge : Bool
  table : Nat
  off : Nat
  data : Bytes

/-- The tensor record at an offset of a container, with the bytes of its payload as they stand; none when the record breaks R371. -/
def readTensor (b : Bytes) (enc : Bool) (off : Nat) : Option (Tensor × Bytes × Nat) :=
  let len := leAt b off 4
  let plain := leAt b (off + 16) 8
  let f := leAt b (off + 4) 1
  let t := leAt b (off + 5) 1
  if b.length < off + len ∨ len ≠ 48 + plain + (if enc then 16 else 0) ∨ 32 ≤ f ∨ 16 ≤ t ∨ leAt b (off + 6) 2 ≠ 0 ∨
      leAt b (off + 36) 12 ≠ 0 ∨ (bit? f 4 ∧ f % 16 ≠ 2) ∨ (bit? f 4 ∧ leAt b (off + 8) 8 % tileBytes ≠ 0) then none
  else some ({ fmt := f % 16, ridge := bit? f 4, table := t, off := leAt b (off + 8) 8, data := (b.drop (off + 48)).take plain },
    (b.drop (off + 48 + plain)).take 16, len)

/-- Reads and opens the tensor records: the model key is given for an ENCRYPTED container (R370 to R372). -/
def readTensors (b : Bytes) (key : Option Bytes) : Nat → Nat → Option (List Tensor)
  | 0, _ => some []
  | n + 1, off =>
    match readTensor b key.isSome off with
    | none => none
    | some (t, tag, len) =>
      let plain := match key with
        | none => some t.data
        | some k => Config.gcmOpen k ((b.drop (off + 24)).take 12) ((b.drop off).take 48) t.data tag
      match plain with
      | none => none
      | some d => (readTensors b key n (cdiv (off + len) 16 * 16)).map (fun ts => { t with data := fixLen t.data.length d } :: ts)

/-- The 16-bit values of a payload, padded with zeros to whole blocks of 128 (notes/assumptions/20.md). -/
def bf16Values (b : Bytes) : List Nat := (List.range (cdiv b.length 256 * 128)).map (fun i => leAt b (2 * i) 2)

/-- Whether a BF16 value is a NaN or an infinity (R250). -/
def bf16Special (v : Nat) : Bool := v / 128 % 256 == 255

/-- The bytes that a tensor takes in the object, as (offset, bytes) pieces (R251, R252). -/
def Tensor.pieces (t : Tensor) (slot gen : Nat) (tbl : Bytes) : List (Nat × Bytes) :=
  if !t.ridge then [(t.off, t.data)]
  else
    let vs := bf16Values t.data
    (List.range (vs.length / 128)).map (fun i =>
      (t.off + i / 364 * tileBytes + i % 364 * 180, ridgeEncode slot gen tbl ((vs.drop (128 * i)).take 128)))

/-- First byte after the last one that a tensor takes in the object. -/
def Tensor.top (t : Tensor) : Nat :=
  if t.ridge then
    let n := cdiv t.data.length 256
    if n = 0 then t.off else t.off + (n - 1) / 364 * tileBytes + (n - 1) % 364 * 180 + 180
  else t.off + t.data.length

/-- Tiles from which a tensor takes bytes. -/
def Tensor.covers (t : Tensor) (tile : Nat) : Bool := decide (t.off < (tile + 1) * tileBytes) && decide (tile * tileBytes < t.top)

/-- Header checks of a container (R370, R265): every reserved field zero, every decode table valid (R248). -/
def containerOk (b : Bytes) : Bool :=
  let flags := leAt b 6 2
  let tables := leAt b 12 1
  decide (640 ≤ b.length) && leAt b 0 4 == 0x4E4C4E4F && leAt b 4 2 == 1 && decide (flags < 4) && decide (tables ≤ 16) && leAt b 13 3 == 0 &&
    leAt b 16 8 % 2097152 == 0 && leAt b 16 8 != 0 && leAt b 24 8 == 0 && leAt b 225 7 == 0 && leAt b 280 104 == 0 &&
    (flags % 2 == 1 || allZero ((b.drop 80).take 200)) &&
    (List.range tables).all (fun i => tableValid ((b.drop (384 + 16 * i)).take 8) && allZero ((b.drop (392 + 16 * i)).take 8))

/-- The status that key release refuses with, or the model key (R372); an unencrypted container needs none. -/
def State.modelKey (s : State) (ctx : Nat) (b : Bytes) : Except Nat (Option Bytes) :=
  if leAt b 6 1 % 2 = 0 then .ok none
  else match (s.ctx ctx).bind (fun (c : Ctx) => c.sec.ephPriv.map (fun k => (k, c.sec.report))) with
    | none => .error stSecNoKey
    | some (k, rep) =>
      let pub := (b.drop 128).take 97
      if (b.drop 80).take 48 ≠ fixLen 48 (Config.sha384 rep) then .error stSecNoKey
      else if !Config.ecValid pub then .error stSecBadPoint
      else
        let kek := Config.hkdf (Config.ecdh k pub) (Config.sha384 rep) (asciiBytes "IVN onalyn kek") 32
        match Config.gcmOpen kek (List.replicate 12 0#8) [] ((b.drop 232).take 32) ((b.drop 264).take 16) with
        | some key => .ok (some key)
        | none => .error stModelBadPackage

/-- Claims the decode tables that Ridge-16 tensors name, by table index (R255): the state and the generation of each index, a wait, or a
refusal. -/
def State.claimTables (s : State) (b : Bytes) : List Nat → Option (State × AList (Nat × Nat)) × Bool
  | [] => (some (s, []), false)
  | i :: rest =>
    match s.claimTable ((b.drop (384 + 16 * i)).take 8) (some i) with
    | (none, w) => (none, w)
    | (some (t, g), _) =>
      match State.claimTables t b rest with
      | (some (u, l), w) => (some (u, l.set i (g / 4, g % 4)), w)
      | r => r

/-- The lowest n units of the model partition that no object holds (R321). -/
def State.freeUnits (s : State) (n : Nat) : List Nat :=
  let used := (s.nv.models.map (fun p => p.2.units)).flatten
  ((List.range (used.length + n)).filter (fun i => !used.contains i)).take n

/-- Free 2 MiB units of the model partition (R245, R321). -/
def State.freeModelUnits (s : State) : Nat := s.param 0x0401 0 - (s.nv.models.map (fun p => p.2.segs)).sum

/-- INSTALL_BUSY: an installation that has begun waits for a decode table (R245, R255). -/
def State.installBusy (s : State) : Bool := (s.tier.installing.bind s.cmds.find).isSome

/-- Programs the tiles of an object and builds its tile list (R239, R305); none when no block is free. -/
def State.programObject (s : State) (units : List Nat) (tileOf : Nat → Bytes) (tiles : Nat) : Option Flash :=
  (List.range tiles).foldl (fun (acc : Option Flash) k =>
    acc.bind (fun f => f.writeTile .install (units.getD (k / 32) 0 * 128 + 4 * (k % 32)) (tileOf k))) (some s.flash)

/-- The object that a checked container becomes (R239, R251, R255). -/
def State.installObject (s : State) (c : Cmd) (b : Bytes) (ts : List Tensor) : State :=
  let segs := leAt b 16 8 / 2097152
  let prot := bit? (leAt b 6 1) 1
  if s.nv.nextSerial = 2 ^ 32 - 1 ∨ 1 ≤ s.flash.state ∨ s.freeModelUnits < segs then s.answer c stModelNoSpace
  else match s.nv.models.firstFree 0 1024 with
    | none => s.answer c stModelNoSpace
    | some id =>
      match s.claimTables b (((ts.filter (·.ridge)).map (·.table)).dedup) with
      | (none, true) => ({ s with tier := { s.tier with installing := some c.fid } } : State).cmpEvent 0
      | (none, false) => (s.cmpEvent 1).answer c stCmpNoTable
      | (some (t, tabs), _) =>
        let gen (x : Tensor) : Nat × Nat := AList.getD tabs x.table (0, 0)
        let mem := ((ts.map (fun x => x.pieces (gen x).1 (gen x).2 ((b.drop (384 + 16 * x.table)).take 8))).flatten).foldl
          (fun (m : Mem) (p : Nat × Bytes) => m.write p.1 p.2) []
        let units := t.freeUnits segs
        let d := t.draw
        let serial := t.nv.nextSerial
        let stored (k : Nat) : Bytes :=
          closeWith (if prot then some (t.nv.objKeys d.1 serial k) else none) (mem.readN (k * tileBytes) tileBytes)
        match t.programObject units stored (32 * segs) with
        | none => s.answer c stModelNoSpace
        | some f =>
          let tileAt (k : Nat) : ModelTile :=
            let r := ts.find? (fun x => x.ridge && x.covers k)
            let q := ts.reverse.find? (fun x => x.covers k)
            { fmt := if r.isSome then 0xD else (q.map (·.fmt)).getD 0,
              digest := crc64 (stored k),
              gen := r.map (fun x => (gen x).1 * 4 + (gen x).2) }
          let m : Model :=
            { func := c.func, tag := c.fld 32 8, serial := serial, segs := segs, units := units, damaged := false, attached := none,
              prot := prot, nonce := d.1, digest := (b.drop 32).take 48, tables := tabs,
              tiles := (List.range (32 * segs)).map tileAt }
          let u : State := { d.2 with
            flash := f.padClose .install,
            nv := { d.2.nv with models := d.2.nv.models.set id m, nextSerial := serial + 1, gens := d.2.cmp.gens } }
          u.complete c.fid stOk (toLe id 2)

/-- MODEL_INSTALL (R239, R250, R265, R358, R370 to R373). Programs wait while flash is paused or blocked (R323, R464). -/
def State.modelInstall (s : State) (c : Cmd) (r : HostRead) : State :=
  if s.flash.blocked || s.flash.paused then s
  else
    let w := s.winRead c.ctxNo (c.fld 8 2) (c.fld 16 8) (c.fld 24 8) none r
    match w.data with
    | none => (w.s.faultCtx c.ctxNo 4 stDmaPoison).answer c stDmaPoison
    | some b =>
      let t := w.s.countViol c.ctxNo w.viol
      if !containerOk b then t.answer c stModelBadPackage
      else if t.isConf c.ctxNo && !bit? (leAt b 6 1) 1 then t.answer c stSecNotProtected
      else match t.modelKey c.ctxNo b with
        | .error st => t.answer c st
        | .ok key =>
          match readTensors b key (leAt b 8 4) 640 with
          | none => t.answer c stModelBadPackage
          | some ts =>
            if fixLen 48 (Config.sha384 (ts.map (·.data)).flatten) ≠ (b.drop 32).take 48 ∨
                ts.any (fun x => decide (leAt b 16 8 < x.top) || (x.ridge && (bit? (leAt b 6 1) 1 || decide (leAt b 12 1 ≤ x.table) ||
                  (bf16Values x.data).any bf16Special))) then t.answer c stModelBadPackage
            else t.installObject c b ts

def execModelInstall (fid : Nat) (container : HostRead) (s : State) : Result :=
  .next (s.tierCmd (s.runRead fid 0x20 stBadField (fun t c => t.modelInstall c container)))

end Sys2Proof.Machine
end

