-- ==== Sys2Proof/Machine/SecCmds.lean ====
section
/-!
DEFINITION. Machine/SecCmds.lean: attestation (R366 to R369), the session of a confidential context (R376), the identity command (R391) and
the SPDM and IDE_KM messages of the DOE mailbox (R365).
-/
namespace Sys2Proof.Machine

/-- What the security commands may change beside the parts of a completion. -/
def State.secCmd (s r : State) : State := { s.cplOf r with link := r.link, pf := r.pf, draws := r.draws }

/-- A measurement entry (R369). -/
def measureEntry (kind index serial : Nat) (digest : Bytes) : Bytes :=
  toLe kind 1 ++ [0#8] ++ toLe index 2 ++ toLe serial 4 ++ List.replicate 8 0#8 ++ fixLen 48 digest

/-- The measurements of the tile that belong to no context: the ROM, the firmware cores and the configuration (R366). -/
def State.tileMeasures (s : State) : List Bytes :=
  [measureEntry 0x01 0 0 Config.romDigest] ++ (s.fw.cores.zipIdx).map (fun p => measureEntry 0x02 p.2 p.1.svn.toNat p.1.digest) ++
    [measureEntry 0x03 0 s.cfgm.k s.cfgm.digest]

/-- All measurement entries of a context's report, by KIND and INDEX (R366 to R368). -/
def State.measures (s : State) (ctx : Nat) : List Bytes :=
  s.tileMeasures ++ (s.images.imgs.filter (fun p => p.2.ctx == ctx)).map (fun p => measureEntry 0x04 p.1 p.2.gen p.2.digest) ++
    (s.nv.models.filter (fun p => p.2.attached == some ctx)).map (fun p => measureEntry 0x05 p.1 p.2.serial p.2.digest)

/-- The bytes of a report before its signature (R368). -/
def State.reportBody (s : State) (ctx : Nat) (x : Ctx) (nonce pub : Bytes) : Bytes :=
  let es := s.measures ctx
  let flags := b2n x.confidential + 2 * b2n x.isolated + 4 * b2n (s.link.ideEnabled && s.link.ideSecure) + 8 * b2n (s.param 0x0101 0 == 1)
  toLe 0x54415649 4 ++ toLe 1 2 ++ toLe es.length 2 ++ toLe s.nv.serial 8 ++ toLe ctx 2 ++ toLe flags 2 ++ toLe s.nv.svn 2 ++ [0#8, 0#8] ++
    fixLen 32 nonce ++ fixLen 97 pub ++ List.replicate 7 0#8 ++ es.flatten

/-- ATTEST (R367, R368, R380): it waits for every command of its context that was fetched before it. -/
def State.attest (s : State) (c : Cmd) : State :=
  if s.cmds.list.any (fun e => decide (e.fid < c.fid) && e.ctx == c.ctx) then s.defer c.fid
  else match s.ctx c.ctxNo with
    | none => s
    | some x =>
      let d := s.draw
      let body := s.reportBody c.ctxNo x ((c.entry.drop 24).take 32) (Config.ecPublic d.1)
      let report := body ++ fixLen 96 (Config.ecdsaSign s.nv.otp.row.idkPriv body)
      let t := d.2.modCtx c.ctxNo (fun y => { y with sec := { y.sec with ephPriv := some d.1, ephUsed := false, report := report } })
      let w := t.plainWrite c.ctxNo (c.fld 8 2) (c.fld 16 8) report
      (w.s.countViol c.ctxNo w.viol).complete c.fid stOk (toLe report.length 4)

/-- SESSION_OPEN (R364, R376, R380). -/
def State.sessionOpen (s : State) (c : Cmd) (key : HostRead) : State :=
  match s.ctx c.ctxNo with
  | none => s
  | some x =>
    if !x.confidential then s.answer c stSecNotConfidential
    else match x.sec.ephPriv with
      | none => s.answer c stSecNoKey
      | some priv =>
        if x.sec.ephUsed then s.answer c stSecKeyUsed
        else
          let w := s.plainRead c.ctxNo (c.fld 8 2) (c.fld 16 8) 97 key
          match w.data with
          | none => (w.s.faultCtx c.ctxNo 4 stDmaPoison).answer c stDmaPoison
          | some pub =>
            let t := w.s.countViol c.ctxNo w.viol
            if !Config.ecValid pub then t.answer c stSecBadPoint
            else
              let sec : CtxSec :=
                { x.sec with ephUsed := true, secret := Config.ecdh priv pub, salt := Config.sha384 x.sec.report, h2tGen := 0, t2hGen := 0, t2hCnt := 0 }
              let keyed : CtxSec :=
                { sec with h2t := some (chanKey "IVN h2t" sec c.ctxNo 0), t2h := some (chanKey "IVN t2h" sec c.ctxNo 0) }
              (t.modCtx c.ctxNo (fun y => { y with sec := keyed })).answer c stOk

/-- IDENTITY_GET (R391). -/
def State.identityGet (s : State) (c : Cmd) : State :=
  let chain := s.nv.certChain
  let t := if chain.length ≤ c.fld 16 4 then s.hostWrite c.func none (c.fld 8 8) chain else s
  t.complete c.fid stOk (resultAt [(8, toLe chain.length 4), (16, toLe s.nv.serial 8)])

def execAttest (fid : Nat) (s : State) : Result := .next (s.secCmd (s.runOp fid 0x30 stBadField State.attest))
def execSessionOpen (fid : Nat) (key : HostRead) (s : State) : Result :=
  .next (s.secCmd (s.runRead fid 0x31 stBadField (fun t c => t.sessionOpen c key)))
def execIdentityGet (fid : Nat) (s : State) : Result := .next (s.secCmd (s.runOp fid 0xA0 stBadField State.identityGet))

/-- Whether the DOE mailbox answers: the tile serves and the link carries requests (R330, R334, R404). -/
def State.doeOpen (s : State) : Bool := s.running && s.link.up

/-- Answers an SPDM request on the PF's DOE mailbox (R365). -/
def State.doeAnswer (s : State) (response : Bytes) : State := s.signal (.doe response)

/-- An SPDM response whose transcript the identity key signs. -/
def State.signedResponse (s : State) (code : Nat) (request body : Bytes) : Bytes :=
  Config.spdmBody code request ++ body ++ Config.ecdsaSign s.nv.otp.row.idkPriv (request ++ Config.spdmBody code request ++ body)

/-- GET_CERTIFICATE returns the certificate chain (R365). -/
def execSpdmGetCertificate (request : Bytes) (s : State) : Result :=
  .next (if s.doeOpen then { s with out := (s.doeAnswer (Config.spdmBody 0x82 request ++ s.nv.certChain)).out } else s)

/-- CHALLENGE is answered under the identity key (R365). -/
def execSpdmChallenge (request : Bytes) (s : State) : Result :=
  .next (if s.doeOpen then { s with out := (s.doeAnswer (s.signedResponse 0x83 request [])).out } else s)

/-- GET_MEASUREMENTS returns the tile's measurements (R365, R366). -/
def execSpdmGetMeasurements (request : Bytes) (s : State) : Result :=
  .next (if s.doeOpen then { s with out := (s.doeAnswer (s.signedResponse 0xE0 request s.tileMeasures.flatten)).out } else s)

/-- KEY_EXCHANGE opens a session under the identity key (R365). -/
def execSpdmKeyExchange (request : Bytes) (s : State) : Result :=
  let d := s.draw
  .next (if s.doeOpen then
    { s with out := (s.doeAnswer (s.signedResponse 0xE4 request (Config.ecPublic d.1))).out,
             link := { s.link with spdm := some (1, Config.ecdh d.1 request) }, draws := s.draws + 1 }
  else s)

/-- PSK_EXCHANGE opens a session under the key derived from LINK_ROOT (R364, R365). -/
def execSpdmPskExchange (request : Bytes) (s : State) : Result :=
  let psk := Config.hkdf s.nv.otp.row.linkRoot [] (asciiBytes "IVN spdm psk") 48
  .next (if s.doeOpen then
    { s with out := (s.doeAnswer (Config.spdmBody 0xE6 request)).out,
             link := { s.link with spdm := some (2, Config.hkdf psk request [] 48) } }
  else s)

/-- IDE_KM sets the link IDE keys inside an SPDM session and makes the stream secure (R336, R365). -/
def execIdeKm (message : Bytes) (s : State) : Result :=
  .next (if s.doeOpen && s.link.spdm.isSome then
    { s with out := (s.doeAnswer (Config.spdmBody 0xFE message)).out,
             link := { s.link with ideEnabled := true, ideSecure := true, ideKeys := message } }
  else s)

end Sys2Proof.Machine
end

