-- ==== Sys2Proof/Machine/FetchOps.lean ====
section
/-!
DEFINITION. Machine/FetchOps.lean: the dispatch arbiter's choice of a queue and the fetch of a command (R29, R345, R358), commands that are
on no table row (R351), and the moment a deferred command takes effect (R183, R194).
-/
namespace Sys2Proof.Machine

/-- A queue from which a command can be fetched: its key (the function of an admin queue, or 256 plus the number of a pair), its service
class and the moment since which its front entry waits. -/
structure FetchCand where
  key : Nat
  cls : Nat
  since : Nat
  deriving DecidableEq, Repr

def queueKey : QRef → Nat
  | .admin f => f
  | .pair n => 256 + n

def keyQueue (k : Nat) : QRef := if k < 256 then .admin k else .pair (k - 256)

/-- Whether a queue has an unfetched entry, fewer than 2 commands outstanding, and no more of them than free completion entries (R345). -/
def State.roomFor (s : State) (q : QRef) (depth sqHead sqTail cqHead cqTail : Nat) : Bool :=
  let n := s.outstanding q
  sqHead != sqTail && decide (n < 2) && decide (n + ringUsed depth cqHead cqTail ≤ depth - 1)

/-- The queues from which a command can be fetched. In a capped class the age of an entry counts from the moment the bucket turned
non-negative at the earliest (R145). Admin queues are arbitrated in class 0 (notes/assumptions/27.md). -/
def State.fetchable (s : State) : List FetchCand :=
  let from' (cls since : Nat) : Nat := if s.param 0x0303 cls = 0 then since else max since (s.steps.bucketSince.getD cls 0)
  (s.funcs.filterMap (fun p =>
    let a := p.2.admin
    if a.running && a.enable && !a.error && s.roomFor (.admin p.1) (a.depthM1.toNat + 1) a.sqHead a.sqTail a.cqHead a.cqTail then
      some { key := p.1, cls := 0, since := a.since : FetchCand } else none)) ++
  s.queues.filterMap (fun p =>
    let x := p.2
    if x.state == .active && s.roomFor (.pair p.1) x.depth x.sqHead x.sqTail x.cqHead x.cqTail then
      let cls := ((s.ctx x.ctx).map (fun (y : Ctx) => y.cls)).getD 0
      some { key := 256 + p.1, cls := cls, since := from' cls x.since : FetchCand } else none)

/-- The lowest of two candidates by a measure, the earlier one on a tie. -/
def leastBy (f : FetchCand → Nat) (l : List FetchCand) : Option FetchCand :=
  l.foldl (fun (acc : Option FetchCand) x => match acc with | none => some x | some y => if f x < f y then some x else some y) none

/-- Round-robin within a class: the first queue after the one that was granted last. -/
def State.nextInClass (s : State) (l : List FetchCand) (cls : Nat) : Option FetchCand :=
  let last := AList.getD s.steps.lastQueue cls 0
  leastBy (fun x => if last < x.key then x.key else x.key + 65536) (l.filter (fun x => x.cls == cls))

/-- The queue that the arbiter grants (R29): the oldest one past 10 ms, else weighted round-robin by class. The pair holds the class and the
grants it has then had. -/
def State.arbitrate (s : State) : Option (FetchCand × Nat × Nat) :=
  let l := s.fetchable
  match leastBy (fun x => x.since) (l.filter (fun x => decide (x.since + 10000 < s.boot.timer))) with
  | some x => some (x, s.steps.wrrClass, s.steps.wrrUsed)
  | none =>
    (List.range 5).findSome? (fun k =>
      let cls := (s.steps.wrrClass + k) % 4
      let used := if k = 0 then s.steps.wrrUsed else 0
      if used < s.param 0x0304 cls then (s.nextInClass l cls).map (fun x => (x, cls, used + 1)) else none)

/-- A read of an entry that failed stops its queue (R358). -/
def State.entryReadFailed (s : State) (q : QRef) : State :=
  match q with
  | .admin f => s.modFunc f (fun x => { x with admin := { x.admin with error := true, cause := 3, running := false } })
  | .pair n =>
    let t : State := { s with queues := s.queues.upd n (fun (x : Queue) => { x with state := .error, cause := 2 }) }
    match s.queues.get? n with
    | some x => t.faultCtx x.ctx 4 stDmaPoison
    | none => t

/-- Moves the head of a queue past the fetched entry. -/
def State.advanceHead (s : State) (q : QRef) : State :=
  match q with
  | .admin f => s.modFunc f (fun x =>
      { x with admin := { x.admin with sqHead := (x.admin.sqHead + 1) % (x.admin.depthM1.toNat + 1), since := s.boot.timer } })
  | .pair n => { s with queues := s.queues.upd n (fun (x : Queue) => { x with sqHead := (x.sqHead + 1) % x.depth, since := s.boot.timer }) }

/-- Places a command in the fetch order, and writes its COMMAND record or lets it wait behind that of a SCHED_LOAD (R445). -/
def State.takeCmd (s : State) (q : QRef) (entry : Bytes) : State :=
  let ctx : Option Nat := match q with
    | .admin _ => none
    | .pair n => (s.queues.get? n).map (fun (x : Queue) => x.ctx)
  let func : Nat := match q with
    | .admin f => f
    | .pair _ => ((ctx.bind s.ctx).map (fun (x : Ctx) => x.func)).getD 0
  let rep := (ctx.bind s.ctx).any (fun (x : Ctx) => x.replay.active)
  let c : Cmd := { fid := s.cmds.next, q := q, func := func, ctx := ctx, entry := entry, stage := .fetched, recorded := rep }
  let t := ({ s with cmds := { list := s.cmds.list ++ [c], next := s.cmds.next + 1 } } : State).advanceHead q
  if !rep then t
  else if c.opcode = 0x02 ∨ !(t.heldRecords c.ctxNo).isEmpty then
    t.modCtx c.ctxNo (fun x => { x with replay := { x.replay with held := x.replay.held ++ [c.fid] } })
  else t.recordCmd c []

/-- Whether the tile fetches commands: it serves, F1 is in service, the link carries requests, and a read tag is free (R357, R404, R414, R460). -/
def State.fetches (s : State) : Bool := s.serving && !s.coreOut 1 && s.linkOpen && s.freeTags != 0

/-- One grant of the arbiter. -/
def State.fetchOne (s : State) (r : HostRead) : State :=
  match if s.fetches then s.arbitrate else none with
  | none => s
  | some (x, cls, used) =>
    let t : State := { s with steps := { s.steps with wrrClass := cls, wrrUsed := used, lastQueue := s.steps.lastQueue.set x.cls x.key } }
    match r with
    | .ok b => t.takeCmd (keyQueue x.key) (fixLen 64 b)
    | .expired => (t.readFailed false).entryReadFailed (keyQueue x.key)
    | .poisoned => (t.readFailed true).entryReadFailed (keyQueue x.key)

/-- What fetching may change. -/
def State.fetchCmd (s r : State) : State := { s.cplOf r with link := r.link, pf := r.pf }

def execCommandFetch (entry : HostRead) (s : State) : Result := .next (s.fetchCmd (s.fetchOne entry))

/-- Answers a fetched command whose opcode is outside the table or on the wrong kind of queue (R351). -/
def State.refuseOpcode (s : State) (fid : Nat) : State :=
  match s.cmds.find fid with
  | none => s
  | some c => if s.commandsRun && c.stage == .fetched && !c.opcodeOk then s.answer c stBadOpcode else s

def execInvalidOpcode (fid : Nat) (s : State) : Result := .next (s.cplOf (s.refuseOpcode fid))

/-- The effect of a command that brings nothing from the environment, by opcode (R350). -/
def State.effectOf (op : Nat) : Option (State → Cmd → State) :=
  match op with
  | 0x03 => some (fun s c => s.schedCmd (s.schedUnload c))
  | 0x08 => some (fun s c => s.streamCmd (s.streamOpen c))
  | 0x09 => some (fun s c => s.streamCmd (s.streamPause c))
  | 0x0A => some (fun s c => s.streamCmd (s.streamResume c))
  | 0x0B => some (fun s c => s.streamCmd (s.streamReset c))
  | 0x0C => some (fun s c => s.streamCmd (s.streamClose c))
  | 0x0D => some (fun s c => s.streamCmd (s.streamQuery c))
  | 0x10 => some (fun s c => s.streamCmd (s.kvPoolCreate c))
  | 0x11 => some (fun s c => s.streamCmd (s.kvPoolDestroy c))
  | 0x12 => some (fun s c => s.streamCmd (s.kvSeqOpen c))
  | 0x13 => some (fun s c => s.streamCmd (s.kvSeqFork c))
  | 0x14 => some (fun s c => s.streamCmd (s.kvSeqTruncate c))
  | 0x15 => some (fun s c => s.streamCmd (s.kvSeqClose c))
  | 0x16 => some (fun s c => s.streamCmd (s.kvSeqQuery c))
  | 0x18 => some (fun s c => s.tierCmd (s.segMap c))
  | 0x19 => some (fun s c => s.tierCmd (s.segUnmap c))
  | 0x1A => some (fun s c => s.tierCmd (s.segAttr c))
  | 0x1B => some (fun s c => s.tierCmd (s.segQuery c))
  | 0x21 => some (fun s c => s.tierCmd (s.modelAttach c))
  | 0x22 => some (fun s c => s.tierCmd (s.modelDetach c))
  | 0x23 => some (fun s c => s.tierCmd (s.modelRemove c))
  | 0x24 => some (fun s c => s.tierCmd (s.modelQuery c))
  | 0x28 => some (fun s c => s.cplOf (s.windowOpen c))
  | 0x29 => some (fun s c => s.cplOf (s.windowClose c))
  | 0x30 => some (fun s c => s.secCmd (s.attest c))
  | 0x40 => some (fun s c => s.checkCmd (s.checkSet c))
  | 0x41 => some (fun s c => s.checkCmd (s.residentRef c))
  | 0x42 => some (fun s c => s.checkCmd (s.residentAck c))
  | 0x43 => some (fun s c => s.checkCmd (s.replayStart c))
  | 0x44 => some (fun s c => s.checkCmd (s.replayStop c))
  | 0x45 => some (fun s c => s.checkCmd (s.replayStatus c))
  | 0x46 => some (fun s c => s.checkCmd (s.checkQuery c))
  | 0x80 => some (fun s c => s.ctxCmd (s.ctxCreate c))
  | 0x81 => some (fun s c => s.ctxCmd (s.ctxReset c))
  | 0x82 => some (fun s c => s.ctxCmd (s.ctxDestroy c))
  | 0x83 => some (fun s c => s.cplOf (s.qpCreate c))
  | 0x84 => some (fun s c => s.cplOf (s.qpDelete c))
  | 0x91 => some (fun s c => s.fwCmd (s.fwActivate c))
  | 0x92 => some (fun s c => s.svnCmd (s.fwSvnCommit c))
  | 0x95 => some (fun s c => s.cplOf (s.logRingSet c))
  | 0x96 => some (fun s c => s.cplOf (s.cairnSet c))
  | 0xA0 => some (fun s c => s.secCmd (s.identityGet c))
  | _ => none

/-- A deferred command whose turn has come takes effect (R183, R194, R354, R429). -/
def State.takeEffect (s : State) (fid : Nat) : State :=
  match s.cmds.find fid with
  | none => s
  | some c =>
    match State.effectOf c.opcode with
    | none => s
    | some f => if s.commandsRun && c.opcodeOk && c.stage == .deferred && !s.mustWait c then f s c else s

def execCommandTakesEffect (fid : Nat) (s : State) : Result := .next (s.takeEffect fid)

end Sys2Proof.Machine
end

