-- ==== Sys2Proof/Machine/FwRows.lean ====
section
/-!
DEFINITION. Machine/FwRows.lean: watchdogs, restarts and activation of firmware cores (R413 to R418), pending configuration records (R410), and
the delivery of log entries and Cairn records (R419, R424).
-/
namespace Sys2Proof.Machine

def State.fwCore (s : State) (n : Nat) : FwCore := s.fw.cores.getD n FwCore.fresh

/-- The log entries of the cores that an activation restarted (R421). -/
def State.logRestarts (s : State) (a : Activate) : State :=
  a.done.foldl (fun (t : State) (p : Nat × FwCore) => t.logPf (mkLog 0x0002 [(0, p.1), (3, a.image.svn)])) s

/-- Ends an FW_ACTIVATE: the log entries, then the completion (R413). -/
def State.endActivate (s : State) (a : Activate) (status : Nat) : State :=
  (({ s with fw := { s.fw with activate := none } } : State).logRestarts a).complete a.fid status []

/-- A watchdog expires on a core that an activation has restarted: it goes back to the image it ran before, and the cores still to restart stay
(R413). -/
def State.undoActivate (s : State) (n : Nat) : State :=
  match s.fw.activate with
  | none => s
  | some a =>
    match a.done.find? (fun p => p.1 == n) with
    | none => s
    | some p =>
      let t := s.modCore n (fun c => { c with slot := p.2.slot, svn := p.2.svn, digest := p.2.digest, ipc := p.2.ipc })
      let u := a.todo.foldl (fun (v : State) k => v.modCore k (fun c => { c with restarting := false })) t
      (u.fwEvent 5).endActivate a stAborted

/-- Whether an expiry of a core's watchdog is a second-stage one (R416). -/
def State.secondStage (s : State) (n : Nat) : Bool :=
  let c := s.fwCore n
  c.restartAt.any (fun t => decide (s.boot.timer ≤ t + 1000 * s.param 0x0801 0)) ||
    decide (2 ≤ (c.expiries.filter (fun t => decide (s.boot.timer < t + 60000000))).length)

/-- A first-stage expiry: the core goes out of service until it is restarted. -/
def State.firstStage (s : State) (n : Nat) : State :=
  let t := (s.modCore n (fun c => { c with restarting := true, expiries := s.boot.timer :: c.expiries })).undoActivate n
  (({ t with fw := { t.fw with expiryCnt := satUp t.fw.expiryCnt } } : State).fwEvent 1).logPf (mkLog 0x0003 [(0, n)])

/-- What the firmware rows may change. -/
def State.fwRow (s r : State) : State :=
  { s.cplOf r with pf := r.pf, dram := r.dram, flash := r.flash }

/-- What a configuration record that takes effect may change. -/
def State.cfgRow (s r : State) : State := { s.cplOf r with pf := r.pf, params := r.params, cfgm := r.cfgm, dram := r.dram }

def execWatchdogExpiry (core : Nat) (s : State) : Result :=
  if s.running ∧ core < 4 ∧ !s.coreOut core then
    if s.secondStage core then .next (s.tileReset 2 (BitVec.ofNat 2 core) (some (s.fwCore core).slot.toNat))
    else .next (s.fwRow (s.firstStage core))
  else .next s

/-- Flash operations that the restart of F3 finds under way: an erase leaves its block ERASE_INCOMPLETE, a program closes its block and is made
again in a new one from its source buffer (R324, R417). -/
def Flash.afterF3 (f : Flash) : Flash :=
  let ended := (f.dies.flatMap (fun d => d.2.ops.map (fun o => o.2.work))).foldl (fun (g : Flash) w =>
    match w with
    | .erase b => g.setBlock b { g.block b with state := .incomplete }
    | .program a w d =>
      let o : OwedPage := { writer := w, plane := paDie a * 8 + paPlane a, shun := paBlockId a, data := d }
      { (g.setBlock (paBlockId a) { g.block (paBlockId a) with state := .closed, closedAt := g.clock }).place a (Config.tornPage a d) with
        owed := g.owed ++ [o] }) f
  let idle : Flash := { ended with dies := ended.dies.map (fun d => (d.1, { d.2 with ops := [] })) }
  (idle.dies.foldl (fun (g : Flash) d => g.senseWaiting d.1) idle).startOwed

/-- A retraining that the restart of F2 finds under way begins again at its first phase (R414). -/
def Dram.afterF2 (d : Dram) : Dram :=
  { d with chans := d.chans.map (fun c => { c with training := c.training.map (fun t => { t with slices := 0 }) }) }

/-- A core runs again: on the image of an activation, or on the one it ran (R413, R416). -/
def State.restartCore (s : State) (n : Nat) : State :=
  let s1 : State := if n = 3 then { s with flash := s.flash.afterF3 } else if n = 2 then { s with dram := s.dram.afterF2 } else s
  let up (c : FwCore) : FwCore := { c with restarting := false, restarts := satUp c.restarts }
  match s1.fw.activate.filter (fun a => a.todo.head? == some n) with
  | some a =>
    let t := s1.modCore n (fun c => { (up c).run n a.image with restartAt := none })
    let b : Activate := { a with todo := a.todo.tail, done := a.done ++ [(n, s1.fwCore n)] }
    let u : State := { t with fw := { t.fw with activate := some b } }
    (match b.todo.head? with
      | some k => u.modCore k (fun c => { c with restarting := true })
      | none => u).fwEvent 0
  | none =>
    let t := s1.modCore n (fun c => { up c with restartAt := some s1.boot.timer })
    (t.fwEvent 0).logPf (mkLog 0x0002 [(0, n), (2, 1), (3, (s1.fwCore n).svn.toNat)])

def execFwCoreRestart (core : Nat) (s : State) : Result :=
  if s.running ∧ s.coreOut core then .next (s.fwRow (s.restartCore core)) else .next s

def execFwActivateConfirm (s : State) : Result :=
  match s.fw.activate with
  | some a => if s.running ∧ a.todo = [] then .next (s.fwRow (s.endActivate a stOk)) else .next s
  | none => .next s

def execCfgRecordApply (subsystem : Nat) (s : State) : Result :=
  match s.cfgm.pending.find? (fun p => p.subsys == subsystem) with
  | some p => if s.running ∧ !s.coreOut 0 ∧ s.quiescent subsystem then .next (s.cfgRow (s.applyRecord p)) else .next s
  | none => .next s

def execLogEntryDelivery (s : State) : Result :=
  match s.fw.logQ with
  | i :: rest =>
    if s.running ∧ !s.coreOut 3 then .next { s with out := (s.deliverLog i).out, fw := { s.fw with logQ := rest } } else .next s
  | [] => .next s

/-- Writes the oldest Cairn record of a core to its window (R422, R424). -/
def State.deliverCairn (s : State) (core : Nat) (r : CairnRec) : State :=
  let t := s.modLc core (fun l => { l with cairn := l.cairn.tail })
  let w := t.plainWrite r.ctx r.win r.off r.data
  w.s.countViol r.ctx w.viol

def execCairnRecordDelivery (core : Nat) (s : State) : Result :=
  match (s.lc core).cairn.head? with
  | some r =>
    if s.running ∧ !s.coreOut 3 ∧ core < 8 then
      let t := s.deliverCairn core r
      .next { s with out := t.out, ctxs := t.ctxs, funcs := t.funcs, fw := t.fw, lcores := t.lcores }
    else .next s
  | none => .next s

end Sys2Proof.Machine
end

