-- ==== Sys2Proof/Machine/RegRead.lean ====
section
/-!
DEFINITION. Machine/RegRead.lean: the value of every control-window register (R337 to R341, R361; R99, R128, R188, R220, R245, R266, R301, R328,
R393, R427, R475), as 32-bit words by offset.
-/
namespace Sys2Proof.Machine

/-- The context that a function's CTX_SEL shows: one that exists and that the function may select (R341). -/
def State.shown (s : State) (f : Nat) : Option (Nat × Ctx) :=
  let n := (s.func f).ctxSel.toNat
  ((s.ctx n).filter (fun c => f == 0 || c.func == f)).map (fun c => (n, c))

/-- The queue that a function's Q_QUEUE_SEL shows (R347). -/
def State.shownQueue (s : State) (f : Nat) : Option Queue :=
  (s.queues.get? (s.func f).queueSel.toNat).filter (fun q => f == 0 || (s.ctx q.ctx).any (fun (c : Ctx) => c.func == f))

def QState.code : QState → Nat
  | .active => 1 | .error => 2 | .deleting => 3

/-- DEV_ registers (R99, R128, R361). -/
def State.readDev (s : State) (f off : Nat) : Nat :=
  let pf := f == 0
  match off with
  | 0x0000 => packBits [(0, 0x8120), (16, Config.stepping.toNat)]
  | 0x0004 => packBits [(0, f), (8, b2n s.boot.ready), (9, s.param 0x0101 0)]
  | 0x0010 => if pf then packBits ((List.range 8).map (fun i => (4 * i, (s.lc i).carrier.toNat))) else 0
  | 0x0014 =>
    if pf then
      packBits [(0, (s.carried 8).getD 15), (4, b2n s.sparing.usable), (5, b2n (s.sparing.busy.isSome || s.sparing.wanted.isSome)),
        (6, b2n (s.pf.spareEv.isSet 6)), (8, s.sparing.retired.toNat)]
    else 0
  | 0x0020 => if pf then packBits [(0, s.sparing.ceCnt.toNat), (16, s.sparing.ueCnt.toNat), (24, s.sparing.ueLast.toNat)] else 0
  | 0x0024 =>
    if pf then
      packBits [(0, s.coll.retryCnt.toNat), (8, s.coll.failCnt.toNat), (16, s.openSlots.length),
        (19, b2n (!s.openSlots.isEmpty || s.coll.latches.any (fun l => !l.2.set.isEmpty && l.2.set.length != l.2.cores.length))),
        (20, b2n (s.carried 8).isSome)]
    else 0
  | _ => 0

/-- Q_ registers (R361). -/
def State.readQ (s : State) (f off : Nat) : Nat :=
  let x := s.func f
  let a := x.admin
  match off with
  | 0x1000 => a.sqBase.toNat % 2 ^ 32
  | 0x1004 => a.sqBase.toNat / 2 ^ 32
  | 0x1008 => a.cqBase.toNat % 2 ^ 32
  | 0x100C => a.cqBase.toNat / 2 ^ 32
  | 0x1010 => packBits [(0, a.depthM1.toNat), (16, b2n a.enable)]
  | 0x1018 => packBits [(0, b2n a.running), (1, b2n a.error), (2, a.cause.toNat)]
  | 0x1020 => x.queueSel.toNat
  | 0x1024 =>
    match s.shownQueue f with
    | some q => packBits [(0, q.state.code), (2, q.cause.toNat), (4, b2n (!q.held.isEmpty)), (16, q.sqHead % 65536)]
    | none => 0
  | 0x1028 => packBits [(0, x.dbDrop.toNat), (16, x.winDrop.toNat), (31, b2n (x.overflow.isSet 31))]
  | _ => 0

/-- The block of the selected context (R188, R220, R245, R341, R361). -/
def State.readCtx (s : State) (n : Nat) (c : Ctx) (off : Nat) : Nat :=
  match off with
  | 0x2004 =>
    packBits [(0, c.state.toNat), (2, c.cls), (4, b2n c.confidential), (5, b2n c.isolated), (8, c.partition % 8), (16, c.cores % 256),
      (24, c.func % 256)]
  | 0x2008 => c.viol.toNat
  | 0x2010 => (s.strms.filter (fun p => p.2.ctx == n)).length
  | 0x2014 => c.first % 65536
  | 0x2018 => c.size
  | 0x201C => c.strmEv.value
  | 0x2020 => (c.kv.map KvPool.freePages).getD 0
  | 0x2024 => (c.kv.map (fun (k : KvPool) => k.limbo.length)).getD 0
  | 0x2028 => (c.kv.map (fun (k : KvPool) => k.seqs.length)).getD 0
  | 0x202C => if c.kv.isSome then c.kvEv.value else 0
  | 0x2030 => packBits [(0, c.guarantee % 65536), (16, b2n c.borrow)]
  | 0x2034 => packBits [(0, s.heldFrames n % 65536), (16, s.borrowedFrames n % 65536)]
  | 0x2038 => ((s.tier.extents.get? n).map (fun (l : List Nat) => l.length)).getD 0
  | 0x203C => c.skip.toNat
  | 0x2040 => c.tierEv.value
  | 0x7004 =>
    packBits [(0, b2n c.sec.ephPriv.isSome), (1, b2n c.sec.ephUsed), (2, b2n c.sec.h2t.isSome), (8, c.sec.h2tGen % 256), (16, c.sec.t2hGen % 256)]
  | 0x7008 => packBits [(0, c.sec.authFail.toNat), (16, c.sec.macFail.toNat)]
  | 0x700C => EvReg.value c.sec.events
  | 0x8050 => packBits [(0, b2n c.cairn.isSome), (16, c.cairnDrop.toNat)]
  | _ => 0

/-- States of the four generations of four slots (R266). -/
def State.genStates (s : State) (n : Nat) : Nat :=
  packBits ((List.range 16).map (fun i => (2 * i, (s.cmp.gen (16 * n + i)).state.code)))

/-- TIER_ and CMP_ registers of the PF (R245, R266). -/
def State.readTier (s : State) (off : Nat) : Nat :=
  let k := s.cmp.selSlot.toNat * 4 + s.cmp.selGen.toNat
  let g := s.cmp.gen k
  let table := if g.state = .free then [] else g.table
  match off with
  | 0x3000 => packBits [(0, s.freeFrames % 65536), (16, (s.tier.frames.filter (fun p => p.2.isBorrowed)).length % 65536)]
  | 0x3004 => packBits [(0, s.freeModelUnits % 2 ^ 20), (20, s.nv.models.length % 2 ^ 11), (31, b2n s.installBusy)]
  | 0x4000 => s.genStates 0
  | 0x4004 => s.genStates 1
  | 0x4008 => s.genStates 2
  | 0x400C => s.genStates 3
  | 0x4010 => packBits [(0, s.cmp.selSlot.toNat), (4, s.cmp.selGen.toNat)]
  | 0x4014 => leAt table 0 4
  | 0x4018 => leAt table 4 4
  | 0x401C => packBits [(0, min g.holds 65535), (16, min (s.genInFlight k) 65535)]
  | 0x4020 => packBits [(0, s.cmp.ridgeFail.toNat), (16, s.cmp.talusFail.toNat)]
  | 0x4024 => s.pf.cmpEv.value
  | _ => 0

/-- Partitions in force (R296). -/
def State.partitions (s : State) : Nat := (((List.range 8).map (fun g => s.param 0x020C g)).dedup).length

def quadOff (c : DramChan) (rank : Nat) : Nat := packBits ((List.range 4).map (fun q => (q, b2n (c.quad rank q == .off))))

/-- DRAM_ registers (R301). RETIRED_VALID shows a retirement that has ended (notes/assumptions/29.md). -/
def State.readDram (s : State) (off : Nat) : Nat :=
  let c := s.dram.chan s.pf.dramChSel.toNat
  if 0x5020 ≤ off ∧ off < 0x5040 then
    let g := s.dram.group ((off - 0x5020) / 4)
    let r := if g.spareState = 3 then g.retired else none
    packBits [(0, g.spareCh.toNat), (2, b2n g.spareRank), (3, g.spareState.toNat), (5, b2n r.isSome), (6, (r.map (·.1)).getD 0),
      (8, b2n ((r.map (·.2)).getD false)), (9, b2n g.serviceBusy), (10, g.serviceCh.toNat), (12, g.partition.toNat), (16, g.migProgress.toNat)]
  else match off with
    | 0x5000 => packBits [(0, s.dram.speed.toNat), (2, s.dram.fspOk.toNat), (8, s.partitions), (12, s.param 0x0205 0)]
    | 0x5040 => s.pf.dramChSel.toNat
    | 0x5044 =>
      packBits [(0, c.state.toNat), (2, b2n c.retired0), (3, b2n c.retired1), (4, quadOff c 0), (8, quadOff c 1), (16, c.rate.toNat),
        (24, c.trainCnt.toNat)]
    | 0x5048 => packBits [(0, c.ce.toNat), (16, c.ue.toNat)]
    | 0x504C => c.pnr.toNat
    | 0x5058 => s.dram.violCnt.toNat
    | 0x505C => s.pf.dramEv.value
    | _ => 0

/-- A read-level offset of a die and bin as six bits (R328). -/
def State.calOffset (s : State) (level : Nat) : Nat :=
  let die := s.pf.flCalSel.toNat % 64
  let bin := s.pf.flCalSel.toNat / 64
  (BitVec.ofInt 6 (s.flash.offsets.getD ((die * 8 + bin) * 3 + level) 0)).toNat

/-- FL_ registers (R328). -/
def State.readFlash (s : State) (off : Nat) : Nat :=
  let f := s.flash
  match off with
  | 0x6000 => packBits [(0, 0x40), (7, 8), (11, 0x90), (20, 0x400)]
  | 0x6004 => s.param 0x0401 0
  | 0x6008 => packBits [(0, f.state.toNat), (2, b2n f.brownoutLast), (3, f.otpMirror.toNat), (5, b2n f.recoveryBusy)]
  | 0x600C => packBits [(0, min f.spares 65535), (16, f.grownBad.toNat)]
  | 0x6010 => packBits [(0, min f.meanPe 65535), (16, min f.maxPe 65535)]
  | 0x6014 => f.retryCnt.toNat
  | 0x6018 => packBits [(0, f.softCnt.toNat), (16, f.ueCnt.toNat)]
  | 0x601C => packBits [(0, f.refused.toNat), (16, f.progFail.toNat), (24, f.eraseFail.toNat)]
  | 0x6020 => s.pf.flCalSel.toNat
  | 0x6024 =>
    packBits [(0, s.calOffset 0), (8, s.calOffset 1), (16, s.calOffset 2), (24, (f.die (s.pf.flCalSel.toNat % 64)).shiftCnt.toNat)]
  | 0x6028 => s.pf.flEv.value
  | _ => 0

/-- FW_ registers of the PF (R427). -/
def State.readFw (s : State) (off : Nat) : Nat :=
  let core (n : Nat) : Nat :=
    let c := s.fw.cores.getD n FwCore.fresh
    packBits [(0, b2n c.restarting), (1, c.slot.toNat), (3, c.svn.toNat), (16, c.restarts.toNat)]
  match off with
  | 0x8000 => packBits [(0, s.boot.phase.toNat), (3, s.boot.haltCode.toNat), (6, s.boot.slot.toNat), (8, b2n s.boot.recoveryFail)]
  | 0x8004 => packBits [(0, s.boot.cause.toNat), (3, s.boot.wdtCore.toNat)]
  | 0x8010 => core 0
  | 0x8014 => core 1
  | 0x8018 => core 2
  | 0x801C => core 3
  | 0x8020 =>
    packBits ([(0, s.cfgm.k % 65536), (24, s.cfgm.source.toNat)] ++
      (List.range 8).map (fun i => (16 + i, b2n (s.cfgm.pending.any (fun p => p.subsys == i + 1)))))
  | 0x8024 => s.cfgm.seq % 2 ^ 32
  | 0x8028 => packBits [(0, s.param 0x0801 0), (16, s.fw.expiryCnt.toNat)]
  | 0x8030 => s.pf.fwEv.value
  | _ => 0

/-- The recovery registers, which answer only in the halt that offers recovery (R405, R427). -/
def State.readRecovery (s : State) (off : Nat) : Nat :=
  match off with
  | 0x8080 => s.boot.recoveryAddr.toNat % 2 ^ 32
  | 0x8084 => s.boot.recoveryAddr.toNat / 2 ^ 32
  | 0x8088 => s.boot.recoveryLen.toNat
  | _ => 0

/-- PWR_ registers of the PF (R475). -/
def State.readPwr (s : State) (off : Nat) : Nat :=
  let p := s.power
  match off with
  | 0x9000 =>
    packBits [(0, p.vcore.toNat), (8, b2n (s.boot.life == .entering)), (10, p.limiter.toNat), (12, b2n (p.pacing != 0)), (16, p.droopCnt.toNat)]
  | 0x9008 => p.capMw.toNat
  | 0x900C => packBits [(0, p.power.toNat), (16, p.stepPs.toNat)]
  | 0x9010 => packBits [(0, p.tjMax.toNat), (8, p.dramMax.toNat), (16, p.flashMax.toNat)]
  | 0x9014 => p.domSel.toNat
  | 0x9018 =>
    if p.domSel.toNat < 9 then
      let x := s.pcr p.domSel.toNat
      packBits [(0, x.dom.toNat), (2, b2n x.pendEn), (16, x.gateCnt.toNat)]
    else 0
  | 0x9020 => s.pf.pwrEv.value
  | _ => 0

/-- UCI_ registers (R361). -/
def State.readUci (s : State) (f off : Nat) : Nat :=
  let l := s.link
  match off with
  | 0xA000 =>
    if f = 0 then
      packBits [(0, l.rate.toNat), (3, b2n (l.ideEnabled && l.ideSecure)), (4, l.m0.state.code), (6, l.m1.state.code), (8, l.m0.spares.toNat),
        (12, l.m1.spares.toNat)]
    else 0
  | 0xA004 => s.param 0x0501 0
  | 0xA008 => if f = 0 then packBits [(0, l.timeoutCnt.toNat), (16, l.poisonCnt.toNat)] else 0
  | 0xA00C => if f = 0 then s.pf.uciEv.value else 0
  | _ => 0

/-- FW_LOG_ registers of a function (R427). -/
def State.readLog (s : State) (f off : Nat) : Nat :=
  let x := s.func f
  match off with
  | 0x8040 => x.lsn.toNat % 2 ^ 32
  | 0x8044 => x.lsn.toNat / 2 ^ 32
  | 0x8048 => packBits [(0, b2n x.ring.isSome), (16, x.logDrop.toNat % 65536)]
  | _ => 0

/-- Whether a register answers before READY (R404). -/
def State.answersEarly (s : State) (off : Nat) : Bool :=
  [0x0000, 0x0004, 0x8000, 0x8004].contains off ||
    (s.boot.life == .halted && s.boot.haltCode == 2 && decide (0x8080 ≤ off) && decide (off < 0x8090))

/-- The 32-bit word at an aligned offset of a function's control window (R337, R339, R341, R404). -/
def State.readReg (s : State) (f off : Nat) : Nat :=
  if !s.boot.ready && !s.answersEarly off then 0
  else if off < 0x1000 then s.readDev f off
  else if off < 0x2000 then s.readQ f off
  else if off = 0x2000 then packBits [(0, (s.func f).ctxSel.toNat), (31, b2n (s.shown f).isSome)]
  else if off < 0x3000 ∨ off = 0x7004 ∨ off = 0x7008 ∨ off = 0x700C ∨ off = 0x8050 then
    match s.shown f with
    | some (n, c) => s.readCtx n c off
    | none => 0
  else if off = 0x7000 then packBits [(0, s.nv.svn), (9, b2n s.link.spdm.isSome)]
  else if 0x8040 ≤ off ∧ off < 0x8050 then s.readLog f off
  else if off = 0x9004 then s.power.throttle.toNat
  else if 0xA000 ≤ off then s.readUci f off
  else if f ≠ 0 then 0
  else if off < 0x5000 then s.readTier off
  else if off < 0x6000 then s.readDram off
  else if off < 0x7000 then s.readFlash off
  else if 0x8080 ≤ off ∧ off < 0x8090 then (if s.boot.life = .halted then s.readRecovery off else 0)
  else if 0x8000 ≤ off ∧ off < 0x9000 then s.readFw off
  else if 0x9000 ≤ off then s.readPwr off
  else 0

/-- The answer of a control-window read of a size (R337): two 4-byte reads for 8 bytes, and zero for any other size or alignment. -/
def State.readWindow (s : State) (f off size : Nat) : Nat :=
  if size = 4 ∧ off % 4 = 0 ∧ off + 4 ≤ 65536 then s.readReg f off
  else if size = 8 ∧ off % 8 = 0 ∧ off + 8 ≤ 65536 then s.readReg f off + 2 ^ 32 * s.readReg f (off + 4)
  else 0

end Sys2Proof.Machine
end

