-- ==== Sys2Proof/Machine/MboxOps.lean ====
section
/-!
DEFINITION. Machine/MboxOps.lean: the mailboxes of the control windows (R337 to R340), the effect of a drained register write (R9 to R11, R340,
R341), doorbells (R342, R343), the admin queue (R361), the MSI-X table (R359).
-/
namespace Sys2Proof.Machine

/-- Whether a host request reaches the tile (R334, R336, R404, R457). -/
def State.hostIn (s : State) : Bool := s.linkOpen && s.hostLives

/-- What the host rows may change. -/
def State.hostRow (s r : State) : State := { s with funcs := r.funcs, queues := r.queues, out := r.out, pf := r.pf }

/-- Counts a dropped control-window write (R337, R338, R404). -/
def State.winDrop (s : State) (f : Nat) : State := s.modFunc f (fun x => { x with winDrop := satUp x.winDrop })

/-- Counts a dropped doorbell write (R342). -/
def State.dbDrop (s : State) (f : Nat) : State := s.modFunc f (fun x => { x with dbDrop := satUp x.dbDrop })

/-- A 4-byte write enters a function's mailbox, or is dropped when the mailbox holds 64 entries or the register does not answer yet (R338,
R404). -/
def State.mboxPut (s : State) (f off : Nat) (v : Word) : State :=
  if !s.boot.ready && !s.answersEarly off then s.winDrop f
  else if (s.func f).mbox.length < 64 then
    let n := s.pf.arrivals + 1
    ({ s with pf := { s.pf with arrivals := n } } : State).modFunc f (fun x => { x with mbox := x.mbox ++ [{ off := off, val := v, stamp := n }] })
  else (s.winDrop f).modFunc f (fun x => { x with overflow := x.overflow.raise 31 s.pf.arrivals })

/-- A control-window write of a size (R337). -/
def State.windowWrite (s : State) (f off size : Nat) (data : BitVec 64) : State :=
  let lo : Word := BitVec.ofNat 32 data.toNat
  let hi : Word := BitVec.ofNat 32 (data.toNat / 2 ^ 32)
  if size = 4 ∧ off % 4 = 0 ∧ off + 4 ≤ 65536 then s.mboxPut f off lo
  else if size = 8 ∧ off % 8 = 0 ∧ off + 8 ≤ 65536 then (s.mboxPut f off lo).mboxPut f (off + 4) hi
  else s.winDrop f

/-- Answers the held reads of a function whose earlier writes have all drained, in order of arrival (R339). -/
def State.answerReads (s : State) (f : Nat) : State :=
  let x := s.func f
  let due (r : HeldRead) : Bool := match x.mbox.head? with
    | some e => decide (r.stamp < e.stamp)
    | none => true
  let t := (x.reads.takeWhile due).foldl (fun (u : State) r => u.send (.answer f r.off (u.readWindow f r.off r.size))) s
  t.modFunc f (fun y => { y with reads := y.reads.dropWhile due })

/-- A control-window read arrives (R339). -/
def State.windowRead (s : State) (f off size : Nat) : State :=
  (s.modFunc f (fun x => { x with reads := x.reads ++ [{ off := off, size := size, stamp := s.pf.arrivals }] })).answerReads f

/-- Whether the halt of R405 offers recovery. -/
def State.noImage (s : State) : Bool := s.boot.life == .halted && s.boot.haltCode == 2

/-- Whether mailbox entries are drained: by F1, or by the boot ROM while it offers recovery (R338, R405). -/
def State.drains (s : State) : Bool := (s.running && !s.coreOut 1) || s.noImage

/-- Whether a function owns a context: it then has a mailbox slot of its own in isolation mode (R388). -/
def State.ownsCtx (s : State) (f : Nat) : Bool := s.ctxs.any (fun p => p.2.func == f)

/-- The number of a function's slot in the rotation of isolation mode: the owners in ascending number, then the slot that all others share (R388;
notes/assumptions/27.md). -/
def State.mboxSlot (s : State) (f : Nat) : Nat :=
  if s.ownsCtx f then ((List.range f).filter s.ownsCtx).length else ((List.range 256).filter s.ownsCtx).length

/-- The function whose mailbox is drained next: the first non-empty one after the last in ascending number, in isolation mode that of the next slot that
is not idle (R29, R338, R388). -/
def State.nextMbox (s : State) : Option Nat :=
  let l := (s.funcs.filter (fun p => !p.2.mbox.isEmpty)).map (·.1)
  let after (k : Nat) (fs : List Nat) : Option Nat := (fs.find? (fun f => decide (k < f))).or fs.head?
  if s.param 0x0101 0 = 0 then after s.pf.turn l
  else match after (s.mboxSlot s.pf.turn) ((l.map s.mboxSlot).mergeSort) with
    | none => none
    | some k => after (if l.all s.ownsCtx then 0 else s.pf.sharedTurn) (l.filter (fun f => s.mboxSlot f == k))

/-- The entry that is drained next, with its function. -/
def State.nextEntry (s : State) : Option (Nat × MboxEntry) :=
  if s.drains then s.nextMbox.bind (fun f => (s.func f).mbox.head?.map (fun e => (f, e))) else none

/-- The event that drains a write. -/
inductive DrainRow where
  | register | adminTail | adminHead | adminOn | adminOff | spare | train | retire | bivouac | recovery
  deriving DecidableEq, Repr

def State.drainRow (s : State) (f : Nat) (e : MboxEntry) : DrainRow :=
  let v := e.val.toNat
  if e.off = 0x1014 then (if v.testBit 16 then .adminHead else .adminTail)
  else if e.off = 0x1010 then (if v.testBit 16 then .adminOn else .adminOff)
  else if f ≠ 0 then .register
  else if e.off = 0x0018 ∧ v.testBit 4 then .spare
  else if e.off = 0x5050 ∧ v.testBit 8 then .train
  else if e.off = 0x5054 ∧ v.testBit 8 then .retire
  else if e.off = 0x901C ∧ v.testBit 0 then .bivouac
  else if e.off = 0x808C ∧ v.testBit 0 ∧ s.noImage then .recovery
  else .register

/-- Drains the next entry by its event: the entry leaves its mailbox, the effect follows, and the reads that waited for it are answered (R338,
R339). An event that is not the next entry's changes nothing. -/
def State.drain (s : State) (row : DrainRow) (effect : State → Nat → MboxEntry → State) : State :=
  match s.nextEntry with
  | none => s
  | some (f, e) =>
    if s.drainRow f e = row then
      let t : State := { s.modFunc f (fun x => { x with mbox := x.mbox.tail }) with
        pf := { s.pf with turn := f, sharedTurn := if s.ownsCtx f then s.pf.sharedTurn else f } }
      (effect t f e).answerReads f
    else s

/-- Sets the low or the high word of an admin ring base; bits [11:0] read zero (R361). -/
def setHalf (x : BitVec 64) (high : Bool) (v : Nat) : BitVec 64 :=
  if high then BitVec.ofNat 64 (x.toNat % 2 ^ 32 + v % 2 ^ 32 * 2 ^ 32) else BitVec.ofNat 64 (x.toNat / 2 ^ 32 * 2 ^ 32 + v % 2 ^ 32 / 4096 * 4096)

def State.modPf (s : State) (f : PfRegs → PfRegs) : State := { s with pf := f s.pf }

/-- Changes the context that a function shows, if any (R341). -/
def State.modShown (s : State) (f : Nat) (g : Ctx → Ctx) : State :=
  match s.shown f with
  | some (n, _) => s.modCtx n g
  | none => s

/-- Writes of the PF's own registers: RW fields, select registers and W1C bits (R9, R340). -/
def State.writePf (s : State) (off v k : Nat) : State :=
  match off with
  | 0x0014 => s.modPf (fun p => { p with spareEv := p.spareEv.clear v k })
  | 0x4010 => { s with cmp := { s.cmp with selSlot := BitVec.ofNat 4 v, selGen := BitVec.ofNat 2 (v / 16) } }
  | 0x4024 => s.modPf (fun p => { p with cmpEv := p.cmpEv.clear v k })
  | 0x5040 => s.modPf (fun p => { p with dramChSel := BitVec.ofNat 5 v })
  | 0x505C => s.modPf (fun p => { p with dramEv := p.dramEv.clear v k })
  | 0x6020 => s.modPf (fun p => { p with flCalSel := BitVec.ofNat 9 v })
  | 0x6028 => s.modPf (fun p => { p with flEv := p.flEv.clear v k })
  | 0x8030 => s.modPf (fun p => { p with fwEv := p.fwEv.clear v k })
  | 0x8080 => if s.noImage then { s with boot := { s.boot with
      recoveryAddr := BitVec.ofNat 64 (s.boot.recoveryAddr.toNat / 2 ^ 32 * 2 ^ 32 + v / 64 * 64) } } else s
  | 0x8084 => if s.noImage then { s with boot := { s.boot with recoveryAddr := setHalf s.boot.recoveryAddr true v } } else s
  | 0x8088 => if s.noImage then { s with boot := { s.boot with recoveryLen := BitVec.ofNat 24 v } } else s
  | 0x9008 => { s with power := { s.power with capMw := BitVec.ofNat 17 v } }
  | 0x9014 => { s with power := { s.power with domSel := BitVec.ofNat 4 v } }
  | 0x9020 => s.modPf (fun p => { p with pwrEv := p.pwrEv.clear v k })
  | 0xA00C => s.modPf (fun p => { p with uciEv := p.uciEv.clear v k })
  | _ => s

/-- A drained write of a register without an event of its own (R9, R10, R11, R340, R341, R361). -/
def State.writeReg (s : State) (f : Nat) (e : MboxEntry) : State :=
  let v := e.val.toNat
  let base (g : AdminQ → AdminQ) : State := s.modFunc f (fun x => if x.admin.enable then x else { x with admin := g x.admin })
  match e.off with
  | 0x1000 => base (fun a => { a with sqBase := setHalf a.sqBase false v })
  | 0x1004 => base (fun a => { a with sqBase := setHalf a.sqBase true v })
  | 0x1008 => base (fun a => { a with cqBase := setHalf a.cqBase false v })
  | 0x100C => base (fun a => { a with cqBase := setHalf a.cqBase true v })
  | 0x1020 => s.modFunc f (fun x => { x with queueSel := BitVec.ofNat 15 v })
  | 0x1028 => s.modFunc f (fun x => { x with overflow := x.overflow.clear v e.stamp })
  | 0x2000 => s.modFunc f (fun x => { x with ctxSel := BitVec.ofNat 12 v })
  | 0x201C => s.modShown f (fun c => { c with strmEv := c.strmEv.clear v e.stamp })
  | 0x202C => s.modShown f (fun c => { c with kvEv := c.kvEv.clear v e.stamp })
  | 0x2040 => s.modShown f (fun c => { c with tierEv := c.tierEv.clear v e.stamp })
  | 0x700C => s.modShown f (fun c => { c with sec := { c.sec with events := EvReg.clear c.sec.events v e.stamp } })
  | off => if f = 0 then s.writePf off v e.stamp else s

/-- Writes held completions while entries are free (R23, R345). -/
def State.releaseHeld (s : State) (q : QRef) : Nat → State
  | 0 => s
  | n + 1 =>
    let held := match q with
      | .admin f => (s.func f).admin.held
      | .pair k => ((s.queues.get? k).map (fun (x : Queue) => x.held)).getD []
    match held, s.ringOf q with
    | h :: rest, some r =>
      if ringUsed r.depth r.head r.tail < r.depth - 1 then
        let t : State := match q with
          | .admin f => s.modFunc f (fun x => { x with admin := { x.admin with held := rest } })
          | .pair k => { s with queues := s.queues.upd k (fun x => { x with held := rest }) }
        (t.writeCpl q r h).releaseHeld q n
      else s
    | _, _ => s

/-- Whether a CQ head lies in the ring-order range from the current head to the current tail (R343). -/
def headOk (depth head tail v : Nat) : Bool := decide (v < depth) && decide (ringUsed depth head v ≤ ringUsed depth head tail)

/-- A doorbell value for the SQ tail of a queue pair (R342, R343). -/
def State.sqTail (s : State) (n v : Nat) (q : Queue) : State :=
  if q.depth ≤ v then { s with queues := s.queues.upd n (fun x => { x with state := .error, cause := 1 }) }
  else { s with queues := s.queues.upd n (fun x =>
    { x with sqTail := v, since := if x.sqHead = x.sqTail then s.boot.timer else x.since }) }

/-- A doorbell value for the CQ head of a queue pair (R23, R342, R343). -/
def State.cqHead (s : State) (n v : Nat) (q : Queue) : State :=
  if !headOk q.depth q.cqHead q.cqTail v then { s with queues := s.queues.upd n (fun x => { x with state := .error, cause := 1 }) }
  else ({ s with queues := s.queues.upd n (fun x => { x with cqHead := v }) } : State).releaseHeld (.pair n) 2

/-- Rings the doorbell of a queue with 32 bits: VALUE is the SQ tail, or with WHICH the CQ head. A doorbell of a queue number that is not allocated is
that of a queue which is not ACTIVE (R342; notes/assumptions/30.md). -/
def State.ring (s : State) (f n v : Nat) : State :=
  match s.queues.get? n with
  | none => s
  | some q =>
    if !((s.ctx q.ctx).any (fun (c : Ctx) => c.func == f)) then s.dbDrop f
    else if q.state == .active then (if v.testBit 16 then s.cqHead n (v % 65536) q else s.sqTail n (v % 65536) q)
    else s

/-- A write into the doorbell page: 4 aligned bytes ring one doorbell, 8 aligned bytes two, the lower first; any other write is dropped (R342, R360,
R404). -/
def State.doorbell (s : State) (f off size v : Nat) : State :=
  if !s.boot.ready ∨ 131072 < off + size then s
  else if size = 4 ∧ off % 4 = 0 then s.ring f (off / 4) (v % 2 ^ 32)
  else if size = 8 ∧ off % 8 = 0 then (s.ring f (off / 4) (v % 2 ^ 32)).ring f (off / 4 + 1) (v / 2 ^ 32)
  else s.dbDrop f

/-- The admin SQ tail (R342, R343, R361). -/
def State.adminTail (s : State) (f : Nat) (e : MboxEntry) : State :=
  let v := e.val.toNat % 65536
  s.modFunc f (fun x =>
    let a := x.admin
    if !a.enable ∨ !a.running ∨ a.error then x
    else if a.depthM1.toNat < v then { x with admin := { a with error := true, cause := 1, running := false } }
    else { x with admin := { a with sqTail := v, since := if a.sqHead = a.sqTail then s.boot.timer else a.since } })

/-- The admin CQ head (R23, R342, R343, R361). -/
def State.adminHead (s : State) (f : Nat) (e : MboxEntry) : State :=
  let v := e.val.toNat % 65536
  let a := (s.func f).admin
  if !a.running ∨ a.error then s
  else if !headOk (a.depthM1.toNat + 1) a.cqHead a.cqTail v then
    s.modFunc f (fun x => { x with admin := { x.admin with error := true, cause := 1, running := false } })
  else (s.modFunc f (fun x => { x with admin := { x.admin with cqHead := v } })).releaseHeld (.admin f) 2

/-- ENABLE 1 in Q_ADMIN_CFG: the queue starts with head and tail at 0, or shows ERROR for a depth below 64 (R361). -/
def State.adminOn (s : State) (f : Nat) (e : MboxEntry) : State :=
  let a := (s.func f).admin
  let d : BitVec 16 := BitVec.ofNat 16 e.val.toNat
  if a.enable then s
  else
    let b : AdminQ := { a with
      depthM1 := d, enable := true, sqHead := 0, sqTail := 0, cqHead := 0, cqTail := 0, phase := true,
      running := decide (63 ≤ d.toNat), error := decide (d.toNat < 63), cause := if d.toNat < 63 then 2 else 0 }
    (s.modFunc f (fun x => { x with admin := b })).releaseHeld (.admin f) 2

/-- ENABLE 0 in Q_ADMIN_CFG (R361). -/
def State.adminOff (s : State) (f : Nat) (e : MboxEntry) : State :=
  let d : BitVec 16 := BitVec.ofNat 16 e.val.toNat
  let t := s.modFunc f (fun x => { x with admin := { x.admin with enable := false, depthM1 := if x.admin.enable then x.admin.depthM1 else d } })
  t.settleAdmin (.admin f)

/-- A request for the spare core (R100). -/
def State.spareRequest (s : State) (_ : Nat) (e : MboxEntry) : State :=
  if !s.sparing.usable ∨ s.sparing.busy.isSome ∨ s.sparing.wanted.isSome ∨ (s.carried 8).isSome then s.spareEvent
  else { s with sparing := { s.sparing with wanted := some (e.val.toNat % 8) } }

/-- A request for Bivouac (R460). -/
def State.bivouacAsk (s : State) (_ : Nat) (_ : MboxEntry) : State :=
  if s.boot.life ≠ .serving then s
  else if s.param 0x0705 0 = 0 then s.pwrEvent 5
  else { s with boot := { s.boot with life := .entering } }

/-- A failed recovery (R405). -/
def State.recoveryFailed (s : State) : State := { s with boot := { s.boot with recoveryFail := true } }

/-- GO in the halt of R405: the image is read, checked as a slot image and run. -/
def State.recoveryGo (image : HostRead) (s : State) (_ : Nat) (_ : MboxEntry) : State :=
  let n := s.boot.recoveryLen.toNat
  if 8388608 < n then s.recoveryFailed
  else match s.onLink image with
    | .expired => (s.readFailed false).recoveryFailed
    | .poisoned => (s.readFailed true).recoveryFailed
    | .ok raw =>
      let b := fixLen n raw
      if fwImageOk b && s.nv.verifies b && decide (s.nv.svn ≤ leAt b 6 2) then s.startImage (fwImage 2 b) else s.recoveryFailed

/-- A vector of a function's MSI-X table after a 4-byte write at an offset of the table (R359; notes/assumptions/5.md). -/
def Vector'.write (x : Vector') (part : Nat) (v : Nat) : Vector' :=
  match part with
  | 0 => { x with addr := BitVec.ofNat 64 (x.addr.toNat / 2 ^ 32 * 2 ^ 32 + v % 2 ^ 32) }
  | 1 => { x with addr := BitVec.ofNat 64 (x.addr.toNat % 2 ^ 32 + v % 2 ^ 32 * 2 ^ 32) }
  | 2 => { x with data := BitVec.ofNat 32 v }
  | _ => { x with masked := v.testBit 0 }

/-- The 4 bytes at an offset of a function's BAR4: the MSI-X table, and from 0x8000 the pending bits (R331, R359). -/
def State.msixWord (s : State) (f off : Nat) : Nat :=
  let v (n : Nat) : Vector' := (s.func f).vectors.getD n Vector'.fresh
  if off < 32768 then
    let x := v (off / 16)
    match off / 4 % 4 with
    | 0 => x.addr.toNat % 2 ^ 32
    | 1 => x.addr.toNat / 2 ^ 32
    | 2 => x.data.toNat
    | _ => b2n x.masked
  else packBits ((List.range 32).map (fun i => (i, b2n (decide ((off - 32768) / 4 * 32 + i < 2048) && (v ((off - 32768) / 4 * 32 + i)).pend))))

/-- What a host read of 4 bytes of BAR2 or BAR4 returns: no row of the table brings one (R331, R342). -/
def State.barRead (s : State) (f bar off : Nat) : Nat := if bar = 4 then s.msixWord f off else 0

/-- A 4-byte write into the MSI-X table; an unmasked vector whose pending bit is set sends its message (R359). -/
def State.msixWrite (s : State) (f off v : Nat) : State :=
  if 32768 ≤ off then s
  else
    let n := off / 16
    let x := ((s.func f).vectors.getD n Vector'.fresh).write (off / 4 % 4) v
    let go := x.pend && !x.masked
    let t := s.modFunc f (fun y => { y with vectors := y.vectors.set n { x with pend := x.pend && x.masked } })
    if go then t.send (.msix f n) else t

/-- A write of 4 or 8 aligned bytes into BAR4; others have no effect (notes/assumptions/5.md). -/
def State.msixTable (s : State) (f off size : Nat) (data : BitVec 64) : State :=
  if size = 4 ∧ off % 4 = 0 then s.msixWrite f off (data.toNat % 2 ^ 32)
  else if size = 8 ∧ off % 8 = 0 then (s.msixWrite f off (data.toNat % 2 ^ 32)).msixWrite f (off + 4) (data.toNat / 2 ^ 32)
  else s

end Sys2Proof.Machine
end

