-- ==== Sys2Proof/Machine/HostRows.lean ====
section
/-!
DEFINITION. Machine/HostRows.lean: host accesses and drained register writes (R331, R337 to R343, R359, R361, R100, R302, R405, R460).
-/
namespace Sys2Proof.Machine

def execUnsupportedRequest (func addr : Nat) (s : State) : Result :=
  if s.hostIn then .next (s.hostRow (s.send (.unsupported func addr))) else .next s

/-- A doorbell write whose lower doorbell has WHICH 0; `data` is the whole write (R342). -/
def execDoorbellSqTail (func off size : Nat) (data : BitVec 64) (s : State) : Result :=
  if s.hostIn && !(data.toNat.testBit 16) then .next (s.hostRow (s.doorbell func off size data.toNat)) else .next s

/-- A doorbell write whose lower doorbell has WHICH 1 (R342). -/
def execDoorbellCqHead (func off size : Nat) (data : BitVec 64) (s : State) : Result :=
  if s.hostIn && data.toNat.testBit 16 then .next (s.hostRow (s.doorbell func off size data.toNat)) else .next s

def execControlWindowWrite (func off size : Nat) (data : BitVec 64) (s : State) : Result :=
  if s.hostIn then .next (s.hostRow (s.windowWrite func off size data)) else .next s

def execControlWindowRead (func off size : Nat) (s : State) : Result :=
  if s.hostIn then .next (s.hostRow (s.windowRead func off size)) else .next s

/-- What draining a register write may change. -/
def State.regRow (s r : State) : State :=
  { s.hostRow r with
    ctxs := r.ctxs
    cmp := { s.cmp with selSlot := r.cmp.selSlot, selGen := r.cmp.selGen }
    power := { s.power with capMw := r.power.capMw, domSel := r.power.domSel }
    boot := { s.boot with recoveryAddr := r.boot.recoveryAddr, recoveryLen := r.boot.recoveryLen } }

def execRegisterWrite (s : State) : Result := .next (s.regRow (s.drain .register State.writeReg))
def execAdminSqTail (s : State) : Result := .next (s.hostRow (s.drain .adminTail State.adminTail))
def execAdminCqHead (s : State) : Result := .next (s.hostRow (s.drain .adminHead State.adminHead))
def execAdminQueueEnable (s : State) : Result := .next (s.hostRow (s.drain .adminOn State.adminOn))
def execAdminQueueDisable (s : State) : Result := .next (s.hostRow (s.drain .adminOff State.adminOff))

def execSpareSwitchRequest (s : State) : Result :=
  let r := s.drain .spare State.spareRequest
  .next { s.hostRow r with sparing := r.sparing }

def execDramTrainRequest (s : State) : Result :=
  let r := s.drain .train (fun t _ e => t.trainRequest (e.val.toNat % 32))
  .next { s.hostRow r with dram := r.dram }

def execDramRetireRequest (s : State) : Result :=
  let r := s.drain .retire (fun t _ e => t.retireRequest (e.val.toNat % 32) (e.val.toNat.testBit 5))
  .next { s.dramRow r with out := r.out, queues := r.queues }

def execBivouacRequest (s : State) : Result :=
  let r := s.drain .bivouac State.bivouacAsk
  .next { s.hostRow r with boot := { s.boot with life := r.boot.life } }

def execFwRecoveryGo (image : HostRead) (s : State) : Result :=
  let r := s.drain .recovery (State.recoveryGo image)
  .next { s.hostRow r with
    boot := r.boot, nv := s.nv.burnedOf r.nv, fw := r.fw, params := r.params, cfgm := r.cfgm, flash := r.flash, link := r.link }

def execMsixTableWrite (func off size : Nat) (data : BitVec 64) (s : State) : Result :=
  if s.hostIn then .next (s.hostRow (s.msixTable func off size data)) else .next s

end Sys2Proof.Machine
end

