-- ==== Sys2Proof/Machine/LinkRows.lean ====
section
/-!
DEFINITION. Machine/LinkRows.lean: lane repair, width degrade and loss of the UCIe link (R332 to R334), and the insecure state of the link
IDE stream (R336).
-/
namespace Sys2Proof.Machine

/-- Whether the main band of the link is powered (R457, R460). -/
def State.mainBand (s : State) : Bool := s.link.up && s.boot.life != .off && s.boot.life != .bivouac && s.boot.life != .waking

/-- A module of the link; false is module 0. -/
def Link.module (l : Link) (m : Bool) : LinkModule := if m then l.m1 else l.m0

/-- Sets a module; the link goes down when both are DOWN (R333). -/
def Link.setModule (l : Link) (m : Bool) (x : LinkModule) : Link :=
  let n : Link := if m then { l with m1 := x } else { l with m0 := x }
  { n with up := l.up && !(n.m0.state == .down && n.m1.state == .down) }

/-- What the link rows may change. -/
def State.linkRow (s r : State) : State := { s with link := r.link, pf := r.pf }

/-- A lane of a module fails (R332, R333): it retrains onto a redundant lane, or at x32 when none is left. -/
def State.laneFailure (s : State) (m : Bool) : State :=
  let x := s.link.module m
  match x.state with
  | .up =>
    if x.spares = 0 then ({ s with link := s.link.setModule m { x with state := .degraded, narrow := true } } : State).uciEvent 1
    else { s with link := s.link.setModule m { x with state := .repairing } }
  | .degraded => { s with link := s.link.setModule m { x with state := .repairing } }
  | _ => s

def execLaneFailure (module : Bool) (s : State) : Result :=
  if s.mainBand then .next (s.linkRow (s.laneFailure module)) else .next s

/-- The rate at which a link that retrains runs; one below 32 GT/s sets RATE_REDUCED (R361). -/
def State.trained (s : State) (rate : BitVec 3) : State :=
  let t : State := { s with link := { s.link with rate := rate } }
  if rate = 5 then t else t.uciEvent 6

/-- A module whose retraining leaves it without even x32 (R333). -/
def State.moduleDown (s : State) (m : Bool) (x : LinkModule) : State :=
  ({ s with link := s.link.setModule m { x with state := .down } } : State).uciEvent 2

/-- A retraining of a module ends with a number of good lanes, at a rate (R332, R333). -/
def State.retrainDone (s : State) (m : Bool) (lanes : Nat) (rate : BitVec 3) : State :=
  let x := s.link.module m
  if x.state ≠ .repairing then s
  else if lanes < 32 then s.moduleDown m x
  else if x.narrow then ({ s with link := s.link.setModule m { x with state := .degraded } } : State).trained rate
  else if lanes < 64 then
    (({ s with link := s.link.setModule m { x with state := .degraded, narrow := true } } : State).uciEvent 1).trained rate
  else (({ s with link := s.link.setModule m { x with state := .up, spares := x.spares - 1 } } : State).uciEvent 0).trained rate

def execModuleRetrainDone (module : Bool) (lanes : Nat) (rate : BitVec 3) (s : State) : Result :=
  if s.mainBand then .next (s.linkRow (s.retrainDone module lanes rate)) else .next s

/-- A TLP fails its integrity check: the stream leaves the secure state (R336). -/
def execIdeIntegrityFail (s : State) : Result :=
  if s.mainBand && s.link.ideEnabled && s.link.ideSecure then
    .next (s.linkRow (({ s with link := { s.link with ideSecure := false } } : State).uciEvent 5))
  else .next s

end Sys2Proof.Machine
end

