-- ==== Sys2Proof/Machine/SeqRows.lean ====
section
/-!
DEFINITION. Machine/SeqRows.lean: the events of a core: descriptors that issue (R62 to R93), Belay increments (R149 to R151), digest slots
(R91), completions (R74), and faults (R77, R441). An event whose descriptor may not issue or complete changes nothing
(notes/assumptions/7.md).
-/
namespace Sys2Proof.Machine

/- Engines. -/

/-- A MATMUL, SCAN or VEC issues: its operands are read and its results wait for its completion (R64, R70, R83 to R86, R165). Where its
destination rows overlap its own sources, every element sees the rows as they stood at issue (DESIGN CHOICE, notes/assumptions/50.md). -/
def State.runEngine (s : State) (core kind : Nat) (run : Desc → Nat → RowRead → EngineOut) (errors : List RowError) : State :=
  match s.issuing core (fun d => d.kind == kind) with
  | none => s
  | some (x, d) =>
    if passes d x.r.level then s.issueDone core x d
    else
      let o := run d x.q.batch (s.rows core)
      (s.issue core x d (InFlight.plain x.q.idx d o.writes) errors).modSeq core (fun q => q.collect x.q.idx d o)

def execMatmul (core : Nat) (errors : List RowError) (s : State) : Result := .next (s.coreDone (s.runEngine core 1 runMatmul errors))
def execScan (core : Nat) (errors : List RowError) (s : State) : Result := .next (s.coreDone (s.runEngine core 2 runScan errors))
def execVec (core : Nat) (errors : List RowError) (s : State) : Result := .next (s.coreDone (s.runEngine core 4 runVec errors))

/-- An ATTN issues and empties the ring slots as they fill (R75); its result is formed when the last one is in. -/
def State.runAttnIssue (s : State) (core : Nat) (errors : List RowError) : State :=
  match s.issuing core (fun d => d.kind == 3) with
  | none => s
  | some (x, d) => (s.issue core x d (InFlight.plain x.q.idx d []) errors).wakeCore core

def execAttn (core : Nat) (errors : List RowError) (s : State) : Result := .next (s.coreDone (s.runAttnIssue core errors))

/-- A MOVE issues on a channel (R87); a KV_WALK side holds the epoch of its pool (R208). -/
def State.runMove (s : State) (core : Nat) (errors : List RowError) : State :=
  match s.issuing core (fun d => d.kind == 5) with
  | none => s
  | some (x, d) =>
    let m : MoveProg := { loads := d.loads, pieces := s.movePieces core x d, out := 0, pins := [], viol := false }
    let t := (s.issue core x d { InFlight.plain x.q.idx d [] with move := some m } errors).noteWrites core x d
    let u := if d.other = 4 then
        t.modKv x.r.ctx (fun k => { k with holds := k.holds ++ [(k.epoch, holdId x.n core x.q.idx)] })
      else t
    u.pump core x.q.idx

def execMove (core : Nat) (errors : List RowError) (s : State) : Result := .next (s.coreDone (s.runMove core errors))

/- Collectives. -/

/-- Fields of a REDUCE (R88). -/
def Desc.collOp (d : Desc) : Nat := d.fld 4 1 0
def Desc.collRows (d : Desc) : Nat := d.fld 12 31 0 / 512
def Desc.members (d : Desc) : List Nat := bitsSet (d.fld 6 7 0)

/-- Flits of a contribution: two to a row (R111). -/
def Desc.collFlits (d : Desc) : Nat := 2 * d.collRows

/-- Flits that the collector's buffer of a contributor holds: 16 KiB (R120). -/
def collBuffer : Nat := 64

/-- A flit's half of a row. -/
def rowHalf (b : Bytes) (flit : Nat) : Bytes := (b.drop (flit % 2 * 256)).take 256

/-- Flits that a participant awaits (R121 to R123). -/
def Desc.awaits (d : Desc) (core : Nat) : Nat :=
  let n := d.members.length
  if n ≤ 1 then 0
  else match d.collOp with
    | 0 => d.collFlits
    | 1 => (n - 1) * d.collFlits
    | _ => if core = d.fld 7 2 0 then 0 else d.collFlits

/-- What a REDUCE writes without the collector: its own place of an all-gather, ROOT's copy, or the sum of one contribution (R121 to
R123, R127). -/
def Desc.ownRows (d : Desc) (core : Nat) (rd : RowRead) : EngineOut :=
  let row (i : Nat) : Nat := rd ((d.region 16).first + i)
  let dst := (d.region 20).first
  let ix := List.range d.collRows
  let k := (d.members.filter (fun c => decide (c < core))).length
  match d.collOp with
  | 0 =>
    if d.members.length = 1 then
      let rs := ix.map (fun i => (i, reduceRow (d.fld 5 3 0) d.rangeBound [row i]))
      { writes := rs.map (fun r => (dst + r.1, r.2.1)), flags := rs.foldl (fun a r => a ||| r.2.2.1) 0#8,
        tiles := if d.fld 5 3 0 = 8 then [] else rs.map (fun r => (r.1, r.2.2.2)) }
    else { writes := [], flags := 0#8, tiles := [] }
  | 1 => { writes := ix.map (fun i => (dst + k * d.collRows + i, toLe (row i) 512)), flags := 0#8, tiles := [] }
  | _ =>
    { writes := if core = d.fld 7 2 0 then ix.map (fun i => (dst + i, toLe (row i) 512)) else [], flags := 0#8, tiles := [] }

/-- A participant reports that its checks have passed (R125). -/
def State.reportColl (s : State) (core n coll : Nat) : State := s.inject (s.station core) tierStation (.report n coll core)

/-- The flits of a core's contribution. -/
def State.contribFlits (s : State) (core : Nat) (d : Desc) : List (Nat × Bytes) :=
  (List.range d.collFlits).map (fun i => (i, rowHalf (toLe (s.rows core ((d.region 16).first + i / 2)) 512) i))

/-- A flit of a core's contribution goes to the collector. -/
def State.sendFlit (s : State) (core n coll : Nat) (m : Nat × Bytes) : State :=
  s.inject (s.station core) tierStation (.contrib n coll core m.1 m.2 [])

/-- A REDUCE issues: its contribution goes to the collector flit by flit, as far as the collector's buffer has room (R119 to R123). -/
def State.runReduce (s : State) (core op : Nat) (errors : List RowError) : State :=
  match s.issuing core (fun d => d.kind == 6 && d.collOp == op) with
  | none => s
  | some (x, d) =>
    let o := d.ownRows core (s.rows core)
    let many := decide (1 < d.members.length)
    let sends := many && (d.collOp != 2 || core == d.fld 7 2 0)
    let flits := if sends then s.contribFlits core d else []
    let f : InFlight := { InFlight.plain x.q.idx d o.writes with acks := d.awaits core, waits := many, send := flits.drop collBuffer }
    let t := (s.issue core x d f errors).modSeq core (fun q => q.collect x.q.idx d o)
    if !many then t
    else
      let u := (flits.take collBuffer).foldl (fun (v : State) m => v.sendFlit core x.n d.collId m) t
      if d.awaits core = 0 then u.reportColl core x.n d.collId else u

def execReduceAllReduce (core : Nat) (errors : List RowError) (s : State) : Result := .next (s.coreDone (s.runReduce core 0 errors))
def execReduceAllGather (core : Nat) (errors : List RowError) (s : State) : Result := .next (s.coreDone (s.runReduce core 1 errors))
def execReduceBroadcast (core : Nat) (errors : List RowError) (s : State) : Result := .next (s.coreDone (s.runReduce core 2 errors))

/- Checks. -/

def Desc.checkMode (d : Desc) : Nat := d.fld 4 1 0
def Desc.slot (d : Desc) : Nat := d.fld 6 7 0

/-- A check fails: the step faults in class CHECK, and the cores it names are noted for their self-test (R91, R437, R440). -/
def State.checkFault (s : State) (core : Nat) (x : Running) (idx : Nat) (d : Desc) (named : List Nat) : State :=
  let first := (s.lc core).seqr.any (fun q => q.fault.isNone)
  let t := s.raise core (descFault core idx d 1 stCheckFail)
  if first then t.modStep x.n (fun r => { r with kat := named.dedup }) else t

/-- The CHECK_MISMATCH entry (R432, R433, R452): kind 0 a Second, 1 a collective. -/
def State.logMismatch (s : State) (x : Running) (idx : Nat) (d : Desc) (sender checker kind slot coll : Nat) : State :=
  let func := ((s.ctx x.r.ctx).map (·.func)).getD 0
  s.logBoth func
    { mkLog 0x0102 [(0, sender), (3, checker), (6, kind), (8, slot), (16, coll)] with
      ctx := some x.r.ctx, tag := d.opTag, desc := some idx, core := some checker
      pfDetail := [(32, (s.lc sender).carrier.toNat), (36, (s.lc checker).carrier.toNat)] }

/-- The digest that a CHECK takes: of DIG_REG, or of the D region that a SHADOW's MATMUL writes (R89, R91). -/
def State.checkDigest (s : State) (core : Nat) (x : Running) (f : InFlight) : Nat :=
  let p := (s.scratch core).writeRows f.writes
  let reg := if f.desc.checkMode = 3 then ((x.img.stream core).getD (f.desc.fld 16 31 0) 0).region 36 else f.desc.region 8
  crc64 (regionBytes p.row reg)

/-- A RECEIVE or SHADOW in flight takes its slot when that is full, empties it and compares (R91). -/
def State.takeDigest (s : State) (core idx : Nat) : State :=
  match s.current core, s.flight core idx with
  | some x, some f =>
    match AList.get? (s.lc core).slots f.desc.slot with
    | none => s
    | some v =>
      let t := (s.modLc core (fun l => { l with slots := l.slots.erase f.desc.slot })).modFlight core idx (fun y => { y with waits := false })
      if s.checkDigest core x f = v % 2 ^ 64 then t
      else
        let sender := v / 2 ^ 64
        let u := if f.desc.checkMode = 3 then t.logMismatch x idx f.desc sender core 0 f.desc.slot 0 else t
        u.checkFault core x idx f.desc [sender, core]
  | _, _ => s

/-- A CHECK of a mode issues (R91, R92). -/
def State.runCheck (s : State) (core mode : Nat) (errors : List RowError) : State :=
  match s.issuing core (fun d => d.kind == 7 && d.checkMode == mode) with
  | none => s
  | some (x, d) =>
    if passes d x.r.level then s.issueDone core x d
    else
      let idx := x.q.idx
      let f := InFlight.plain idx d []
      match mode with
      | 0 =>
        let t := s.issue core x d f errors
        if s.checkDigest core x f = streamLe (s.rows core) (d.region 12).first 0 8 then t else t.checkFault core x idx d [core]
      | 1 =>
        let t := s.issue core x d { f with waits := true } errors
        t.inject (t.station core) (t.station (d.fld 5 2 0)) (.digest (d.fld 5 2 0) d.slot (s.checkDigest core x f) core idx)
      | 2 => (s.issue core x d { f with waits := true } errors).takeDigest core idx
      | _ =>
        let m := (x.img.stream core).getD (d.fld 16 31 0) 0
        (s.issue core x d { f with writes := (runMatmul m x.q.batch (s.rows core)).writes, waits := true } errors).takeDigest core idx

def execCheckCompare (core : Nat) (errors : List RowError) (s : State) : Result := .next (s.coreDone (s.runCheck core 0 errors))
def execCheckSend (core : Nat) (errors : List RowError) (s : State) : Result := .next (s.coreDone (s.runCheck core 1 errors))
def execCheckReceive (core : Nat) (errors : List RowError) (s : State) : Result := .next (s.coreDone (s.runCheck core 2 errors))
def execCheckShadow (core : Nat) (errors : List RowError) (s : State) : Result := .next (s.coreDone (s.runCheck core 3 errors))

/-- Whether a landed message is the digest for a slot of a core. -/
def Msg.isDigest (core slot : Nat) : Msg → Bool
  | .digest d sl _ _ _ => d == core && sl == slot
  | _ => false

/-- A digest lands in an empty slot: its SEND completes, and a RECEIVE or SHADOW that waits for it takes it and completes (R91, R152). -/
def State.fillSlot (s : State) (core slot : Nat) : State :=
  if AList.has (s.lc core).slots slot then s
  else match s.rope.takeLanded (Msg.isDigest core slot) with
    | some (.digest _ _ value frm desc, r) =>
      let t := ({ s with rope := r } : State).modLc core (fun l => { l with slots := l.slots.set slot (frm * 2 ^ 64 + value) })
      let u := t.finishDesc frm desc
      match (u.lc core).seqr.bind (fun q => q.inflight.find? (fun f => isTake f.desc && f.waits && f.desc.slot == slot)) with
      | some f => (u.takeDigest core f.idx).finishDesc core f.idx
      | none => u
    | _ => s

def execDigestSlotFill (core slot : Nat) (s : State) : Result := .next (s.coreDone (s.fillSlot core slot))

/- Belay. -/

/-- The counter of a token on a core (R148). -/
def Running.counter (x : Running) (core token : Nat) : Nat := AList.getD x.img.counterOf (core * 65536 + token) 0

/-- A WAIT in flight that its counter satisfies takes its count and completes (R150). -/
def State.tryWait (s : State) (core idx : Nat) : State :=
  match s.current core, s.flight core idx with
  | some x, some f =>
    let k := x.counter core (f.desc.fld 6 15 0)
    let have' := AList.getD (s.lc core).counters k 0
    if have' < f.desc.fld 9 7 0 then s
    else (s.modLc core (fun l => { l with counters := AList.count l.counters k (have' - f.desc.fld 9 7 0) })).finishDesc core idx
  | _, _ => s

/-- A POST sends one increment to each target in ascending order, and completes (R149). -/
def State.runPost (s : State) (core : Nat) : State :=
  match s.issuing core isPost with
  | none => s
  | some (x, d) =>
    let t := (bitsSet (d.fld 8 7 0)).foldl (fun (u : State) (k : Nat) =>
      if k = core then u.landMsg (.belay k (d.fld 6 15 0) x.n) else u.inject (u.station core) (u.station k) (.belay k (d.fld 6 15 0) x.n)) s
    t.issueDone core x d

def State.runWait (s : State) (core : Nat) : State :=
  match s.issuing core isWait with
  | none => s
  | some (x, d) => (s.issue core x d { InFlight.plain x.q.idx d [] with waits := true } []).tryWait core x.q.idx

def execBelayPost (core : Nat) (s : State) : Result := .next (s.coreDone (s.runPost core))
def execBelayWait (core : Nat) (s : State) : Result := .next (s.coreDone (s.runWait core))

/-- Whether a message is an increment for a core of a token that has a source (R141). -/
def Msg.isBelay (img : Image) (core : Nat) (source : Option Nat) : Msg → Bool
  | .belay d t _ => d == core && (img.tokens.find? (fun e => e.token == t)).map (·.source) == source
  | _ => false

/-- Token of an increment. -/
def Msg.token : Msg → Option Nat
  | .belay _ t _ => some t
  | _ => none

/-- The source of a token in an image; F1's token 0 has none. -/
def Image.sourceOf (img : Image) (token : Nat) : Option Nat := (img.tokens.find? (fun e => e.token == token)).map (·.source)

/-- An increment lands: token 0 starts the core's stream, any other raises its counter and may end a WAIT (R149 to R151). Increments from
one source to one target land in issue order: one that an earlier increment of its source precedes does not land yet (R113, R149). -/
def State.belayLands (s : State) (core token : Nat) : State :=
  match s.current core with
  | none => s
  | some x => match s.rope.takeLanded (Msg.isBelay x.img core (x.img.sourceOf token)) with
  | none => s
  | some (m, r) =>
    let t : State := { s with rope := r }
    if m.token ≠ some token then s
    else if token = 0 then t.modSeq core (fun q => { q with started := true })
    else
      let k := x.counter core token
      let u := t.modLc core (fun l => { l with counters := AList.count l.counters k (AList.getD l.counters k 0 + 1) })
      match x.q.inflight.find? (fun f => isWait f.desc && f.desc.fld 6 15 0 == token) with
      | some f => u.tryWait core f.idx
      | none => u

def execBelayIncrement (core token : Nat) (s : State) : Result := .next (s.coreDone (s.belayLands core token))

/- Completion and faults. -/

/-- Whether a ring's MOVE has issued and left the window, so that every slot that the ATTN will get is filled. -/
def Seqr.ringDone (q : Seqr) (d : Desc) : Bool :=
  !q.inflight.any (fun y => y.desc.kind == 5 && y.desc.ring && y.desc.fld 20 31 0 == d.fld 20 31 0) &&
    !(q.stream.zipIdx).any (fun p => p.1.kind == 5 && p.1.ring && p.1.fld 20 31 0 == d.fld 20 31 0 && decide (q.idx ≤ p.2))

/-- Whether a descriptor in flight may complete (R74, R75, R87): an engine at any moment, a MOVE when it has moved everything, a CHECK or a
REDUCE when it waits for nothing. A WAIT completes with its increment. -/
def InFlight.mayEnd (f : InFlight) (q : Seqr) : Bool :=
  match f.desc.kind with
  | 3 => q.ringDone f.desc
  | 5 => f.moved
  | 6 => !f.waits
  | 7 => !f.waits
  | 8 => false
  | _ => true

/-- An ATTN forms its result from the slots that its ring supplied (R211). -/
def State.formAttn (s : State) (core idx : Nat) (x : Running) (d : Desc) : State :=
  let key := d.fld 20 31 0
  let o := runAttn d x.q.batch (s.rows core) (AList.getD (s.lc core).rings key [])
  ((s.modLc core (fun l => { l with rings := l.rings.erase key })).modFlight core idx (fun f => { f with writes := o.writes })).modSeq core
    (fun q => q.collect idx d o)

/-- A descriptor completes (R74, R78). -/
def State.completeDesc (s : State) (core idx : Nat) : State :=
  match s.current core, s.flight core idx with
  | some x, some f =>
    if !s.running || (s.carrier core).isNone || (s.scratch core).halted || !f.mayEnd x.q then s
    else
      let t := if f.desc.kind = 3 then s.formAttn core idx x f.desc else s
      (t.finishDesc core idx).wakeAll
  | _, _ => s

def execDescriptorComplete (core index : Nat) (s : State) : Result := .next (s.coreDone (s.completeDesc core index))

/-- A sequencer whose descriptors in flight have completed reports its fault, and F1 stops the other cores of the step (R77). -/
def State.reportFault (s : State) (core : Nat) : State :=
  match s.current core with
  | none => s
  | some x =>
    match x.q.fault with
    | none => s
    | some f => if s.running && !s.coreOut 1 && x.r.stage == .running && s.drained core then s.faultStep x.n f else s

def execFaultReport (core : Nat) (s : State) : Result := .next (s.coreDone (s.reportFault core))

/-- Operations that wait on nothing outside the core (R441). -/
def InFlight.internal (f : InFlight) : Bool :=
  f.desc.kind == 1 || f.desc.kind == 2 || f.desc.kind == 4 || (f.desc.kind == 7 && !f.waits)

/-- A unit has held an operation too long: the core is stopped, its step faults in class CORE, and F1 asks for the spare (R441, R442). -/
def State.stopCore (s : State) (core : Nat) : State :=
  match s.current core, s.carrier core with
  | some x, some p =>
    match x.q.inflight.find? InFlight.internal with
    | none => s
    | some f =>
      if !s.running || (s.pcr p).halted then s
      else
        let now := s.boot.timer
        let t := s.modPc p (fun c => { c with halted := true, coreFaults := lastDay c.coreFaults now ++ [now] })
        (t.raise core (descFault core f.idx f.desc 5 stCoreFail)).orderSpare core p 3
  | _, _ => s

def execCoreStopTimeout (core : Nat) (s : State) : Result := .next (s.coreDone (s.stopCore core))

end Sys2Proof.Machine
end

