-- ==== Sys2Proof/Machine/RopeRows.lean ====
section
/-!
DEFINITION. Machine/RopeRows.lean: flits and credits of the Rope (R111 to R113), the collective engine (R119 to R125), and the done latches
(R126).
-/
namespace Sys2Proof.Machine

/- Flits. -/

/-- Whether a station may inject: a core's station that only forwards injects nothing (R96, R113). -/
def State.mayInject (s : State) (st : Nat) : Bool :=
  match stationPcore st with
  | some p => !(s.pcr p).forwardOnly
  | none => true

/-- The REDUCE of a core's stream that takes part in a collective of a step. -/
def State.reduceOf (s : State) (n coll core : Nat) : Option Desc :=
  ((s.step? n).bind (fun r => s.images.imgs.get? r.handle)).bind (fun (i : Image) =>
    (i.stream core).find? (fun d => d.kind == 6 && d.collId == coll))

/-- Flit of DST_REG at which a participant places flit i of a core's contribution (R122, R123). -/
def Desc.placeOf (d : Desc) (frm i : Nat) : Nat :=
  if d.collOp = 1 then (d.members.filter (fun c => decide (c < frm))).length * d.collFlits + i else i

/-- The logical core at a station that takes a copy of a contribution as it passes (R119). -/
def State.passing (s : State) (st : Nat) (m : Msg) : Option (Nat × Desc × Nat × Nat × Nat × Bytes) :=
  match m with
  | .contrib n coll frm i b taken =>
    match (stationPcore st).bind s.carried, s.reduceOf n coll frm with
    | some c, some d =>
      if d.collOp != 0 && c != frm && d.members.contains c && !taken.contains c then some (c, d, n, frm, i, b) else none
    | _, _ => none
  | _ => none

/-- A participant's copy of a passing contribution lands, and the flit goes on as taken (R119). -/
def State.copyPassing (s : State) (st : Nat) (f : Flit) : State × Flit :=
  match s.passing st f.msg with
  | none => (s, f)
  | some (c, d, n, frm, i, b) =>
    (s.landMsg (.result n d.collId c frm (d.placeOf frm i) b 0#8),
      { f with msg := match f.msg with
          | .contrib a q k r x t => .contrib a q k r x (t ++ [c])
          | x => x })

/-- One event of a station's lane: a flit lands, goes on, or is injected, when the next buffer has room (R29, R111, R112). -/
def State.transfer (s : State) (st : Nat) (asc ringB : Bool) (c : Chan) : State :=
  let k := laneKey st asc ringB c
  let inj := s.mayInject st
  match (s.rope.buf k).head? with
  | some f =>
    if f.dst = st then
      if s.canLand f.msg then (s.modRope (fun r => r.leave st asc ringB c)).arrive f.msg
      else match (if inj && s.rope.credit k c then (s.rope.waiting k).head? else none) with
        | some g => s.modRope (fun r => r.move st asc ringB c g true)
        | none => s
    else match s.rope.grant st asc ringB c inj with
      | some (g, true) => s.modRope (fun r => r.move st asc ringB c g true)
      | some (g, false) =>
        let q := s.copyPassing st g
        q.1.modRope (fun r => r.move st asc ringB c q.2 false)
      | none => s
  | none =>
    match s.rope.grant st asc ringB c inj with
    | some (g, own) => s.modRope (fun r => r.move st asc ringB c g own)
    | none => s

def execRopeFlitTransfer (station : Nat) (ascending ringB : Bool) (chan : Chan) (s : State) : Result :=
  .next (if s.running ∧ station < 11 then s.coreDone (s.transfer station ascending ringB chan) else s)

/-- A credit that is on its way reaches the station that sent the flit (R112). -/
def State.creditBack (s : State) (st : Nat) (asc ringB : Bool) (c : Chan) : State :=
  let k := laneKey st asc ringB c
  if AList.getD s.rope.returning k 0 = 0 then s
  else s.modRope (fun r =>
    { r with returning := AList.count r.returning k (AList.getD r.returning k 0 - 1)
             used := AList.count r.used k (AList.getD r.used k 0 - 1) })

def execRopeCreditReturn (station : Nat) (ascending ringB : Bool) (chan : Chan) (s : State) : Result :=
  .next (if s.running ∧ station < 11 then s.coreRow (s.creditBack station ascending ringB chan) else s)

/- The collector. -/

/-- COLL_IDs of a step's collectives with several participants. -/
def Image.collIds (i : Image) : List Nat :=
  (i.cores.flatMap (fun c => ((i.stream c).filter (fun d => d.kind == 6 && decide (1 < d.members.length))).map Desc.collId)).dedup

def Coll.slot? (c : Coll) (n coll : Nat) : Option CollSlot := c.slots.find? (fun x => x.step == n && x.coll == coll)
def Coll.modSlot (c : Coll) (n coll : Nat) (f : CollSlot → CollSlot) : Coll :=
  { c with slots := c.slots.map (fun x => if x.step = n ∧ x.coll = coll then f x else x) }
def Coll.wasGranted (c : Coll) (n coll : Nat) : Bool := (AList.getD c.granted n []).contains coll

/-- Step and collective of a message for the collector. -/
def Msg.collKey : Msg → Option (Nat × Nat)
  | .contrib n c _ _ _ _ => some (n, c)
  | .report n c _ => some (n, c)
  | _ => none

/-- Whether a collective is the next of its step to get a slot: all of lower COLL_ID have had one (R120). -/
def State.nextColl (s : State) (n coll : Nat) : Bool :=
  !s.coll.wasGranted n coll &&
    (((s.step? n).bind (fun r => s.images.imgs.get? r.handle)).any (fun (i : Image) =>
      i.collIds.all (fun k => decide (coll ≤ k) || s.coll.wasGranted n k)))

/-- The steps whose next collective waits for a slot (R120). -/
def State.slotSteps (s : State) : List Nat :=
  ((s.rope.landed.filterMap Msg.collKey).filterMap (fun k => if s.nextColl k.1 k.2 then some k.1 else none)).dedup

/-- Whether a step is granted the next slot: in rotation, and with no more than two slots while another step waits (R120). -/
def State.slotTurn (s : State) (n : Nat) : Bool :=
  let w := s.slotSteps
  let able := if w.length ≤ 1 then w else w.filter (fun k => decide ((s.openSlots.filter (fun x => x.step == k)).length < 2))
  let dist (k : Nat) : Nat := if s.coll.turn < k then k - s.coll.turn else k + s.steps.next + 1
  able.contains n && able.all (fun k => decide (dist n ≤ dist k)) && decide (s.openSlots.length < 4)

/-- Whether a message's collective holds a slot or can be given one. -/
def State.slotReady (s : State) (n coll : Nat) : Bool := (s.coll.slot? n coll).isSome || (s.nextColl n coll && s.slotTurn n)

/-- Gives a collective its slot when it has none. -/
def State.takeCollSlot (s : State) (n coll core : Nat) : State :=
  if (s.coll.slot? n coll).isSome then s
  else match s.reduceOf n coll core with
    | none => s
    | some d =>
      let x : CollSlot := { step := n, coll := coll, op := d.collOp, fmt := d.fld 5 3 0, members := d.members, rows := d.collRows,
                            contribs := [], formed := 0, reports := [] }
      { s with coll :=
        { s.coll with slots := s.coll.slots ++ [x], turn := n, granted := AList.set s.coll.granted n (AList.getD s.coll.granted n [] ++ [coll]) } }

/-- Whether the collector can take a contribution now (R120): its collective holds a slot or can be given one. A collective that has ended takes
the flits that every participant took on their way. -/
def State.contribReady (s : State) (core : Nat) (m : Msg) : Bool :=
  match m with
  | .contrib n coll frm _ _ _ => frm == core && (s.coll.wasGranted n coll || s.slotReady n coll)
  | _ => false

/-- A contributor has room in the collector's buffer again: its next flit goes out (R120). -/
def State.sendNext (s : State) (core n coll : Nat) : State :=
  match s.reduceFlight core n coll with
  | none => s
  | some f =>
    match f.send with
    | [] => s
    | m :: rest => (s.modFlight core f.idx (fun y => { y with send := rest })).sendFlit core n coll m

/-- Sums every row that all participants have contributed, and sends it to each of them (R57, R121). -/
def State.formRows (s : State) (n coll : Nat) : Nat → State
  | 0 => s
  | fuel + 1 =>
    match s.coll.slot? n coll with
    | none => s
    | some x =>
      let at' := 2 * x.formed
      let held (c i : Nat) : Option Bytes := (AList.getD x.contribs c []).get? i
      let row (c : Nat) : Bytes := (held c at').getD [] ++ (held c (at' + 1)).getD []
      if x.formed < x.rows ∧ x.members.all (fun c => (held c at').isSome && (held c (at' + 1)).isSome) then
        let r := reduceRow x.fmt 0x7F800000 (x.members.map (fun c => leAt (row c) 0 512))
        let t : State := { s with coll := s.coll.modSlot n coll (fun y =>
          { y with contribs := y.contribs.map (fun p => (p.1, (p.2.erase at').erase (at' + 1))), formed := y.formed + 1 }) }
        let u := x.members.foldl (fun (v : State) (c : Nat) =>
          (((v.inject tierStation (v.station c) (.result n coll c 8 at' (rowHalf r.1 0) r.2.1)).inject tierStation (v.station c)
            (.result n coll c 8 (at' + 1) (rowHalf r.1 1) r.2.1)).sendNext c n coll).sendNext c n coll) t
        State.formRows u n coll fuel
      else s

/-- A contribution, or the result of an all-reduce (`frm` 8), fails its digest: it is asked for again once, and a second mismatch faults the step
(R124, R433). `core` reports it; receiver 8 is the collector. Of what is sent again the model sends the flit that failed (notes/assumptions/31.md). -/
def State.itemFails (s : State) (n coll recv frm core : Nat) (again : State → State) : State :=
  if s.coll.retried.contains (n, coll, recv, frm) then
    let t : State := { s with coll := { s.coll with failCnt := satUp s.coll.failCnt } }
    match t.current core with
    | none => t
    | some x =>
      match x.q.inflight.find? (fun f => f.desc.kind == 6 && f.desc.collId == coll) with
      | none => t
      | some f =>
        let sender := if frm = 8 then core else frm
        (t.logMismatch x f.idx f.desc sender core 1 0 coll).checkFault core x f.idx f.desc [sender, core]
  else
    again { s with coll := { s.coll with retried := s.coll.retried ++ [(n, coll, recv, frm)], retryCnt := satUp s.coll.retryCnt } }

/-- The collector takes a contribution (R119 to R124). -/
def State.takeContrib (s : State) (core : Nat) (corrupt : Bool) : State :=
  match s.rope.takeLanded (s.contribReady core) with
  | some (.contrib n coll frm i b taken, r) =>
    let t := ({ s with rope := r } : State)
    if (s.coll.slot? n coll).isNone && s.coll.wasGranted n coll then t
    else
      let t := t.takeCollSlot n coll frm
      match t.coll.slot? n coll, t.reduceOf n coll frm with
      | some x, some d =>
        if x.op = 0 then
          if corrupt then
            t.itemFails n coll 8 frm frm (fun u => u.inject (u.station frm) tierStation (.contrib n coll frm i b taken))
          else
            let u : State := { t with coll := t.coll.modSlot n coll (fun y =>
              { y with contribs := AList.set y.contribs frm (AList.set (AList.getD y.contribs frm []) i b) }) }
            u.formRows n coll 33
        else
          ((x.members.filter (fun c => c != frm && !taken.contains c)).foldl (fun (u : State) (c : Nat) =>
            u.inject tierStation (u.station c) (.result n coll c frm (d.placeOf frm i) b 0#8)) t).sendNext frm n coll
      | _, _ => t
  | _ => s

def execCollectiveContribution (core : Nat) (corrupt : Bool) (s : State) : Result :=
  .next (if s.running then s.coreDone (s.takeContrib core corrupt) else s)

def State.resultReady (s : State) (core : Nat) (m : Msg) : Bool :=
  match m with
  | .result n coll dst _ _ _ _ => dst == core && (s.reduceFlight core n coll).isSome
  | _ => false

/-- The values of a result row that an all-reduce in FP32 or BF16 compares (R94, R95). -/
def rowValues (fmt : Nat) (b : Bytes) : List FVal :=
  let x := leAt b 0 512
  (List.range (elemsPerRow fmt)).map (fun i => decodeElem fmt (x / 2 ^ (fmtWidth fmt * i) % 2 ^ fmtWidth fmt))

/-- What a result row leaves with its receiver beside its bytes: the flags of its sum and those of its check. -/
def rowOut (d : Desc) (row : Nat) (b : Bytes) (flags : Flags) : EngineOut :=
  if d.collOp = 0 ∧ d.fld 5 3 0 ≠ 8 then
    let vs := rowValues (d.fld 5 3 0) b
    { writes := [], flags := flags ||| tileFlags d.rangeBound vs, tiles := [(row, tileMax vs)] }
  else { writes := [], flags := flags, tiles := [] }

/-- A flit lands in a row of DST_REG: the row is written when both its halves are there (R104, R111). -/
def State.placeHalf (s : State) (core : Nat) (f : InFlight) (place : Nat) (b : Bytes) (flags : Flags) : State :=
  let other := place / 2 * 2 + 1 - place % 2
  match f.halves.get? other with
  | none => s.modFlight core f.idx (fun y => { y with halves := y.halves.set place b })
  | some c =>
    let row := if place % 2 = 0 then b ++ c else c ++ b
    ((s.modScratch core (fun p => p.writeRow ((f.desc.region 20).first + place / 2) row)).modFlight core f.idx (fun y =>
      { y with halves := y.halves.erase other })).modSeq core (fun q => q.collect f.idx f.desc (rowOut f.desc (place / 2) row flags))

/-- A participant takes a flit (R122, R124, R125). -/
def State.takeResult (s : State) (core : Nat) (corrupt : Bool) : State :=
  match s.rope.takeLanded (s.resultReady core) with
  | some (.result n coll dst frm place b flags, r) =>
    let t : State := { s with rope := r }
    match t.reduceFlight core n coll with
    | none => t
    | some f =>
      if corrupt then
        t.itemFails n coll core frm core (fun u => u.inject tierStation (u.station core) (.result n coll dst frm place b flags))
      else
        let u := (t.placeHalf core f place b flags).modFlight core f.idx (fun y => { y with acks := y.acks - 1 })
        if f.acks ≤ 1 then u.reportColl core n coll else u
  | _ => s

def execCollectiveDelivery (core : Nat) (corrupt : Bool) (s : State) : Result :=
  .next (if s.running then s.coreDone (s.takeResult core corrupt) else s)

def State.reportReady (s : State) (core : Nat) (m : Msg) : Bool :=
  match m with
  | .report n coll frm => frm == core && s.slotReady n coll
  | _ => false

/-- A participant's report reaches the collector; when every one is in, the done flits leave (R120, R125). -/
def State.takeReport (s : State) (core : Nat) : State :=
  match s.rope.takeLanded (s.reportReady core) with
  | some (.report n coll frm, r) =>
    let t := ({ s with rope := r } : State).takeCollSlot n coll frm
    match t.coll.slot? n coll with
    | none => t
    | some x =>
      let reports := x.reports ++ [frm]
      if x.members.all reports.contains then
        let u : State := { t with coll := { t.coll with slots := t.coll.slots.filter (fun y => !(y.step == n && y.coll == coll)) } }
        x.members.foldl (fun (v : State) (c : Nat) => v.inject tierStation (v.station c) (.done n coll c)) u
      else { t with coll := t.coll.modSlot n coll (fun y => { y with reports := reports }) }
  | _ => s

def execCollectiveCheckReport (core : Nat) (s : State) : Result := .next (if s.running then s.coreDone (s.takeReport core) else s)

def Msg.isDone (core : Nat) : Msg → Bool
  | .done _ _ d => d == core
  | _ => false

/-- A done flit lands: the participant's REDUCE completes (R125). -/
def State.collDone (s : State) (core : Nat) : State :=
  match s.rope.takeLanded (Msg.isDone core) with
  | some (.done n coll _, r) =>
    let t : State := { s with rope := r }
    match t.reduceFlight core n coll with
    | some f => t.finishDesc core f.idx
    | none => t
  | _ => s

def execCollectiveDone (core : Nat) (s : State) : Result := .next (if s.running then s.coreDone (s.collDone core) else s)

/- Done latches. -/

def Msg.isStepDone (core : Nat) : Msg → Bool
  | .stepDone _ f _ => f == core
  | _ => false

/-- A step-done report sets its core's latch; when all are set, the collector forms the OR of the flag words and signals F1 (R126). -/
def State.latchDone (s : State) (core : Nat) : State :=
  match s.rope.takeLanded (Msg.isStepDone core) with
  | some (.stepDone n frm flags, r) =>
    match AList.get? s.coll.latches n with
    | none => { s with rope := r }
    | some l =>
      let l2 : Latch := { l with set := l.set ++ [frm], flags := l.flags ||| flags }
      { s with rope := r
               coll := { s.coll with
                 latches := AList.set s.coll.latches n l2
                 ready := if l2.cores.all l2.set.contains then s.coll.ready ++ [n] else s.coll.ready } }
  | _ => s

def execStepDoneReport (core : Nat) (s : State) : Result := .next (if s.running then s.coreDone (s.latchDone core) else s)

end Sys2Proof.Machine
end

