-- ==== Sys2Proof/Machine/StepRows.lean ====
section
/-!
DEFINITION. Machine/StepRows.lean: the events by which F1 dispatches, starts and commits steps (R24, R151, R158, R21), and the answers of host
reads (R118, R358).
-/
namespace Sys2Proof.Machine

/-- STEP_DISPATCH (R158): `paced` tells that the governor's pacing lets the step go now (R453). -/
def execStepDispatch (step : Nat) (paced : Bool) (s : State) : Result := .next (s.coreDone (s.dispatchStep step paced))

/-- START_TOKEN_POST (R151). -/
def execStartTokenPost (step : Nat) (s : State) : Result := .next (s.coreDone (s.postStart step))

/-- STEP_COMMIT (R21); it changes streams as well. -/
def execStepCommit (step : Nat) (s : State) : Result :=
  .next { s.coreRow (s.commitStep step).settleFaults with strms := s.commitStrms step }

/-- HOST_READ_COMPLETION (R118). -/
def execHostReadCompletion (tag : Nat) (data : Bytes) (s : State) : Result :=
  .next (if s.linkOpen then s.coreDone (s.hostReadDone tag (.ok data)) else s)

/-- DMA_READ_TIMEOUT (R358): `poisoned` tells a poisoned or refused completion from an expiry. -/
def execDmaReadTimeout (tag : Nat) (poisoned : Bool) (s : State) : Result :=
  .next (s.coreDone (s.hostReadDone tag (if poisoned then .poisoned else .expired)))

end Sys2Proof.Machine
end

