-- ==== Sys2Proof/Machine/TierRows.lean ====
section
/-!
DEFINITION. Machine/TierRows.lean: what the tier engine ends by itself: promotions, evictions ahead of need, demotions and the zeroing of frames
(R230 to R236, R241 to R244, R258 to R260, R264, R386).
-/
namespace Sys2Proof.Machine

/- Promotions. -/

/-- The MOVEs of a context whose next piece waits for a tile, as (core, descriptor index, descriptor). -/
def State.waiters (s : State) (ctx seg tile : Nat) : List (Nat × Nat × Desc) :=
  (List.range 8).flatMap (fun c =>
    match s.current c with
    | none => []
    | some x =>
      if x.r.ctx ≠ ctx then []
      else (x.q.inflight.filter (fun f => f.move.any (fun m => m.pieces.head?.any (fun p => p.tile == some (seg, tile))))).map
        (fun f => (c, f.idx, f.desc)))

/-- Faults the steps that wait for a tile (R242, R243). -/
def State.failWaiters (s : State) (ctx seg tile cls status : Nat) : State :=
  (s.waiters ctx seg tile).foldl (fun (t : State) w => t.failMove w.1 w.2.1 w.2.2 cls status) s

def State.endPromo (s : State) (ctx seg tile : Nat) : State :=
  { s with tier := { s.tier with promos := s.tier.promos.filter (fun p => p != (ctx, seg, tile)) } }

/-- A MODEL tile has failed on its way from flash: the copy is discarded and the steps that wait for it fault; the object is DAMAGED when the
master cannot be read, or fails its digest for the second time (R242, R243). -/
def State.weightFailed (s : State) (ctx seg tile handle : Nat) (t : Tile) (readable : Bool) : State :=
  let n := if readable then t.fails + 1 else 2
  let u := ((s.reportFrame t).leave ctx seg tile t).modTile ctx seg tile (fun x => { x with fails := n })
  if n < 2 then u.failWaiters ctx seg tile 7 0x9C else (u.damageModel handle).failWaiters ctx seg tile 7 0x6F

/-- Blocks of a demoted tile that fail their check (R264). -/
def State.badBlocks (s : State) (g : Seg) (tile : Nat) (t : Tile) : Nat :=
  let raw := s.flash.readPages (s.lpage g tile) 4
  (t.index.filter (fun ix => !(talusDecode ((raw.drop (ix.offset * 64 - tile * tileBytes)).take (ix.len64 * 64)) ix.raw ix.crc).2)).length

/-- The only copy of a demoted tile is lost (R244). -/
def State.spillLost (s : State) (ctx seg tile : Nat) : State :=
  (s.modTile ctx seg tile (fun x => { x with st := .poisoned, dirty := true })).lostTile ctx seg tile

/-- Failed Talus blocks are counted (R264). -/
def State.countTalus (s : State) (n : Nat) : State :=
  ({ s with cmp := { s.cmp with talusFail := satPlus s.cmp.talusFail n } } : State).cmpEvent 3

/-- The data of a promotion has arrived: the tile is UPPER and clean, or leaves when its eviction is pending (R230, R232). -/
def State.promoted (s : State) (ctx seg tile : Nat) (t : Tile) (b : Bytes) : State :=
  ((s.writeTileAt t 0 b).modTile ctx seg tile (fun x =>
    { x with st := if x.st = .evictPending then .evictPending else .upper, dirty := false, fails := 0 })).settleEvict ctx seg tile

/-- A promotion ends (R230, R234, R242 to R244, R254, R260, R264). `bad` lists the codewords of the tile's flash pages that failed the whole ladder,
as (page, codeword) (R314). -/
def State.promoteDone (s : State) (ctx seg tile : Nat) (bad : List (Nat × Nat)) : State :=
  match s.tier.ghosts.find? (fun g => g.ctx == ctx && g.seg == seg && g.tile == tile) with
  | some g => if s.running then (s.endGhost g).wakeAll else s
  | none =>
  if !s.running || !s.tier.promos.contains (ctx, seg, tile) then s
  else
    match s.seg ctx seg, s.tile ctx seg tile with
    | some g, some t =>
      let words := bad.dedup.filter (fun w => decide (w.1 < 4) && decide (w.2 < 8))
      let s1 := (s.endPromo ctx seg tile).lostPages ((words.map (fun w => s.lpage g tile + w.1)).dedup) words.length
      let readable := words.isEmpty && !s.masterLost g tile
      let b := s.lowerBytes ctx seg g tile t
      let u :=
        if g.kind = .model then
          (if readable && s.digestOk g tile t b then s1.promoted ctx seg tile t b else s1.weightFailed ctx seg tile g.handle t readable)
        else if !readable then s1.spillLost ctx seg tile
        else if s.badBlocks g tile t ≠ 0 then (s1.countTalus (s.badBlocks g tile t)).spillLost ctx seg tile
        else s1.promoted ctx seg tile t b
      u.wakeAll
    | _, _ => s.endPromo ctx seg tile

def execPromotionComplete (ctx seg tile : Nat) (bad : List (Nat × Nat)) (s : State) : Result :=
  .next (s.coreDone (s.promoteDone ctx seg tile bad))

/- Evictions and demotions. -/

/-- The tier engine evicts ahead of need (R235). -/
def State.evictMore (s : State) (ctx : Nat) : State :=
  if s.f2Runs && (s.ctx ctx).isSome && decide (s.freeSlots ctx < 64) then (s.clockEvict ctx).getD s else s

def execEvictAhead (ctx : Nat) (s : State) : Result := .next (s.coreDone (s.evictMore ctx))

def State.endDemo (s : State) (ctx seg tile : Nat) : State :=
  { s with tier := { s.tier with demos := s.tier.demos.filter (fun p => p != (ctx, seg, tile)) } }

/-- The spill program of a demotion completes: the index entries are written and the tile is LOWER (R230, R236, R260). A worn array takes no
demotion, so the tile stays in DRAM (R320). -/
def State.demoteDone (s : State) (ctx seg tile : Nat) : State :=
  if !s.running || !s.tier.demos.contains (ctx, seg, tile) then s
  else
    let s1 := s.endDemo ctx seg tile
    match s.seg ctx seg, s.tile ctx seg tile with
    | some g, some t =>
      if t.st ≠ .demoting then s1
      else if s.worn then (s1.modTile ctx seg tile (fun x => { x with st := .upper })).wakeAll
      else match s.dram.readFrame t.frame t.off tileBytes with
        | none => (s1.copyLost ctx seg tile).1.wakeAll
        | some b =>
          if !s.flash.pulses then s
          else
            let p := packTile tile g.prot (closeWith (s.tileKeys ctx seg g tile) b)
            match s.flash.writeTile .spill (s.lpage g tile) p.1 with
            | none => s
            | some f =>
              let u := ({ s1 with flash := f } : State).settleSpares s.flash.spares
              ((u.modTile ctx seg tile (fun x => { x with index := p.2 })).leave ctx seg tile t).wakeAll
    | _, _ => s1

def execDemotionComplete (ctx seg tile : Nat) (s : State) : Result := .next (s.coreDone (s.demoteDone ctx seg tile))

/- Zeroed frames. -/

/-- A SEG_MAP of DRAM segments completes once every frame that it took is zero (R241). -/
def State.mapDone (s : State) (ctx seg : Nat) : State :=
  match s.cmds.list.find? (fun c => c.stage == .running && c.opcode == 0x18 && c.ctx == some ctx && decide (c.fld 8 4 ≤ seg) &&
      decide (seg < c.fld 8 4 + c.fld 12 4)) with
  | none => s
  | some c =>
    if s.tier.frames.any (fun f => match f.2 with
        | .zeroing (some (x, g)) => x == ctx && decide (c.fld 8 4 ≤ g) && decide (g < c.fld 8 4 + c.fld 12 4)
        | _ => false) then s
    else s.answer c stOk

/-- F2 has zeroed a frame: it joins the free pool, passes to the context that claims it, or belongs to the segment that waits for it (R226, R227, R241,
R291, R386). -/
def State.frameZero (s : State) (f : Nat) : State :=
  if !s.f2Runs then s
  else match s.tier.frames.get? f with
    | some (.zeroing none) =>
      let t : State := { s with dram := s.dram.zeroFrame f 0 frameBytes }
      (match s.tier.claims.get? f with
        | some c => ({ t with tier := { t.tier with claims := t.tier.claims.erase f } } : State).setFrame f (.kept c)
        | none => (t.freeFrame f).retireStep (f / groupFrames)).wakeAll
    | some (.zeroing (some (c, g))) => (s.setFrame f (.segment c g)).mapDone c g
    | _ => s

def execFrameZeroed (frame : Nat) (s : State) : Result := .next (s.coreDone (s.frameZero frame))

end Sys2Proof.Machine
end

