-- ==== Sys2Proof/Machine/Dispatch.lean ====
section
/-!
DEFINITION. Machine/Dispatch.lean: one arm per event of the opcode table.
-/
namespace Sys2Proof.Machine

def exec (i : Instr) (s : State) : Host.Outcome State Fault Refusal :=
  match i with
  | .powerOn => Sys2Proof.Machine.execPowerOn s
  | .sidebandReset => Sys2Proof.Machine.execSidebandReset s
  | .bootRomStart => Sys2Proof.Machine.execBootRomStart s
  | .bootComplete fspOk rate csPasses => Sys2Proof.Machine.execBootComplete fspOk rate csPasses s
  | .fwRecoveryGo image => Sys2Proof.Machine.execFwRecoveryGo image s
  | .brownoutWarning => Sys2Proof.Machine.execBrownoutWarning s
  | .thermalTrip => Sys2Proof.Machine.execThermalTrip s
  | .bivouacRequest => Sys2Proof.Machine.execBivouacRequest s
  | .bivouacEntryComplete => Sys2Proof.Machine.execBivouacEntryComplete s
  | .wake => Sys2Proof.Machine.execWake s
  | .wakeComplete => Sys2Proof.Machine.execWakeComplete s
  | .functionLevelReset func => Sys2Proof.Machine.execFunctionLevelReset func s
  | .vfDisable func => Sys2Proof.Machine.execVfDisable func s
  | .laneFailure module => Sys2Proof.Machine.execLaneFailure module s
  | .moduleRetrainDone module lanes rate => Sys2Proof.Machine.execModuleRetrainDone module lanes rate s
  | .ideIntegrityFail => Sys2Proof.Machine.execIdeIntegrityFail s
  | .spdmGetCertificate request => Sys2Proof.Machine.execSpdmGetCertificate request s
  | .spdmChallenge request => Sys2Proof.Machine.execSpdmChallenge request s
  | .spdmGetMeasurements request => Sys2Proof.Machine.execSpdmGetMeasurements request s
  | .spdmKeyExchange request => Sys2Proof.Machine.execSpdmKeyExchange request s
  | .spdmPskExchange request => Sys2Proof.Machine.execSpdmPskExchange request s
  | .ideKm message => Sys2Proof.Machine.execIdeKm message s
  | .unsupportedRequest func addr => Sys2Proof.Machine.execUnsupportedRequest func addr s
  | .doorbellSqTail func off size data => Sys2Proof.Machine.execDoorbellSqTail func off size data s
  | .doorbellCqHead func off size data => Sys2Proof.Machine.execDoorbellCqHead func off size data s
  | .controlWindowWrite func off size data => Sys2Proof.Machine.execControlWindowWrite func off size data s
  | .controlWindowRead func off size => Sys2Proof.Machine.execControlWindowRead func off size s
  | .registerWrite => Sys2Proof.Machine.execRegisterWrite s
  | .adminSqTail => Sys2Proof.Machine.execAdminSqTail s
  | .adminCqHead => Sys2Proof.Machine.execAdminCqHead s
  | .adminQueueEnable => Sys2Proof.Machine.execAdminQueueEnable s
  | .adminQueueDisable => Sys2Proof.Machine.execAdminQueueDisable s
  | .spareSwitchRequest => Sys2Proof.Machine.execSpareSwitchRequest s
  | .dramTrainRequest => Sys2Proof.Machine.execDramTrainRequest s
  | .dramRetireRequest => Sys2Proof.Machine.execDramRetireRequest s
  | .commandFetch entry => Sys2Proof.Machine.execCommandFetch entry s
  | .invalidOpcode fid => Sys2Proof.Machine.execInvalidOpcode fid s
  | .commandTakesEffect fid => Sys2Proof.Machine.execCommandTakesEffect fid s
  | .submitStep fid tokens => Sys2Proof.Machine.execSubmitStep fid tokens s
  | .schedLoad fid image => Sys2Proof.Machine.execSchedLoad fid image s
  | .schedUnload fid => Sys2Proof.Machine.execSchedUnload fid s
  | .streamOpen fid => Sys2Proof.Machine.execStreamOpen fid s
  | .streamPause fid => Sys2Proof.Machine.execStreamPause fid s
  | .streamResume fid => Sys2Proof.Machine.execStreamResume fid s
  | .streamReset fid => Sys2Proof.Machine.execStreamReset fid s
  | .streamClose fid => Sys2Proof.Machine.execStreamClose fid s
  | .streamQuery fid => Sys2Proof.Machine.execStreamQuery fid s
  | .kvPoolCreate fid => Sys2Proof.Machine.execKvPoolCreate fid s
  | .kvPoolDestroy fid => Sys2Proof.Machine.execKvPoolDestroy fid s
  | .kvSeqOpen fid => Sys2Proof.Machine.execKvSeqOpen fid s
  | .kvSeqFork fid => Sys2Proof.Machine.execKvSeqFork fid s
  | .kvSeqTruncate fid => Sys2Proof.Machine.execKvSeqTruncate fid s
  | .kvSeqClose fid => Sys2Proof.Machine.execKvSeqClose fid s
  | .kvSeqQuery fid => Sys2Proof.Machine.execKvSeqQuery fid s
  | .segMap fid => Sys2Proof.Machine.execSegMap fid s
  | .segUnmap fid => Sys2Proof.Machine.execSegUnmap fid s
  | .segAttr fid => Sys2Proof.Machine.execSegAttr fid s
  | .segQuery fid => Sys2Proof.Machine.execSegQuery fid s
  | .modelInstall fid container => Sys2Proof.Machine.execModelInstall fid container s
  | .modelAttach fid => Sys2Proof.Machine.execModelAttach fid s
  | .modelDetach fid => Sys2Proof.Machine.execModelDetach fid s
  | .modelRemove fid => Sys2Proof.Machine.execModelRemove fid s
  | .modelQuery fid => Sys2Proof.Machine.execModelQuery fid s
  | .windowOpen fid => Sys2Proof.Machine.execWindowOpen fid s
  | .windowClose fid => Sys2Proof.Machine.execWindowClose fid s
  | .ctxCreate fid => Sys2Proof.Machine.execCtxCreate fid s
  | .ctxReset fid => Sys2Proof.Machine.execCtxReset fid s
  | .ctxDestroy fid => Sys2Proof.Machine.execCtxDestroy fid s
  | .qpCreate fid => Sys2Proof.Machine.execQpCreate fid s
  | .qpDelete fid => Sys2Proof.Machine.execQpDelete fid s
  | .attest fid => Sys2Proof.Machine.execAttest fid s
  | .sessionOpen fid key => Sys2Proof.Machine.execSessionOpen fid key s
  | .identityGet fid => Sys2Proof.Machine.execIdentityGet fid s
  | .checkSet fid => Sys2Proof.Machine.execCheckSet fid s
  | .residentRef fid => Sys2Proof.Machine.execResidentRef fid s
  | .residentAck fid => Sys2Proof.Machine.execResidentAck fid s
  | .replayStart fid => Sys2Proof.Machine.execReplayStart fid s
  | .replayStop fid => Sys2Proof.Machine.execReplayStop fid s
  | .replayStatus fid => Sys2Proof.Machine.execReplayStatus fid s
  | .checkQuery fid => Sys2Proof.Machine.execCheckQuery fid s
  | .fwUpdate fid image => Sys2Proof.Machine.execFwUpdate fid image s
  | .fwActivate fid => Sys2Proof.Machine.execFwActivate fid s
  | .fwSvnCommit fid => Sys2Proof.Machine.execFwSvnCommit fid s
  | .cfgUpdate fid record => Sys2Proof.Machine.execCfgUpdate fid record s
  | .cfgWrite fid records => Sys2Proof.Machine.execCfgWrite fid records s
  | .logRingSet fid => Sys2Proof.Machine.execLogRingSet fid s
  | .cairnSet fid => Sys2Proof.Machine.execCairnSet fid s
  | .stepDispatch step paced => Sys2Proof.Machine.execStepDispatch step paced s
  | .startTokenPost step => Sys2Proof.Machine.execStartTokenPost step s
  | .matmul core errors => Sys2Proof.Machine.execMatmul core errors s
  | .scan core errors => Sys2Proof.Machine.execScan core errors s
  | .attn core errors => Sys2Proof.Machine.execAttn core errors s
  | .vec core errors => Sys2Proof.Machine.execVec core errors s
  | .move core errors => Sys2Proof.Machine.execMove core errors s
  | .reduceAllReduce core errors => Sys2Proof.Machine.execReduceAllReduce core errors s
  | .reduceAllGather core errors => Sys2Proof.Machine.execReduceAllGather core errors s
  | .reduceBroadcast core errors => Sys2Proof.Machine.execReduceBroadcast core errors s
  | .checkCompare core errors => Sys2Proof.Machine.execCheckCompare core errors s
  | .checkSend core errors => Sys2Proof.Machine.execCheckSend core errors s
  | .checkReceive core errors => Sys2Proof.Machine.execCheckReceive core errors s
  | .checkShadow core errors => Sys2Proof.Machine.execCheckShadow core errors s
  | .belayPost core => Sys2Proof.Machine.execBelayPost core s
  | .belayWait core => Sys2Proof.Machine.execBelayWait core s
  | .belayIncrement core token => Sys2Proof.Machine.execBelayIncrement core token s
  | .digestSlotFill core slot => Sys2Proof.Machine.execDigestSlotFill core slot s
  | .descriptorComplete core index => Sys2Proof.Machine.execDescriptorComplete core index s
  | .ropeFlitTransfer station ascending ringB chan => Sys2Proof.Machine.execRopeFlitTransfer station ascending ringB chan s
  | .ropeCreditReturn station ascending ringB chan => Sys2Proof.Machine.execRopeCreditReturn station ascending ringB chan s
  | .collectiveContribution core corrupt => Sys2Proof.Machine.execCollectiveContribution core corrupt s
  | .collectiveDelivery core corrupt => Sys2Proof.Machine.execCollectiveDelivery core corrupt s
  | .collectiveCheckReport core => Sys2Proof.Machine.execCollectiveCheckReport core s
  | .collectiveDone core => Sys2Proof.Machine.execCollectiveDone core s
  | .stepDoneReport core => Sys2Proof.Machine.execStepDoneReport core s
  | .stepCommit step => Sys2Proof.Machine.execStepCommit step s
  | .faultReport core => Sys2Proof.Machine.execFaultReport core s
  | .coreStopTimeout core => Sys2Proof.Machine.execCoreStopTimeout core s
  | .katPeriodExpiry pcore => Sys2Proof.Machine.execKatPeriodExpiry pcore s
  | .katComplete pcore passes => Sys2Proof.Machine.execKatComplete pcore passes s
  | .spareSwitch core => Sys2Proof.Machine.execSpareSwitch core s
  | .spareCopyComplete core lost => Sys2Proof.Machine.execSpareCopyComplete core lost s
  | .digestComparePeriod corrupt => Sys2Proof.Machine.execDigestComparePeriod corrupt s
  | .residentScanPeriod => Sys2Proof.Machine.execResidentScanPeriod s
  | .scrubWrite pcore row => Sys2Proof.Machine.execScrubWrite pcore row s
  | .promotionComplete ctx seg tile bad => Sys2Proof.Machine.execPromotionComplete ctx seg tile bad s
  | .evictAhead ctx => Sys2Proof.Machine.execEvictAhead ctx s
  | .demotionComplete ctx seg tile => Sys2Proof.Machine.execDemotionComplete ctx seg tile s
  | .frameZeroed frame => Sys2Proof.Machine.execFrameZeroed frame s
  | .hostReadCompletion tag data => Sys2Proof.Machine.execHostReadCompletion tag data s
  | .dmaReadTimeout tag poisoned => Sys2Proof.Machine.execDmaReadTimeout tag poisoned s
  | .dramReadRequest frame block who tag => Sys2Proof.Machine.execDramReadRequest frame block who tag s
  | .dramWriteRequest frame block who data => Sys2Proof.Machine.execDramWriteRequest frame block who data s
  | .dramReadIssue chan aged => Sys2Proof.Machine.execDramReadIssue chan aged s
  | .dramReadData chan error => Sys2Proof.Machine.execDramReadData chan error s
  | .writeDrainBurst chan aged readsIdle => Sys2Proof.Machine.execWriteDrainBurst chan aged readsIdle s
  | .pageIdleClose chan bank => Sys2Proof.Machine.execPageIdleClose chan bank s
  | .refresh chan bank rfm => Sys2Proof.Machine.execRefresh chan bank rfm s
  | .mr4Poll chan rate0 rate1 => Sys2Proof.Machine.execMr4Poll chan rate0 rate1 s
  | .neighbourRefresh chan bank row => Sys2Proof.Machine.execNeighbourRefresh chan bank row s
  | .patrolScrub error => Sys2Proof.Machine.execPatrolScrub error s
  | .retrainDue chan cause => Sys2Proof.Machine.execRetrainDue chan cause s
  | .retrainSliceStart chan => Sys2Proof.Machine.execRetrainSliceStart chan s
  | .retrainSliceEnd chan passes => Sys2Proof.Machine.execRetrainSliceEnd chan passes s
  | .rankRetire chan rank => Sys2Proof.Machine.execRankRetire chan rank s
  | .migrationFrameCopied group bad => Sys2Proof.Machine.execMigrationFrameCopied group bad s
  | .setPointChange target => Sys2Proof.Machine.execSetPointChange target s
  | .channelSwitchDone chan => Sys2Proof.Machine.execChannelSwitchDone chan s
  | .quadPowerDown chan rank quad => Sys2Proof.Machine.execQuadPowerDown chan rank quad s
  | .quadOffAck chan rank quad => Sys2Proof.Machine.execQuadOffAck chan rank quad s
  | .quadPowerUp chan rank quad => Sys2Proof.Machine.execQuadPowerUp chan rank quad s
  | .quadPowerUpDone chan rank quad => Sys2Proof.Machine.execQuadPowerUpDone chan rank quad s
  | .flashReadIssue die page tag => Sys2Proof.Machine.execFlashReadIssue die page tag s
  | .flashReadDone die plane flips => Sys2Proof.Machine.execFlashReadDone die plane flips s
  | .flashRetrySenseDone die plane flips => Sys2Proof.Machine.execFlashRetrySenseDone die plane flips s
  | .calStatisticsFull die level bin => Sys2Proof.Machine.execCalStatisticsFull die level bin s
  | .flashProgramIssue page who data => Sys2Proof.Machine.execFlashProgramIssue page who data s
  | .flashPulseEnd die plane => Sys2Proof.Machine.execFlashPulseEnd die plane s
  | .flashProgramDone die plane passes => Sys2Proof.Machine.execFlashProgramDone die plane passes s
  | .flashEraseIssue block => Sys2Proof.Machine.execFlashEraseIssue block s
  | .flashEraseDone die plane passes => Sys2Proof.Machine.execFlashEraseDone die plane passes s
  | .relocation block bad => Sys2Proof.Machine.execRelocation block bad s
  | .garbageCollection die plane bad => Sys2Proof.Machine.execGarbageCollection die plane bad s
  | .staticWearLevelling bad => Sys2Proof.Machine.execStaticWearLevelling bad s
  | .journalCheckpoint => Sys2Proof.Machine.execJournalCheckpoint s
  | .watchdogExpiry core => Sys2Proof.Machine.execWatchdogExpiry core s
  | .fwCoreRestart core => Sys2Proof.Machine.execFwCoreRestart core s
  | .fwActivateConfirm => Sys2Proof.Machine.execFwActivateConfirm s
  | .cfgRecordApply subsystem => Sys2Proof.Machine.execCfgRecordApply subsystem s
  | .logEntryDelivery => Sys2Proof.Machine.execLogEntryDelivery s
  | .cairnRecordDelivery core => Sys2Proof.Machine.execCairnRecordDelivery core s
  | .governorTick power tj => Sys2Proof.Machine.execGovernorTick power tj s
  | .powerSurgeSample power => Sys2Proof.Machine.execPowerSurgeSample power s
  | .throttleUpdate => Sys2Proof.Machine.execThrottleUpdate s
  | .stepTimeMeasure times => Sys2Proof.Machine.execStepTimeMeasure times s
  | .regulatorTelemetry milliamps => Sys2Proof.Machine.execRegulatorTelemetry milliamps s
  | .droopHold region => Sys2Proof.Machine.execDroopHold region s
  | .droopRelease region => Sys2Proof.Machine.execDroopRelease region s
  | .droopTimeout region => Sys2Proof.Machine.execDroopTimeout region s
  | .dramThermalDerate celsius => Sys2Proof.Machine.execDramThermalDerate celsius s
  | .dramThermalRestore celsius => Sys2Proof.Machine.execDramThermalRestore celsius s
  | .flashThermalPause celsius => Sys2Proof.Machine.execFlashThermalPause celsius s
  | .flashThermalResume celsius => Sys2Proof.Machine.execFlashThermalResume celsius s
  | .coreGate pcore => Sys2Proof.Machine.execCoreGate pcore s
  | .coreGateDone pcore => Sys2Proof.Machine.execCoreGateDone pcore s
  | .coreUngate pcore => Sys2Proof.Machine.execCoreUngate pcore s
  | .coreUngateDone pcore => Sys2Proof.Machine.execCoreUngateDone pcore s
  | .powerOff => Sys2Proof.Machine.execPowerOff s
  | .msixTableWrite func off size data => Sys2Proof.Machine.execMsixTableWrite func off size data s

end Sys2Proof.Machine
end

