-- ==== Sys2Proof/Machine/Idle.lean ====
section
/-!
DEFINITION. Machine/Idle.lean: what a step does when no event waits: the tile timer counts one microsecond (R394), except in OFF and in
Bivouac, where it stands still (R458), and the buckets of the capped classes fill (R145).
-/
namespace Sys2Proof.Machine

/-- One microsecond fills the bucket of a capped class by its cap in bytes, up to 50 ms of it; other classes have none (R145). -/
def State.fillBuckets (s : State) : List Int :=
  (List.range 4).map (fun k =>
    let cap : Int := (s.param 0x0303 k : Nat)
    if cap = 0 then 0 else min (s.steps.buckets.getD k 0 + cap) (50000 * cap))

/-- The moments at which the buckets last turned non-negative (R145). -/
def State.bucketMoments (s : State) : List Nat :=
  (List.range 4).map (fun k =>
    if s.steps.buckets.getD k 0 < 0 ∧ 0 ≤ s.fillBuckets.getD k 0 then s.boot.timer + 1 else s.steps.bucketSince.getD k 0)

/-- The retention clock of the flash counts whole minutes of the timer (R315). -/
def State.idle (s : State) : State :=
  if s.boot.life = .off ∨ s.boot.life = .bivouac then s
  else
    { s with
      boot := { s.boot with timer := s.boot.timer + 1 },
      steps := { s.steps with buckets := s.fillBuckets, bucketSince := s.bucketMoments },
      flash := if (s.boot.timer + 1) % 60000000 = 0 then { s.flash with clock := s.flash.clock + 1 } else s.flash }

end Sys2Proof.Machine
end

