-- ==== Sys2Proof/WellFormed.lean ====
section
/-!
DEFINITION. WellFormed.lean: the operands that a command can have: functions (R329, R330), cores and carriers (R18, R96), stations (R111),
channels, ranks, quads, banks, frames and blocks of the DRAM (R269 to R271), dies, planes, blocks and pages of the flash (R303, R304), droop
regions (R456) and scratchpad rows (R104).
-/
namespace Sys2Proof

def RowError.wf (e : RowError) : Bool := decide (e.core < 8) && decide (e.row < 49152)

/-- A page address names a block of its plane: block numbers of 144 and above stand for nothing (R304). -/
def pageWf (a : Nat) : Bool := decide (a < 2 ^ 27) && decide (a / 512 % 256 < 144)

/-- Error patterns give non-zero bytes to symbols of a 72-symbol codeword, then to the bytes of POISON and POISON_INV of its row (R272, R273). -/
def errorWf (e : List (Nat × Nat)) : Bool := e.all (fun p => decide (p.1 < 80) && decide (0 < p.2) && decide (p.2 < 256))

/-- Bits that a sense reads wrong: 8 codewords of 2,304 bytes, no bit twice (R312). -/
def flipsWf (f : List (List Nat)) : Bool := decide (f.length ≤ 8) && f.all (fun c => decide c.Nodup && c.all (fun i => decide (i < 18432)))

/-- Codewords that fail the ladder, as (page, codeword), of some pages of 8 codewords (R312, R313). -/
def badWf (pages : Nat) (l : List (Nat × Nat)) : Bool := l.all (fun w => decide (w.1 < pages) && decide (w.2 < 8))

/-- A requester names one of the eight logical cores, or a context number (R277). -/
def Requester.wf : Requester → Bool
  | .step c => decide (c < 8)
  | .ctx c => decide (c < 4096)
  | .firmware => true

/-- Whether the operands of a command are ones that the tile can be given. -/
def Instr.wf : Instr → Bool
  | .bootComplete _ rate _ => decide (rate.toNat ≤ 5)
  | .functionLevelReset f => decide (f < 256)
  | .vfDisable f => decide (0 < f) && decide (f < 256)
  | .moduleRetrainDone _ _ rate => decide (rate.toNat ≤ 5)
  | .unsupportedRequest f _ => decide (f < 256)
  | .doorbellSqTail f off size _ => decide (f < 256) && decide (off + size ≤ 131072) && (size == 4 || size == 8)
  | .doorbellCqHead f off size _ => decide (f < 256) && decide (off + size ≤ 131072) && (size == 4 || size == 8)
  | .controlWindowWrite f off _ _ => decide (f < 256) && decide (off < 65536)
  | .controlWindowRead f off _ => decide (f < 256) && decide (off < 65536)
  | .msixTableWrite f off _ _ => decide (f < 256) && decide (off < 32768)
  | .matmul c es => decide (c < 8) && es.all RowError.wf
  | .scan c es => decide (c < 8) && es.all RowError.wf
  | .attn c es => decide (c < 8) && es.all RowError.wf
  | .vec c es => decide (c < 8) && es.all RowError.wf
  | .move c es => decide (c < 8) && es.all RowError.wf
  | .reduceAllReduce c es => decide (c < 8) && es.all RowError.wf
  | .reduceAllGather c es => decide (c < 8) && es.all RowError.wf
  | .reduceBroadcast c es => decide (c < 8) && es.all RowError.wf
  | .checkCompare c es => decide (c < 8) && es.all RowError.wf
  | .checkSend c es => decide (c < 8) && es.all RowError.wf
  | .checkReceive c es => decide (c < 8) && es.all RowError.wf
  | .checkShadow c es => decide (c < 8) && es.all RowError.wf
  | .belayPost c => decide (c < 8)
  | .belayWait c => decide (c < 8)
  | .belayIncrement c t => decide (c < 8) && decide (t < 65536)
  | .digestSlotFill c k => decide (c < 8) && decide (k < 256)
  | .descriptorComplete c _ => decide (c < 8)
  | .ropeFlitTransfer st _ _ _ => decide (st < 11)
  | .ropeCreditReturn st _ _ _ => decide (st < 11)
  | .collectiveContribution c _ => decide (c < 8)
  | .collectiveDelivery c _ => decide (c < 8)
  | .collectiveCheckReport c => decide (c < 8)
  | .collectiveDone c => decide (c < 8)
  | .stepDoneReport c => decide (c < 8)
  | .faultReport c => decide (c < 8)
  | .coreStopTimeout c => decide (c < 8)
  | .katPeriodExpiry p => decide (p < 9)
  | .katComplete p _ => decide (p < 9)
  | .spareSwitch c => decide (c < 8)
  | .spareCopyComplete c _ => decide (c < 8)
  | .scrubWrite p r => decide (p < 9) && decide (r < 49152)
  | .promotionComplete c _ t bad => decide (c < 4096) && decide (t < 32) && badWf 4 bad
  | .evictAhead c => decide (c < 4096)
  | .demotionComplete c _ t => decide (c < 4096) && decide (t < 32)
  | .frameZeroed f => decide (f < 57600)
  | .hostReadCompletion t _ => decide (t < 8192)
  | .dmaReadTimeout t _ => decide (t < 8192)
  | .dramReadRequest f b w _ => decide (f < 57600) && decide (b < 32768) && w.wf
  | .dramWriteRequest f b w d => decide (f < 57600) && decide (b < 32768) && w.wf && d.length == 64
  | .dramReadIssue c _ => decide (c < 32)
  | .dramReadData c e => decide (c < 32) && errorWf e
  | .writeDrainBurst c _ _ => decide (c < 32)
  | .pageIdleClose c b => decide (c < 32) && decide (b < 32)
  | .refresh c b _ => decide (c < 32) && decide (b < 32)
  | .mr4Poll c _ _ => decide (c < 32)
  | .neighbourRefresh c b _ => decide (c < 32) && decide (b < 32)
  | .patrolScrub e => errorWf e
  | .retrainDue c _ => decide (c < 32)
  | .retrainSliceStart c => decide (c < 32)
  | .retrainSliceEnd c _ => decide (c < 32)
  | .rankRetire c _ => decide (c < 32)
  | .migrationFrameCopied g bad => decide (g < 8) && bad.all (fun b => decide (b < 32768))
  | .setPointChange p => decide (p.toNat < 3)
  | .channelSwitchDone c => decide (c < 32)
  | .quadPowerDown c r q => decide (c < 32) && decide (r < 2) && decide (q < 4)
  | .quadOffAck c r q => decide (c < 32) && decide (r < 2) && decide (q < 4)
  | .quadPowerUp c r q => decide (c < 32) && decide (r < 2) && decide (q < 4)
  | .quadPowerUpDone c r q => decide (c < 32) && decide (r < 2) && decide (q < 4)
  | .flashReadIssue d p _ => decide (d < 64) && pageWf p && p % 64 == d
  | .flashReadDone d p f => decide (d < 64) && decide (p < 8) && flipsWf f
  | .flashRetrySenseDone d p f => decide (d < 64) && decide (p < 8) && flipsWf f
  | .calStatisticsFull d l b => decide (d < 64) && decide (l < 3) && decide (b < 8)
  | .flashProgramIssue p _ d => pageWf p && d.length == 16384
  | .flashPulseEnd d p => decide (d < 64) && decide (p < 8)
  | .flashProgramDone d p _ => decide (d < 64) && decide (p < 8)
  | .flashEraseIssue b => decide (b < 73728)
  | .flashEraseDone d p _ => decide (d < 64) && decide (p < 8)
  | .relocation b bad => decide (b < 73728) && badWf 1024 bad
  | .garbageCollection d p bad => decide (d < 64) && decide (p < 8) && badWf 1024 bad
  | .watchdogExpiry c => decide (c < 4)
  | .fwCoreRestart c => decide (c < 4)
  | .cfgRecordApply s => decide (1 ≤ s) && decide (s ≤ 8)
  | .cairnRecordDelivery c => decide (c < 8)
  | .stepTimeMeasure ts => ts.length == 12
  | .droopHold r => decide (r < 12)
  | .droopRelease r => decide (r < 12)
  | .droopTimeout r => decide (r < 12)
  | .coreGate p => decide (p < 9)
  | .coreGateDone p => decide (p < 9)
  | .coreUngate p => decide (p < 9)
  | .coreUngateDone p => decide (p < 9)
  | .powerOn => true
  | .sidebandReset => true
  | .bootRomStart => true
  | .fwRecoveryGo _ => true
  | .brownoutWarning => true
  | .thermalTrip => true
  | .bivouacRequest => true
  | .bivouacEntryComplete => true
  | .wake => true
  | .wakeComplete => true
  | .laneFailure _ => true
  | .ideIntegrityFail => true
  | .spdmGetCertificate _ => true
  | .spdmChallenge _ => true
  | .spdmGetMeasurements _ => true
  | .spdmKeyExchange _ => true
  | .spdmPskExchange _ => true
  | .ideKm _ => true
  | .registerWrite => true
  | .adminSqTail => true
  | .adminCqHead => true
  | .adminQueueEnable => true
  | .adminQueueDisable => true
  | .spareSwitchRequest => true
  | .dramTrainRequest => true
  | .dramRetireRequest => true
  | .commandFetch _ => true
  | .invalidOpcode _ => true
  | .commandTakesEffect _ => true
  | .submitStep _ _ => true
  | .schedLoad _ _ => true
  | .schedUnload _ => true
  | .streamOpen _ => true
  | .streamPause _ => true
  | .streamResume _ => true
  | .streamReset _ => true
  | .streamClose _ => true
  | .streamQuery _ => true
  | .kvPoolCreate _ => true
  | .kvPoolDestroy _ => true
  | .kvSeqOpen _ => true
  | .kvSeqFork _ => true
  | .kvSeqTruncate _ => true
  | .kvSeqClose _ => true
  | .kvSeqQuery _ => true
  | .segMap _ => true
  | .segUnmap _ => true
  | .segAttr _ => true
  | .segQuery _ => true
  | .modelInstall _ _ => true
  | .modelAttach _ => true
  | .modelDetach _ => true
  | .modelRemove _ => true
  | .modelQuery _ => true
  | .windowOpen _ => true
  | .windowClose _ => true
  | .ctxCreate _ => true
  | .ctxReset _ => true
  | .ctxDestroy _ => true
  | .qpCreate _ => true
  | .qpDelete _ => true
  | .attest _ => true
  | .sessionOpen _ _ => true
  | .identityGet _ => true
  | .checkSet _ => true
  | .residentRef _ => true
  | .residentAck _ => true
  | .replayStart _ => true
  | .replayStop _ => true
  | .replayStatus _ => true
  | .checkQuery _ => true
  | .fwUpdate _ _ => true
  | .fwActivate _ => true
  | .fwSvnCommit _ => true
  | .cfgUpdate _ _ => true
  | .cfgWrite _ _ => true
  | .logRingSet _ => true
  | .cairnSet _ => true
  | .stepDispatch _ _ => true
  | .startTokenPost _ => true
  | .stepCommit _ => true
  | .digestComparePeriod _ => true
  | .residentScanPeriod => true
  | .staticWearLevelling bad => badWf 1024 bad
  | .journalCheckpoint => true
  | .fwActivateConfirm => true
  | .logEntryDelivery => true
  | .governorTick _ _ => true
  | .powerSurgeSample _ => true
  | .throttleUpdate => true
  | .regulatorTelemetry _ => true
  | .dramThermalDerate _ => true
  | .dramThermalRestore _ => true
  | .flashThermalPause _ => true
  | .flashThermalResume _ => true
  | .powerOff => true

end Sys2Proof
end

