-- ==== Sys2Proof/Safety.lean ====
section
/-!
DEFINITION. Safety.lean: the terms in which claims about the tile are made: a command that stands ready for its row, a tile without a fault
under way, and the properties that every step keeps.
-/
namespace Sys2Proof.Machine

/-- A command stands in the fetch order for the row of an opcode, has not begun, passes the checks of its entry (R351), and waits for nothing
(R183, R346, R414). -/
structure State.CmdReady (s : State) (fid op own : Nat) (c : Cmd) : Prop where
  found : s.cmds.find fid = some c
  runs : s.commandsRun = true
  opcode : c.opcode = op
  queue : c.opcodeOk = true
  fetched : c.stage = .fetched
  permits : s.permits c = true
  passes : c.precheck own = none
  free : s.mustWait c = false

/-- No step waits for the outcome of a fault. -/
def State.Calm (s : State) : Prop := ∀ p ∈ s.steps.list, p.2.stage ≠ .faulting

/-- What the tile shows of its life is coherent (R404, R405, R427, R460, R466): READY while it serves or enters Bivouac and at no other time,
PHASE by the part of life, a halt code in a halt and in no other part, THERMTRIP_N while it has tripped. -/
structure Boot.Coherent (b : Boot) : Prop where
  ready : b.ready = true ↔ b.life = .serving ∨ b.life = .entering
  served : b.life = .serving ∨ b.life = .entering ∨ b.life = .bivouac ∨ b.life = .waking → b.phase = 6
  booting : b.life = .booting → b.phase = 5
  halted : b.life = .halted → b.phase = 7 ∧ b.haltCode ≠ 0
  code : b.haltCode ≠ 0 → b.life = .halted ∨ b.life = .tripped
  trip : b.thermtrip = true ↔ b.life = .tripped

/-- Every parameter in force, and every entry that waits for its quiescent point, lies in its range (R408, R451, R474). -/
def State.ParamsOk (s : State) : Prop :=
  (∀ p ∈ s.params, (paramRow (p.1 / 65536)).any (fun r => decide (p.1 % 65536 ≤ r.idx) && decide (r.lo ≤ p.2) && decide (p.2 ≤ r.hi)) = true) ∧
    ∀ q ∈ s.cfgm.pending, q.entries.all CfgEntry.inRange = true

/-- What every step keeps. -/
structure State.Inv (s : State) : Prop where
  boot : s.boot.Coherent
  params : s.ParamsOk

/-- What a tile reset leaves (R472, R12): the life of a tile under reset with the cause and the timer at zero; DRAM, scratchpads, contexts, queues,
functions, steps, images and parameters lost; the flash array, its map, the kept state, the events that wait and what was sent kept. -/
structure State.ResetFrom (s t : State) (cause : BitVec 3) : Prop where
  life : t.boot.ready = false ∧ t.boot.cause = cause ∧ t.boot.timer = 0 ∧ t.boot.resetReq = none
  lost : t.dram = Dram.fresh ∧ t.pcores = State.reset.pcores ∧ t.lcores = State.reset.lcores ∧ t.ctxs = [] ∧ t.strms = [] ∧ t.queues = [] ∧
    t.funcs = [] ∧ t.cmds.list = [] ∧ t.steps.list = [] ∧ t.images.imgs = [] ∧ t.params = [] ∧ t.tier.frames = [] ∧ t.link.tags = [] ∧ t.link.reads = []
  kept : t.nv = s.nv ∧ t.flash.cells = s.flash.cells ∧ t.flash.blocks = s.flash.blocks ∧ t.flash.map = s.flash.map ∧ t.pending = s.pending ∧
    t.out = s.out
  pulses : t.flash.dies = []

/-- Whether a tile that has or enters power is in a life in which the link carries host requests (R334, R336, R404, R457). -/
def State.HostOpen (s : State) : Prop :=
  s.link.up = true ∧ (s.link.ideEnabled = true → s.link.ideSecure = true) ∧ s.boot.life ∈ [.booting, .halted, .serving, .entering, .tripped]

/-- What an event may change: the state before it with the named components as they are after it. Every other component, and of the state kept over
resets all but the named parts, is as before. The rows that reset the tile or end in a reset, and the two boot rows, have no frame here. -/
def State.within (s : State) (c : Instr) (t : State) : State :=
  match c with
  | .unsupportedRequest .. | .doorbellSqTail .. | .doorbellCqHead .. | .controlWindowWrite .. | .controlWindowRead .. | .msixTableWrite ..
  | .adminSqTail | .adminCqHead | .adminQueueEnable | .adminQueueDisable => s.hostRow t
  | .registerWrite => s.regRow t
  | .spareSwitchRequest => { s.hostRow t with sparing := t.sparing }
  | .dramTrainRequest => { s.hostRow t with dram := t.dram }
  | .dramRetireRequest => { s.dramRow t with out := t.out, queues := t.queues }
  | .bivouacRequest => { s.hostRow t with boot := { s.boot with life := t.boot.life } }
  | .laneFailure .. | .moduleRetrainDone .. | .ideIntegrityFail => s.linkRow t
  | .spdmGetCertificate .. | .spdmChallenge .. | .spdmGetMeasurements .. | .spdmKeyExchange .. | .spdmPskExchange .. | .ideKm .. =>
    { s with out := t.out, link := t.link, draws := t.draws }
  | .functionLevelReset .. =>
    { s.ctxCmd t with
      pf := t.pf, power := t.power, boot := { s.boot with recoveryAddr := t.boot.recoveryAddr, recoveryLen := t.boot.recoveryLen },
      sparing := { s.sparing with ueLast := t.sparing.ueLast } }
  | .vfDisable .. => s.ctxCmd t
  | .commandFetch .. => s.fetchCmd t
  | .invalidOpcode .. | .windowOpen .. | .windowClose .. | .qpCreate .. | .qpDelete .. | .logRingSet .. | .cairnSet .. => s.cplOf t
  | .commandTakesEffect .. => { s.ctxCmd t with nv := t.nv, pf := t.pf }
  | .streamOpen .. | .streamPause .. | .streamResume .. | .streamReset .. | .streamClose .. | .streamQuery .. | .kvPoolCreate .. | .kvPoolDestroy ..
  | .kvSeqOpen .. | .kvSeqFork .. | .kvSeqTruncate .. | .kvSeqClose .. | .kvSeqQuery .. => s.streamCmd t
  | .segMap .. | .segUnmap .. | .segAttr .. | .segQuery .. | .modelInstall .. | .modelAttach .. | .modelDetach .. | .modelRemove .. | .modelQuery .. =>
    s.tierCmd t
  | .submitStep .. | .schedLoad .. | .schedUnload .. => s.schedCmd t
  | .ctxCreate .. | .ctxReset .. | .ctxDestroy .. => s.ctxCmd t
  | .attest .. | .sessionOpen .. | .identityGet .. => s.secCmd t
  | .checkSet .. | .residentRef .. | .residentAck .. | .replayStart .. | .replayStop .. | .replayStatus .. | .checkQuery .. => s.checkCmd t
  | .fwUpdate .. | .fwActivate .. | .cfgWrite .. => s.fwCmd t
  | .fwSvnCommit .. => s.svnCmd t
  | .cfgUpdate .. => s.cfgCmd t
  | .stepCommit .. => { s.coreRow t with strms := t.strms }
  | .stepDispatch .. | .startTokenPost .. | .matmul .. | .scan .. | .attn .. | .vec .. | .move .. | .reduceAllReduce .. | .reduceAllGather ..
  | .reduceBroadcast .. | .checkCompare .. | .checkSend .. | .checkReceive .. | .checkShadow .. | .belayPost .. | .belayWait .. | .belayIncrement ..
  | .digestSlotFill .. | .descriptorComplete .. | .ropeFlitTransfer .. | .ropeCreditReturn .. | .collectiveContribution .. | .collectiveDelivery ..
  | .collectiveCheckReport .. | .collectiveDone .. | .stepDoneReport .. | .faultReport .. | .coreStopTimeout .. | .katPeriodExpiry .. | .katComplete ..
  | .spareSwitch .. | .spareCopyComplete .. | .digestComparePeriod .. | .residentScanPeriod | .promotionComplete .. | .evictAhead ..
  | .demotionComplete .. | .frameZeroed .. | .hostReadCompletion .. | .dmaReadTimeout .. => s.coreRow t
  | .droopTimeout .. => { s.coreRow t with power := t.power }
  | .scrubWrite .. | .coreGate .. | .coreGateDone .. | .coreUngateDone .. => { s with pcores := t.pcores }
  | .coreUngate .. => { s with pcores := t.pcores, pf := t.pf }
  | .pageIdleClose .. | .refresh .. | .mr4Poll .. | .neighbourRefresh .. | .retrainSliceStart .. | .quadPowerDown .. | .quadOffAck .. =>
    { s with dram := t.dram }
  | .quadPowerUp .. => { s with dram := t.dram, pf := t.pf }
  | .dramReadIssue .. | .writeDrainBurst .. => s.accessRow t
  | .dramWriteRequest .. | .patrolScrub .. | .retrainDue .. | .rankRetire .. | .migrationFrameCopied .. | .setPointChange ..
  | .channelSwitchDone .. | .quadPowerUpDone .. => s.dramRow t
  | .dramReadRequest .. | .dramReadData .. | .retrainSliceEnd .. => { s.coreRow t with nv := s.nv.serviceOf t.nv }
  | .flashReadIssue .. | .flashPulseEnd .. | .flashReadDone .. | .calStatisticsFull .. | .flashEraseIssue .. | .journalCheckpoint =>
    { s with flash := t.flash }
  | .flashRetrySenseDone .. | .flashProgramIssue .. | .flashProgramDone .. | .flashEraseDone .. | .relocation .. | .garbageCollection ..
  | .staticWearLevelling .. => s.flashRow t
  | .fwCoreRestart .. | .fwActivateConfirm => s.fwRow t
  | .cfgRecordApply .. => s.cfgRow t
  | .logEntryDelivery => { s with out := t.out, fw := t.fw }
  | .cairnRecordDelivery .. => { s with out := t.out, ctxs := t.ctxs, funcs := t.funcs, fw := t.fw, lcores := t.lcores }
  | .governorTick .. | .powerSurgeSample .. => s.powerRow t
  | .throttleUpdate | .stepTimeMeasure .. | .regulatorTelemetry .. | .droopRelease .. => { s with power := t.power }
  | .droopHold .. => { s with power := t.power, pf := t.pf }
  | .dramThermalDerate .. | .dramThermalRestore .. => { s with power := t.power, pf := t.pf, dram := t.dram }
  | .flashThermalPause .. | .flashThermalResume .. => { s with power := t.power, flash := t.flash, pf := t.pf }
  | .fwRecoveryGo .. =>
    { s.hostRow t with boot := t.boot, nv := s.nv.burnedOf t.nv, fw := t.fw, params := t.params, cfgm := t.cfgm, flash := t.flash, link := t.link }
  | .brownoutWarning => { s with boot := t.boot, flash := t.flash }
  | .thermalTrip => { s with boot := t.boot, flash := t.flash, out := t.out }
  | .bivouacEntryComplete => { s with boot := t.boot, out := t.out }
  | .wake => { s with boot := t.boot, out := t.out, pf := t.pf }
  | .wakeComplete => { s with boot := t.boot, pcores := t.pcores, pf := t.pf }
  | .powerOn | .sidebandReset | .powerOff | .bootRomStart | .bootComplete .. | .watchdogExpiry .. => t

end Sys2Proof.Machine
end

