-- ==== Sys2Proof/Certificates/Slice0/Obligations.lean ====
section
/-!
DEFINITION. Certificates/Slice0/Obligations.lean: the statements about the tile: the block as a whole, and for every family of events when they complete and what they
leave. Where a statement rests on a choice of the model its docstring names the log entry.
-/
open Sys2Proof Sys2Proof.Machine



/- The block as a whole. -/

/-- A step takes the event at the front of the queue and gives its effect on the queue's rest. -/
def Obligations.StepRunsFront : Prop :=
  ∀ (c : Instr) (rest : List Instr) (s : State), step { s with pending := c :: rest } = exec c { s with pending := rest }

/-- With no event waiting the tile timer counts a microsecond wherever it runs, and stands still in OFF and in Bivouac (the model's own reading of
R394 and R458: notes/assumptions/8.md). -/
def Obligations.EmptyQueueTicks : Prop :=
  ∀ s : State, s.pending = [] → ∃ t, step s = .next t ∧ t.pending = [] ∧ t.nv = s.nv ∧ t.dram = s.dram ∧ t.pcores = s.pcores ∧ t.ctxs = s.ctxs ∧
    t.boot.timer = (if s.boot.life = .off ∨ s.boot.life = .bivouac then s.boot.timer else s.boot.timer + 1) ∧
    t.boot = { s.boot with timer := t.boot.timer }

/-- No event touches the events that wait behind it, and each changes only the components that its row may change (`State.within`): what a row does not
name stays as it was, to the last byte of the DRAM, the flash and the scratchpads.
Every event with operands that the tile can be given has an effect.
That an event whose condition does not hold still answers a next state is the model's choice (notes/assumptions/7.md). -/
def Obligations.EventsRunWithinFrames : Prop :=
  (∀ (c : Instr) (s t : State), exec c s = .next t → t.pending = s.pending ∧ t = s.within c t) ∧
  (∀ (c : Instr) (s : State), c.wf = true → ∃ t, exec c s = .next t)

/-- What the tile is when the reset is released: each logical core on its own physical core and none on the spare, every scratchpad row and counter
at zero, no context, queue, command or step, READY clear, and memory with nothing listed.
Rows and memory that read zero are the model's choice (notes/assumptions/1.md, 2.md, 3.md). -/
def Obligations.ResetState : Prop :=
  State.reset.boot.ready = false ∧ State.reset.boot.life = .rom ∧ State.reset.boot.timer = 0 ∧
    (∀ n < 8, State.reset.carrier n = some n) ∧ State.reset.carried 8 = none ∧
    (∀ n < 8, (State.reset.lc n).counters = [] ∧ (State.reset.lc n).seqr = none) ∧
    (∀ n < 9, ∀ r, (State.reset.pcr n).row r = 0) ∧
    (∀ n, State.reset.ctx n = none) ∧ State.reset.queues = [] ∧ State.reset.cmds.list = [] ∧ State.reset.steps.list = [] ∧
    State.reset.dram.data = [] ∧ State.reset.flash.cells = [] ∧ State.reset.pending = []

/-- The properties that every step keeps hold when the reset is released. -/
def Obligations.ResetMeetsInv : Prop := State.reset.Inv

/-- Every step, of every event and of the idle tile, keeps them: what the tile shows of its life stays coherent, and every parameter in force or
waiting stays in its range. -/
def Obligations.StepKeepsInv : Prop :=
  ∀ s t : State, s.Inv → step s = .next t → t.Inv

/-- No step clears a bit of ROLLBACK in either copy of the OTP row, none changes another field of a copy, and none writes a copy that is not valid.
ROLLBACK bits are programmed by FW_SVN_COMMIT, which programs both valid copies alike, and by a boot, which programs into a copy the bits that the other one holds; every
other event leaves both copies as they are. -/
def Obligations.OtpOnlyBurns : Prop :=
  (∀ s t : State, step s = .next t →
    t.nv.otp.die0.fixedPart = s.nv.otp.die0.fixedPart ∧ t.nv.otp.die32.fixedPart = s.nv.otp.die32.fixedPart ∧
      (∀ i, s.nv.otp.die0.rollback.getLsbD i = true → t.nv.otp.die0.rollback.getLsbD i = true) ∧
      (∀ i, s.nv.otp.die32.rollback.getLsbD i = true → t.nv.otp.die32.rollback.getLsbD i = true) ∧
      (s.nv.otp.die0.valid = false → t.nv.otp.die0 = s.nv.otp.die0) ∧ (s.nv.otp.die32.valid = false → t.nv.otp.die32 = s.nv.otp.die32)) ∧
  (∀ (c : Instr) (s t : State), exec c s = .next t → c ≠ .bootRomStart → (∀ r, c ≠ .fwRecoveryGo r) →
    (∀ fid, c ≠ .fwSvnCommit fid ∧ (c = .commandTakesEffect fid → ∀ x, s.cmds.find fid = some x → x.opcode ≠ 0x92)) → t.nv.otp = s.nv.otp) ∧
  (∀ (s t : State) (r : HostRead), exec .bootRomStart s = .next t ∨ exec (.fwRecoveryGo r) s = .next t →
    t.nv.otp = s.nv.otp ∨ t.nv.otp = s.nv.otp.burn s.nv.otp.rollback)

/- Power, reset and boot. -/

/-- Power-on, a RESET on the sideband, and the removal of the rails after a RESET or after THERMTRIP_N. -/
def Obligations.PowerAndReset : Prop :=
  (∀ s : State, s.boot.life = .off → ∃ t, exec .powerOn s = .next t ∧ s.ResetFrom t 0 ∧ t.boot.life = .rom) ∧
  (∀ s : State, s.boot.life ≠ .off → ∃ t, exec .sidebandReset s = .next t ∧ s.ResetFrom t 1 ∧ t.boot.life = .rom) ∧
  (∀ s : State, s.boot.life = .rom ∨ s.boot.life = .tripped → ∃ t, exec .powerOff s = .next t ∧ s.ResetFrom t 0 ∧ t.boot.life = .off)

/-- BOOT_ROM_START: the boot ROM halts with code 1 when no OTP row may be used, with code 3 when both copies of the boot directory fail, and with code 2,
which offers recovery, when no slot passes; else the four cores start the newest image that passes, and the copies of the OTP row get the ROLLBACK bits that they lack.
The checks rest on the signature functions, so the outcome is told by the slots that pass.
BOOT_COMPLETE: boot ends when the DRAM has trained at some set point: READY is set, the link runs at its rate, every model object is attached to no context, and the
DRAM stands as its training and the service record leave it; a set point that failed and a lower rate are reported.
FW_RECOVERY_GO: the entry leaves its mailbox; an image that passes the checks of a slot image runs as SLOT 2; one longer than 8 MiB, a read that fails, and one that fails
its checks set RECOVERY_FAIL and leave the tile halted.
The phases shown are the model's reading of R487 (notes/assumptions/28.md). -/
def Obligations.BootStartsAndCompletes : Prop :=
  (∀ s : State, s.boot.life = .rom → s.boot.resetReq = none → ∃ t, exec .bootRomStart s = .next t ∧ t.boot.ready = s.boot.ready ∧ t.flash.cells = s.flash.cells ∧
    (if s.nv.otp.usable = false then t.boot.life = .halted ∧ t.boot.phase = 7 ∧ t.boot.haltCode = 1 ∧ t.nv = s.nv
    else if s.nv.dirOk = (false, false) then t.boot.life = .halted ∧ t.boot.phase = 7 ∧ t.boot.haltCode = 3 ∧ t.nv = s.nv
    else match s.bootRecords.1.head?.bind s.nv.committed with
      | none => t.boot.life = .halted ∧ t.boot.phase = 7 ∧ t.boot.haltCode = 2 ∧ t.nv = s.nv
      | some i => t.boot.life = .booting ∧ t.boot.phase = 5 ∧ t.boot.haltCode = 0 ∧ t.boot.slot = i.slot ∧ t.boot.skipped = s.bootRecords.2 ∧
          t.fw.cores = (s.fw.cores.zipIdx).map (fun p => p.1.run p.2 i) ∧ t.fw.stateVer = i.stateVer ∧ t.flash.otpMirror = s.nv.otp.mirror ∧
          t.nv = { s.nv with otp := s.nv.otp.burn s.nv.otp.rollback } ∧ t.params = Params.apply [] s.nv.bootConfig.2.2.1)) ∧
  (∀ (s : State) (fsp rate : BitVec 3) (cs : Bool), s.boot.life = .booting → fsp ≠ 0 → ∃ t, exec (.bootComplete fsp rate cs) s = .next t ∧
    t.boot = { s.boot with life := .serving, ready := true, phase := 6 } ∧ t.dram = s.nv.bootDram s.params fsp s.boot.timer ∧
    t.link = { s.link with rate := rate } ∧ t.nv = { s.nv with gens := s.nv.bootGens, models := s.nv.models.map (fun m => (m.1, { m.2 with attached := none })) } ∧
    t.cmp = { s.cmp with gens := s.nv.bootGens } ∧ t.sparing.usable = cs ∧ (fsp ≠ 7 → t.pf.dramEv.isSet 2 = true) ∧ (rate ≠ 5 → t.pf.uciEv.isSet 6 = true) ∧
    t.params = s.params ∧ t.flash = s.flash ∧ t.pcores = s.pcores ∧ t.ctxs = s.ctxs) ∧
  (∀ (s : State) (e : MboxEntry) (raw : Bytes), s.nextEntry = some (0, e) → s.drainRow 0 e = .recovery → s.linkOpen = true →
    ∃ t, exec (.fwRecoveryGo (.ok raw)) s = .next t ∧ (t.func 0).mbox = (s.func 0).mbox.tail ∧ t.dram = s.dram ∧
      (let b := fixLen s.boot.recoveryLen.toNat raw
      if s.boot.recoveryLen.toNat ≤ 8388608 ∧ fwImageOk b = true ∧ s.nv.verifies b = true ∧ s.nv.svn ≤ leAt b 6 2 then
        t.boot.life = .booting ∧ t.boot.phase = 5 ∧ t.boot.slot = 2 ∧ t.boot.haltCode = 0 ∧ t.fw.stateVer = leAt b 16 2 ∧
          t.nv = { s.nv with otp := s.nv.otp.burn s.nv.otp.rollback }
      else t.boot = { s.boot with recoveryFail := true } ∧ t.nv = s.nv)) ∧
  (∀ (s : State) (e : MboxEntry) (r : HostRead), s.nextEntry = some (0, e) → s.drainRow 0 e = .recovery → (∀ raw, r ≠ .ok raw) ∨ s.linkOpen = false →
    ∃ t, exec (.fwRecoveryGo r) s = .next t ∧ (t.func 0).mbox = (s.func 0).mbox.tail ∧ t.boot = { s.boot with recoveryFail := true } ∧ t.nv = s.nv)

/-- The flash supply warning blocks new pulses and asks for a tile reset of cause 3, which the boot ROM's start then takes; a tile that is under
reset already does not lose what is stored.
At 115 °C the tile asserts THERMTRIP_N, blocks new pulses and stops serving; nothing it stores changes. -/
def Obligations.BrownOutAndThermalTrip : Prop :=
  (∀ s : State, s.boot.life ≠ .off → ∃ t, exec .brownoutWarning s = .next t ∧ t.flash.blocked = true ∧ t.flash.brownoutLast = true ∧
    t.boot = { s.boot with resetReq := some 3 } ∧ t.flash.cells = s.flash.cells ∧ t.dram = s.dram ∧ t.nv = s.nv ∧ t.pcores = s.pcores) ∧
  (∀ (s : State) (k : BitVec 3), s.boot.resetReq = some k → ∃ t u, exec .bootRomStart s = .next t ∧ s.ResetFrom u k ∧ u.boot.life = .rom ∧
    exec .bootRomStart u = .next t) ∧
  (∀ s : State, s.boot.life ∉ [Life.off, .bivouac, .tripped] → ∃ t, exec .thermalTrip s = .next t ∧ t.boot.life = .tripped ∧ t.boot.ready = false ∧
    t.boot.thermtrip = true ∧ t.flash.blocked = true ∧ t.out = s.out ++ [.thermtrip] ∧ t.serving = false ∧ t.flash.cells = s.flash.cells ∧
    t.dram = s.dram ∧ t.ctxs = s.ctxs ∧ t.nv = s.nv)

/-- Bivouac: a request enters it when the configuration allows it; entry ends in Bivouac, or in a WAKE that was queued; a WAKE leaves it, is queued
during entry with PEND_ENABLE, and ends in service with every row of every core that is in no resident region awaiting scrub. -/
def Obligations.BivouacRows : Prop :=
  (∀ (s : State) (e : MboxEntry), s.nextEntry = some (0, e) → s.drainRow 0 e = .bivouac → s.boot.life = .serving → s.param 0x0705 0 ≠ 0 →
    ∃ t, exec .bivouacRequest s = .next t ∧ t.boot = { s.boot with life := .entering } ∧ (t.func 0).mbox = (s.func 0).mbox.tail ∧
      t.dram = s.dram ∧ t.pcores = s.pcores ∧ t.ctxs = s.ctxs) ∧
  (∀ s : State, s.boot.life = .entering → s.quiet = true → ∃ t, exec .bivouacEntryComplete s = .next t ∧ t.boot.ready = false ∧
    t.boot.life = (if s.boot.wakeQueued then .waking else .bivouac) ∧ t.out = s.out ++ .vid bivouacVcore :: (if s.boot.wakeQueued then [.vid s.power.vcore.toNat] else []) ∧
    t.dram = s.dram ∧ t.pcores = s.pcores ∧ t.ctxs = s.ctxs) ∧
  (∀ s : State, s.boot.life = .bivouac → ∃ t, exec .wake s = .next t ∧ t.boot = { s.boot with life := .waking } ∧ t.ctxs = s.ctxs ∧ t.dram = s.dram) ∧
  (∀ s : State, s.boot.life = .entering → s.boot.wakeQueued = false → ∃ t, exec .wake s = .next t ∧ t.boot = { s.boot with wakeQueued := true } ∧
    t.pf.pwrEv.isSet 4 = true) ∧
  (∀ s : State, s.boot.life = .waking → ∃ t, exec .wakeComplete s = .next t ∧ t.boot = { s.boot with life := .serving, ready := true } ∧
    t.pf.pwrEv.isSet 3 = true ∧ t.dram = s.dram ∧ t.ctxs = s.ctxs ∧ t.lcores = s.lcores ∧
    (∀ p < s.pcores.length, ∀ r < scratchRows, Ranges.has (s.residentRows p) r = false → (t.pcr p).row r = 0))

/-- FUNCTION_LEVEL_RESET of a VF, and VF_DISABLE: no context of the function is left, its admin queue, its mailbox, its log ring and its MSI-X table are as at
reset, and no command of its admin queue is left; the PF's registers and every other function's admin commands stay. With no context to destroy, every other function
stays as it was, and the function keeps its LSN.
FUNCTION_LEVEL_RESET of the PF: no context is left at all, and the PF's registers have their reset values, PWR_CAP that of the configuration; with no context to destroy,
every function is as at reset but for its LSN and its count of dropped log entries. The halt of R405 takes an FLR as a serving tile does.
What a record keeps beside the LSN is the model's choice (notes/assumptions/34.md). -/
def Obligations.FunctionResets : Prop :=
  (∀ (s : State) (f : Nat), s.hostLives = true → f ≠ 0 → ∃ t, exec (.functionLevelReset f) s = .next t ∧ (∀ n x, s.ctx n = some x → x.func = f → t.ctx n = none) ∧
    t.func f = { Func.fresh with lsn := (t.func f).lsn, logDrop := (t.func f).logDrop } ∧ (∀ c ∈ t.cmds.list, c.q ≠ .admin f) ∧ t.boot = s.boot ∧
    t.params = s.params ∧ t.sparing = s.sparing ∧ t.pf = s.pf ∧ t.flash.cells = s.flash.cells) ∧
  (∀ (s : State) (f : Nat), s.hostLives = true → f ≠ 0 → (∀ p ∈ s.ctxs, p.2.func ≠ f) → ∃ t, exec (.functionLevelReset f) s = .next t ∧
    t.func f = { Func.fresh with lsn := (s.func f).lsn, logDrop := (s.func f).logDrop } ∧ (∀ g, g ≠ f → t.func g = s.func g) ∧
    t.cmds.list = s.cmds.list.filter (fun c => c.q != .admin f) ∧ t.ctxs = s.ctxs ∧ t.queues = s.queues ∧ t.dram = s.dram) ∧
  (∀ s : State, s.hostLives = true → ∃ t, exec (.functionLevelReset 0) s = .next t ∧ (∀ n, t.ctx n = none) ∧
    t.pf = { PfRegs.fresh with arrivals := s.pf.arrivals, turn := s.pf.turn, sharedTurn := s.pf.sharedTurn } ∧
    t.power = { s.power with domSel := 0, capMw := BitVec.ofNat 17 (s.param 0x0701 0) } ∧ t.sparing = { s.sparing with ueLast := 15 } ∧
    t.boot = { s.boot with recoveryAddr := 0, recoveryLen := 0 } ∧ t.params = s.params ∧ t.flash.cells = s.flash.cells) ∧
  (∀ s : State, s.hostLives = true → s.ctxs = [] → ∃ t, exec (.functionLevelReset 0) s = .next t ∧
    (∀ f, t.func f = { Func.fresh with lsn := (s.func f).lsn, logDrop := (s.func f).logDrop }) ∧ t.queues = s.queues ∧ t.dram = s.dram) ∧
  (∀ (s : State) (f : Nat), s.hostLives = true → f ≠ 0 → ∃ t, exec (.vfDisable f) s = .next t ∧ (∀ n x, s.ctx n = some x → x.func = f → t.ctx n = none) ∧
    t.func f = { Func.fresh with lsn := (t.func f).lsn, logDrop := (t.func f).logDrop } ∧ (∀ c ∈ t.cmds.list, c.q ≠ .admin f) ∧ t.boot = s.boot ∧
    t.params = s.params ∧ t.sparing = s.sparing ∧ t.pf = s.pf ∧ t.flash.cells = s.flash.cells) ∧
  (∀ (s : State) (f : Nat), s.hostLives = true → f ≠ 0 → (∀ p ∈ s.ctxs, p.2.func ≠ f) → ∃ t, exec (.vfDisable f) s = .next t ∧
    t.func f = { Func.fresh with lsn := (s.func f).lsn, logDrop := (s.func f).logDrop } ∧ (∀ g, g ≠ f → t.func g = s.func g) ∧
    t.cmds.list = s.cmds.list.filter (fun c => c.q != .admin f) ∧ t.ctxs = s.ctxs ∧ t.queues = s.queues ∧ t.dram = s.dram)

/- The link and its sessions. -/

/-- LANE_FAILURE and MODULE_RETRAIN_DONE: a lane failure takes its module out to retrain while a redundant lane is left or the module already runs at x32, and drops it to x32 with
MODULE_DEGRADED when none is left; the retraining ends UP with one redundant lane fewer and LANE_REPAIRED, DEGRADED at x32 with MODULE_DEGRADED where it was at full width, or DOWN with
MODULE_DOWN, and the link goes down only when both modules are; a rate below 32 GT/s sets RATE_REDUCED. IDE_INTEGRITY_FAIL: a TLP that fails its integrity check makes the stream insecure and sets IDE_FAIL. -/
def Obligations.LinkRepair : Prop :=
  (∀ (s : State) (m : Bool), s.mainBand = true → (s.link.module m).state = .up → (s.link.module m).spares ≠ 0 →
    exec (.laneFailure m) s = .next { s with link := s.link.setModule m { s.link.module m with state := .repairing } }) ∧
  (∀ (s : State) (m : Bool), s.mainBand = true → (s.link.module m).state = .up → (s.link.module m).spares = 0 →
    ∃ t, exec (.laneFailure m) s = .next t ∧ t.link = s.link.setModule m { s.link.module m with state := .degraded, narrow := true } ∧
      t.pf.uciEv.isSet 1 = true) ∧
  (∀ (s : State) (m : Bool), s.mainBand = true → (s.link.module m).state = .degraded →
    exec (.laneFailure m) s = .next { s with link := s.link.setModule m { s.link.module m with state := .repairing } }) ∧
  (∀ (s : State) (m : Bool) (lanes : Nat) (rate : BitVec 3), s.mainBand = true → (s.link.module m).state = .repairing → ∃ t,
    exec (.moduleRetrainDone m lanes rate) s = .next t ∧ t.func = s.func ∧ t.ctxs = s.ctxs ∧
    (t.link.module (!m)) = s.link.module (!m) ∧
    (if lanes < 32 then (t.link.module m).state = .down ∧ t.pf.uciEv.isSet 2 = true ∧
        (t.link.up = true ↔ s.link.up = true ∧ (s.link.module (!m)).state ≠ .down)
      else t.link.rate = rate ∧ (rate ≠ 5 → t.pf.uciEv.isSet 6 = true) ∧ (if lanes < 64 ∨ (s.link.module m).narrow = true then (t.link.module m).state = .degraded ∧ (t.link.module m).narrow = true ∧
          ((s.link.module m).narrow = false → t.pf.uciEv.isSet 1 = true)
        else t.link.module m = { s.link.module m with state := .up, spares := (s.link.module m).spares - 1 } ∧ t.pf.uciEv.isSet 0 = true))) ∧
  (∀ s : State, s.mainBand = true → s.link.ideEnabled = true → s.link.ideSecure = true → ∃ t, exec .ideIntegrityFail s = .next t ∧
    t.link = { s.link with ideSecure := false } ∧ t.pf.uciEv.isSet 5 = true ∧ t.linkOpen = false)

/-- Each request on the DOE mailbox gets one answer: GET_CERTIFICATE the stored chain, CHALLENGE and GET_MEASUREMENTS answers that the identity key signs, the latter with the
tile's measurements; KEY_EXCHANGE and PSK_EXCHANGE open a session, under a fresh secret and under the pre-shared key derived from LINK_ROOT. IDE_KM inside a session sets
the keys of the link stream and makes it secure, and outside one is not taken. Nothing else of the tile changes.
The chain is at most 8 KiB and its keys are those of the OTP row where the tile holds a chain that does.
What the SPDM standard puts into a body is uninterpreted (notes/assumptions/45.md). -/
def Obligations.SpdmAnswers : Prop :=
  (∀ (s : State) (q : Bytes), s.doeOpen = true →
    exec (.spdmGetCertificate q) s = .next { s with out := s.out ++ [.doe (Config.spdmBody 0x82 q ++ s.nv.certChain)] } ∧
    exec (.spdmChallenge q) s = .next { s with out := s.out ++ [.doe (s.signedResponse 0x83 q [])] } ∧
    exec (.spdmGetMeasurements q) s = .next { s with out := s.out ++ [.doe (s.signedResponse 0xE0 q s.tileMeasures.flatten)] } ∧
    exec (.spdmKeyExchange q) s = .next { s with
      out := s.out ++ [.doe (s.signedResponse 0xE4 q (Config.ecPublic (Config.entropy s.draws)))], draws := s.draws + 1,
      link := { s.link with spdm := some (1, Config.ecdh (Config.entropy s.draws) q) } } ∧
    exec (.spdmPskExchange q) s = .next { s with
      out := s.out ++ [.doe (Config.spdmBody 0xE6 q)],
      link := { s.link with spdm := some (2, Config.hkdf (Config.hkdf s.nv.otp.row.linkRoot [] (asciiBytes "IVN spdm psk") 48) q [] 48) } }) ∧
  (∀ (s : State) (q : Bytes), s.doeOpen = true → s.link.spdm ≠ none → exec (.ideKm q) s = .next { s with
    out := s.out ++ [.doe (Config.spdmBody 0xFE q)], link := { s.link with ideEnabled := true, ideSecure := true, ideKeys := q } }) ∧
  (∀ (s : State) (q : Bytes), s.link.spdm = none → exec (.ideKm q) s = .next s) ∧
  (∀ s t : State, s.nv.chainOk = true → step s = .next t → t.nv.chainOk = true ∧ t.nv.certChain.length ≤ 8192)

/- Accesses from the host. -/

/-- UNSUPPORTED_REQUEST: a host request outside the BARs is answered with Unsupported Request.
DOORBELL_SQ_TAIL and DOORBELL_CQ_HEAD: an aligned 4-byte write of the function that owns an ACTIVE queue sets its SQ tail, or its CQ head; an aligned 8-byte write rings two
doorbells, the lower first; a value out of range puts the queue into ERROR; a write of another function is dropped and counted, and so is one of a wrong alignment.
CONTROL_WINDOW_WRITE: the entry enters its function's mailbox with the next arrival number; one of a wrong size or alignment is dropped and counted, and one into a full mailbox
also sets OVERFLOW. CONTROL_WINDOW_READ: with no write before it a read is answered at once, else it is held. MSIX_TABLE_WRITE: a word of its vector is set, and
a write that unmasks a pending vector sends its message.
That a misaligned doorbell is counted, and the access sizes of the MSI-X table, are the model's choice (notes/assumptions/5.md, 30.md). -/
def Obligations.HostAccesses : Prop :=
  (∀ (s : State) (f a : Nat), s.hostIn = true → exec (.unsupportedRequest f a) s = .next { s with out := s.out ++ [.unsupported f a] }) ∧
  (∀ (s : State) (f n : Nat) (d : BitVec 64) (q : Queue) (x : Ctx), s.hostIn = true → s.boot.ready = true → n < 32768 → s.queues.get? n = some q →
    s.ctx q.ctx = some x → x.func = f → q.state = .active →
    (d.toNat.testBit 16 = false → d.toNat % 65536 < q.depth → exec (.doorbellSqTail f (4 * n) 4 d) s = .next { s with queues := s.queues.upd n (fun y =>
      { y with sqTail := d.toNat % 65536, since := if y.sqHead = y.sqTail then s.boot.timer else y.since }) }) ∧
    (d.toNat.testBit 16 = false → q.depth ≤ d.toNat % 65536 →
      exec (.doorbellSqTail f (4 * n) 4 d) s = .next { s with queues := s.queues.upd n (fun y => { y with state := .error, cause := 1 }) }) ∧
    (d.toNat.testBit 16 = true → headOk q.depth q.cqHead q.cqTail (d.toNat % 65536) = true → q.held = [] →
      exec (.doorbellCqHead f (4 * n) 4 d) s = .next { s with queues := s.queues.upd n (fun y => { y with cqHead := d.toNat % 65536 }) }) ∧
    (d.toNat.testBit 16 = true → headOk q.depth q.cqHead q.cqTail (d.toNat % 65536) = false →
      exec (.doorbellCqHead f (4 * n) 4 d) s = .next { s with queues := s.queues.upd n (fun y => { y with state := .error, cause := 1 }) })) ∧
  (∀ (s : State) (f n : Nat) (d : BitVec 64), s.hostIn = true → s.boot.ready = true → n < 16384 →
    (d.toNat.testBit 16 = false → exec (.doorbellSqTail f (8 * n) 8 d) s = .next (s.hostRow ((s.ring f (2 * n) (d.toNat % 2 ^ 32)).ring f (2 * n + 1) (d.toNat / 2 ^ 32)))) ∧
    (d.toNat.testBit 16 = true → exec (.doorbellCqHead f (8 * n) 8 d) s = .next (s.hostRow ((s.ring f (2 * n) (d.toNat % 2 ^ 32)).ring f (2 * n + 1) (d.toNat / 2 ^ 32))))) ∧
  (∀ (s : State) (f n : Nat) (d : BitVec 64) (q : Queue) (x : Ctx), s.hostIn = true → s.boot.ready = true → n < 32768 →
    s.queues.get? n = some q → s.ctx q.ctx = some x → x.func ≠ f →
    (d.toNat.testBit 16 = false → exec (.doorbellSqTail f (4 * n) 4 d) s = .next (s.modFunc f (fun y => { y with dbDrop := satUp y.dbDrop }))) ∧
    (d.toNat.testBit 16 = true → exec (.doorbellCqHead f (4 * n) 4 d) s = .next (s.modFunc f (fun y => { y with dbDrop := satUp y.dbDrop })))) ∧
  (∀ (s : State) (f off size : Nat) (d : BitVec 64), s.hostIn = true → s.boot.ready = true → ¬(size = 4 ∧ off % 4 = 0) → ¬(size = 8 ∧ off % 8 = 0) → off + size ≤ 131072 →
    (d.toNat.testBit 16 = false → exec (.doorbellSqTail f off size d) s = .next (s.modFunc f (fun y => { y with dbDrop := satUp y.dbDrop }))) ∧
    (d.toNat.testBit 16 = true → exec (.doorbellCqHead f off size d) s = .next (s.modFunc f (fun y => { y with dbDrop := satUp y.dbDrop })))) ∧
  (∀ (s : State) (f off : Nat) (d : BitVec 64), s.hostIn = true → s.boot.ready = true ∨ s.answersEarly off = true → off % 4 = 0 → off + 4 ≤ 65536 →
    (s.func f).mbox.length < 64 → ∃ t, exec (.controlWindowWrite f off 4 d) s = .next t ∧ t.pf.arrivals = s.pf.arrivals + 1 ∧
      t.func f = { s.func f with mbox := (s.func f).mbox ++ [⟨off, BitVec.ofNat 32 d.toNat, s.pf.arrivals + 1⟩] } ∧
      (∀ g, g ≠ f → t.func g = s.func g) ∧ t.queues = s.queues ∧ t.out = s.out) ∧
  (∀ (s : State) (f off size : Nat) (d : BitVec 64), s.hostIn = true → ¬(size = 4 ∧ off % 4 = 0) → ¬(size = 8 ∧ off % 8 = 0) →
    exec (.controlWindowWrite f off size d) s = .next (s.modFunc f (fun y => { y with winDrop := satUp y.winDrop }))) ∧
  (∀ (s : State) (f off : Nat) (d : BitVec 64), s.hostIn = true → s.boot.ready = true → off % 4 = 0 → off + 4 ≤ 65536 → 64 ≤ (s.func f).mbox.length →
    ∃ t, exec (.controlWindowWrite f off 4 d) s = .next t ∧ t.func f = { s.func f with
      winDrop := satUp (s.func f).winDrop, overflow := (s.func f).overflow.raise 31 s.pf.arrivals } ∧ t.pf = s.pf) ∧
  (∀ (s : State) (f off size : Nat), s.hostIn = true → (s.func f).mbox = [] → (s.func f).reads = [] → ∃ t, exec (.controlWindowRead f off size) s = .next t ∧
    t.out = s.out ++ [.answer f off (s.readWindow f off size)] ∧ t.func f = s.func f ∧ t.queues = s.queues ∧ t.pf = s.pf) ∧
  (∀ (s : State) (f off size : Nat) (e : MboxEntry), s.hostIn = true → (s.func f).mbox.head? = some e → e.stamp ≤ s.pf.arrivals → (s.func f).reads = [] →
    ∃ t, exec (.controlWindowRead f off size) s = .next t ∧ t.out = s.out ∧ t.func f = { s.func f with reads := [⟨off, size, s.pf.arrivals⟩] } ∧ t.pf = s.pf) ∧
  (∀ (s : State) (f n part : Nat) (d : BitVec 64), s.hostIn = true → n < 2048 → part < 4 → ∃ t,
    exec (.msixTableWrite f (16 * n + 4 * part) 4 d) s = .next t ∧
    (let x := (AList.getD (s.func f).vectors n Vector'.fresh).write part (d.toNat % 2 ^ 32)
    AList.getD (t.func f).vectors n Vector'.fresh = { x with pend := x.pend && x.masked } ∧
      t.out = s.out ++ (if x.pend && !x.masked then [.msix f n] else [])))

/-- Draining takes the next entry out of its mailbox and gives it its effect. ADMIN_SQ_TAIL and ADMIN_CQ_HEAD set the tail and the head that were written;
ADMIN_QUEUE_ENABLE and ADMIN_QUEUE_DISABLE start the admin queue with empty rings and stop it once its fetched commands have completed; SPARE_SWITCH_REQUEST asks for
the free spare core; REGISTER_WRITE writes the selectors, the power cap and the event register that the clauses name. -/
def Obligations.DrainsGiveEffect : Prop :=
  ∀ (s : State) (f : Nat) (e : MboxEntry), s.nextEntry = some (f, e) →
    (s.drainRow f e = .adminTail → (s.func f).admin.enable = true → (s.func f).admin.running = true → (s.func f).admin.error = false →
      e.val.toNat % 65536 ≤ (s.func f).admin.depthM1.toNat → ∃ t, exec .adminSqTail s = .next t ∧ (t.func f).mbox = (s.func f).mbox.tail ∧
        (t.func f).admin = { (s.func f).admin with sqTail := e.val.toNat % 65536, since :=
          if (s.func f).admin.sqHead = (s.func f).admin.sqTail then s.boot.timer else (s.func f).admin.since } ∧ t.queues = s.queues) ∧
    (s.drainRow f e = .adminHead → (s.func f).admin.running = true → (s.func f).admin.error = false → (s.func f).admin.held = [] →
      headOk ((s.func f).admin.depthM1.toNat + 1) (s.func f).admin.cqHead (s.func f).admin.cqTail (e.val.toNat % 65536) = true →
      ∃ t, exec .adminCqHead s = .next t ∧ (t.func f).mbox = (s.func f).mbox.tail ∧
        (t.func f).admin = { (s.func f).admin with cqHead := e.val.toNat % 65536 } ∧ t.queues = s.queues) ∧
    (s.drainRow f e = .adminOn → (s.func f).admin.enable = false → (s.func f).admin.held = [] → 63 ≤ e.val.toNat % 65536 →
      ∃ t, exec .adminQueueEnable s = .next t ∧ (t.func f).mbox = (s.func f).mbox.tail ∧
        (t.func f).admin = { (s.func f).admin with
          depthM1 := BitVec.ofNat 16 e.val.toNat, enable := true, running := true, error := false, cause := 0,
          sqHead := 0, sqTail := 0, cqHead := 0, cqTail := 0, phase := true } ∧ t.queues = s.queues) ∧
    (s.drainRow f e = .adminOff → (s.func f).admin.enable = true → ∃ t, exec .adminQueueDisable s = .next t ∧ (t.func f).mbox = (s.func f).mbox.tail ∧
        (t.func f).admin = { (s.func f).admin with
          enable := false, running := (s.func f).admin.running && s.cmds.list.any (fun c => c.q == .admin f) } ∧ t.queues = s.queues) ∧
    (s.drainRow f e = .spare → s.sparing.usable = true → s.sparing.busy = none → s.sparing.wanted = none → s.carried 8 = none →
      ∃ t, exec .spareSwitchRequest s = .next t ∧ (t.func f).mbox = (s.func f).mbox.tail ∧
        t.sparing = { s.sparing with wanted := some (e.val.toNat % 8) } ∧ t.lcores = s.lcores) ∧
    (s.drainRow f e = .register → ∃ t, exec .registerWrite s = .next t ∧ (t.func f).mbox = (s.func f).mbox.tail ∧ t.queues = s.queues ∧
      t.cmds = s.cmds ∧ t.dram = s.dram ∧ t.nv = s.nv ∧ t.params = s.params ∧
      (e.off = 0x1020 → (t.func f).queueSel = BitVec.ofNat 15 e.val.toNat) ∧ (e.off = 0x2000 → (t.func f).ctxSel = BitVec.ofNat 12 e.val.toNat) ∧
      (f = 0 → e.off = 0x5040 → t.pf.dramChSel = BitVec.ofNat 5 e.val.toNat) ∧ (f = 0 → e.off = 0x9008 → t.power.capMw = BitVec.ofNat 17 e.val.toNat) ∧
      (f = 0 → e.off = 0x505C → t.pf.dramEv = s.pf.dramEv.clear e.val.toNat e.stamp))

/- Commands on queues. -/

/-- INVALID_OPCODE: an opcode outside the table, or on the wrong kind of queue, is answered with ST_BAD_OPCODE and nothing else. The checks of an entry answer
before its row does anything: CTX_RESET, CTX_DESTROY, QP_CREATE, QP_DELETE and CAIRN_SET on what belongs to another function with ST_NOT_PERMITTED, and reserved fields or
an opcode of the PF with the status that R351 gives them.
COMMAND_FETCH: a grant of the dispatch arbiter takes the entry at the queue's head into the fetch order, and the commands before it stay as they are; a read that expires or
is poisoned stops its queue.
The arbiter's grant is State.arbitrate (notes/assumptions/15.md). -/
def Obligations.FetchAndRefusal : Prop :=
  (∀ (s : State) (fid : Nat) (c : Cmd), s.cmds.find fid = some c → s.commandsRun = true → c.stage = .fetched → c.opcodeOk = false →
    exec (.invalidOpcode fid) s = .next (s.complete fid stBadOpcode c.refused)) ∧
  (∀ (s : State) (fid : Nat) (c : Cmd), s.cmds.find fid = some c → s.commandsRun = true → c.stage = .fetched → c.opcodeOk = true → s.permits c = false →
    (c.opcode = 0x81 → exec (.ctxReset fid) s = .next (s.complete fid stNotPermitted c.refused)) ∧
    (c.opcode = 0x82 → exec (.ctxDestroy fid) s = .next (s.complete fid stNotPermitted c.refused)) ∧
    (c.opcode = 0x83 → exec (.qpCreate fid) s = .next (s.complete fid stNotPermitted c.refused)) ∧
    (c.opcode = 0x84 → exec (.qpDelete fid) s = .next (s.complete fid stNotPermitted c.refused)) ∧
    (c.opcode = 0x96 → exec (.cairnSet fid) s = .next (s.complete fid stNotPermitted c.refused))) ∧
  (∀ (s : State) (fid own st : Nat) (c : Cmd), s.cmds.find fid = some c → s.commandsRun = true → c.stage = .fetched → c.opcodeOk = true →
    s.permits c = true → c.precheck own = some st →
    (c.opcode = 0x09 → own = stBadField → exec (.streamPause fid) s = .next (s.complete fid st c.refused)) ∧
    (c.opcode = 0x08 → own = stStreamBadArgs → exec (.streamOpen fid) s = .next (s.complete fid st c.refused)) ∧
    (c.opcode = 0x28 → own = stBadField → exec (.windowOpen fid) s = .next (s.complete fid st c.refused)) ∧
    (c.opcode = 0x80 → own = stBadField → exec (.ctxCreate fid) s = .next (s.complete fid st c.refused)) ∧
    (c.opcode = 0x91 → own = stBadField → exec (.fwActivate fid) s = .next (s.complete fid st c.refused))) ∧
  (∀ (s : State) (b : Bytes) (x : FetchCand) (cls used : Nat), s.fetches = true → s.arbitrate = some (x, cls, used) → (∀ p ∈ s.ctxs, p.2.replay.active = false) →
    ∃ t c, exec (.commandFetch (.ok b)) s = .next t ∧ t.cmds.list = s.cmds.list ++ [c] ∧ t.cmds.next = s.cmds.next + 1 ∧ c.fid = s.cmds.next ∧
      c.q = keyQueue x.key ∧ c.entry = fixLen 64 b ∧ c.stage = .fetched ∧ t.steps.wrrClass = cls ∧ t.steps.wrrUsed = used ∧
      t.steps.list = s.steps.list ∧ t.ctxs = s.ctxs ∧ t.dram = s.dram ∧ t.out = s.out) ∧
  (∀ (s : State) (r : HostRead) (x : FetchCand) (cls used : Nat), s.fetches = true → s.arbitrate = some (x, cls, used) → r = .expired ∨ r = .poisoned →
    ∃ t, exec (.commandFetch r) s = .next t ∧ t.cmds.next = s.cmds.next ∧ t.dram = s.dram ∧
      (∀ f, keyQueue x.key = .admin f → (t.func f).admin.error = true ∧ (t.func f).admin.running = false) ∧
      (∀ n q, keyQueue x.key = .pair n → s.queues.get? n = some q → (t.queues.get? n).map (fun y => y.state) = some .error))

/-- A command that waits for earlier ones is set aside (here STREAM_PAUSE), and COMMAND_TAKES_EFFECT gives it its effect when its turn comes, and leaves it where it
must still wait.
Which commands wait beyond R183 and R194 is the model's reading (notes/assumptions/14.md). -/
def Obligations.DeferredCommands : Prop :=
  (∀ (s : State) (fid : Nat) (c : Cmd), s.cmds.find fid = some c → s.commandsRun = true → c.opcode = 0x09 → c.opcodeOk = true → c.stage = .fetched →
    s.permits c = true → c.precheck stBadField = none → s.mustWait c = true → exec (.streamPause fid) s = .next { s with
      cmds := { s.cmds with list := s.cmds.list.map (fun x => if x.fid = fid then { x with stage := .deferred } else x) } }) ∧
  (∀ (s : State) (fid : Nat) (c : Cmd) (x : Strm), s.cmds.find fid = some c → s.commandsRun = true → c.opcode = 0x09 → c.opcodeOk = true → c.stage = .deferred →
    s.mustWait c = false → s.cmdStrm c = some x → exec (.commandTakesEffect fid) s = .next
      (({ s with strms := s.strms.upd (c.fld 8 2) (fun y => { y with paused := true }) } : State).complete fid stOk [])) ∧
  (∀ (s : State) (fid : Nat) (c : Cmd), s.cmds.find fid = some c → s.mustWait c = true → exec (.commandTakesEffect fid) s = .next s)

/-- STREAM_OPEN writes the entry at the lowest free index of the context's reservation and answers the index; STREAM_PAUSE, STREAM_RESUME and STREAM_RESET change one bit;
STREAM_CLOSE removes the entry; STREAM_QUERY answers it; each leaves every other entry as it is, and an index that the context does not hold is refused. -/
def Obligations.StreamCommands : Prop :=
  (∀ (s : State) (fid i : Nat) (c : Cmd) (k : Ctx), s.CmdReady fid 0x08 stStreamBadArgs c → s.strmArgsOk c.newStrm = true → s.ctx c.ctxNo = some k →
    s.strms.firstFree k.first (k.first + k.size) = some i → exec (.streamOpen fid) s = .next
      ((({ s with strms := s.strms.set i c.newStrm } : State).bindSeq c.ctxNo c.newStrm.kvSeq (· + 1)).complete fid stOk (toLe i 2))) ∧
  (∀ (s : State) (fid : Nat) (c : Cmd), s.CmdReady fid 0x08 stStreamBadArgs c → s.strmArgsOk c.newStrm = false →
    exec (.streamOpen fid) s = .next (s.complete fid stStreamBadArgs c.refused)) ∧
  (∀ (s : State) (fid : Nat) (c : Cmd) (x : Strm), s.cmdStrm c = some x →
    (s.CmdReady fid 0x09 stBadField c → exec (.streamPause fid) s = .next
      (({ s with strms := s.strms.upd (c.fld 8 2) (fun y => { y with paused := true }) } : State).complete fid stOk [])) ∧
    (s.CmdReady fid 0x0A stBadField c → exec (.streamResume fid) s = .next
      (({ s with strms := s.strms.upd (c.fld 8 2) (fun y => { y with paused := false }) } : State).complete fid stOk [])) ∧
    (s.CmdReady fid 0x0B stBadField c → exec (.streamReset fid) s = .next
      (({ s with strms := s.strms.upd (c.fld 8 2) (fun y => { y with resetPending := true }) } : State).complete fid stOk [])) ∧
    (s.CmdReady fid 0x0C stBadField c → exec (.streamClose fid) s = .next
      ((({ s with strms := s.strms.erase (c.fld 8 2) } : State).bindSeq c.ctxNo x.kvSeq (· - 1)).complete fid stOk [])) ∧
    (s.CmdReady fid 0x0D stBadField c → exec (.streamQuery fid) s = .next (s.complete fid stOk (resultAt [(16, x.bytes)])))) ∧
  (∀ (s : State) (fid : Nat) (c : Cmd), s.cmdStrm c = none →
    (s.CmdReady fid 0x09 stBadField c → exec (.streamPause fid) s = .next (s.complete fid stStreamInvalid c.refused)) ∧
    (s.CmdReady fid 0x0A stBadField c → exec (.streamResume fid) s = .next (s.complete fid stStreamInvalid c.refused)) ∧
    (s.CmdReady fid 0x0B stBadField c → exec (.streamReset fid) s = .next (s.complete fid stStreamInvalid c.refused)) ∧
    (s.CmdReady fid 0x0C stBadField c → exec (.streamClose fid) s = .next (s.complete fid stStreamInvalid c.refused)) ∧
    (s.CmdReady fid 0x0D stBadField c → exec (.streamQuery fid) s = .next (s.complete fid stStreamInvalid c.refused)))

/-- KV_POOL_CREATE makes a pool when its arguments hold and the guarantee has room; KV_POOL_DESTROY removes it, and gives its charge back, when no sequence of it is open,
and is refused while one is. -/
def Obligations.KvPoolCommands : Prop :=
  (∀ (s t : State) (fid : Nat) (c : Cmd), s.CmdReady fid 0x10 stBadField c → c.newPool.argsOk = true → s.kv? c.ctxNo = none →
    s.claimTiles c.ctxNo chargeKv c.newPool.metaTiles = .ok t → exec (.kvPoolCreate fid) s = .next
      ((t.modCtx c.ctxNo (fun x => { x with kv := some c.newPool })).complete fid stOk [])) ∧
  (∀ (s : State) (fid : Nat) (c : Cmd) (k : KvPool), s.CmdReady fid 0x11 stBadField c → s.kv? c.ctxNo = some k →
    exec (.kvPoolDestroy fid) s = .next (if k.seqs = [] then
      ((s.modCtx c.ctxNo (fun x => { x with kv := none })).dropCharge c.ctxNo chargeKv).complete fid stOk []
    else s.complete fid stKvSeqBound []))

/-- KV_SEQ_OPEN places an empty record and its list run; KV_SEQ_FORK of a prefix of which no page has the highest count shares every page of it with one more count;
KV_SEQ_TRUNCATE and KV_SEQ_CLOSE drop the entries behind, and closing a bound sequence is refused; KV_SEQ_QUERY answers the record. A fork that meets a page of the highest
count and finds no free page for the copy is refused, and the pool stays as it was. -/
def Obligations.KvSequenceCommands : Prop :=
  (∀ (s : State) (fid r b : Nat) (c : Cmd) (k : KvPool), s.CmdReady fid 0x12 stBadField c → s.kv? c.ctxNo = some k → k.place (c.fld 8 4) = some (r, b) →
    exec (.kvSeqOpen fid) s = .next ((s.modKv c.ctxNo (fun x => { x with
      seqs := x.seqs.set r { length := 0, base := b, groups := c.fld 8 4, binds := 0 } })).complete fid stOk (toLe r 4))) ∧
  (∀ (s : State) (fid r b : Nat) (c : Cmd) (k : KvPool) (src : SeqRec), s.CmdReady fid 0x13 stBadField c → s.kv? c.ctxNo = some k →
    k.seqs.get? (c.fld 8 4) = some src → c.fld 12 4 ≤ src.length → cdiv (c.fld 12 4) k.p ≤ c.fld 16 4 → k.place (c.fld 16 4) = some (r, b) → c.fork = none →
    (∀ e ∈ k.sharedEntries src (cdiv (c.fld 12 4) k.p), AList.getD k.counts e.2 0 < 65535) → exec (.kvSeqFork fid) s = .next ((s.modKv c.ctxNo (fun x => { x with
      seqs := x.seqs.set r { length := c.fld 12 4, base := b, groups := c.fld 16 4, binds := 0 },
      list := (k.sharedEntries src (cdiv (c.fld 12 4) k.p)).foldl (fun (l : AList Nat) (e : Nat × Nat) => l.set (b + e.1) e.2) x.list,
      counts := (k.sharedEntries src (cdiv (c.fld 12 4) k.p)).foldl (fun (l : AList Nat) (e : Nat × Nat) => l.set e.2 (AList.getD l e.2 0 + 1)) x.counts })).complete
        fid stOk (toLe r 4))) ∧
  (∀ (s : State) (fid r b : Nat) (c : Cmd) (k : KvPool) (src : SeqRec), s.CmdReady fid 0x13 stBadField c → s.kv? c.ctxNo = some k →
    k.seqs.get? (c.fld 8 4) = some src → c.fld 12 4 ≤ src.length → cdiv (c.fld 12 4) k.p ≤ c.fld 16 4 → k.place (c.fld 16 4) = some (r, b) → c.fork = none →
    k.freePages + k.limbo.length < ((k.sharedEntries src (cdiv (c.fld 12 4) k.p)).filter (fun e => 65535 ≤ AList.getD k.counts e.2 0)).length →
    ∃ t, exec (.kvSeqFork fid) s = .next t ∧ t.cmds.find fid = none ∧ t.kv? c.ctxNo = some k ∧ t.dram = s.dram) ∧
  (∀ (s : State) (fid : Nat) (c : Cmd) (k : KvPool) (r : SeqRec), s.kv? c.ctxNo = some k → k.seqs.get? (c.fld 8 4) = some r →
    (s.CmdReady fid 0x14 stBadField c → c.fld 12 4 ≤ r.length → exec (.kvSeqTruncate fid) s = .next ((s.modKv c.ctxNo (fun x =>
      { x.cut r (cdiv (c.fld 12 4) x.p) with seqs := (x.cut r (cdiv (c.fld 12 4) x.p)).seqs.set (c.fld 8 4) { r with length := c.fld 12 4 } })).complete fid stOk [])) ∧
    (s.CmdReady fid 0x15 stBadField c → r.binds = 0 → exec (.kvSeqClose fid) s = .next ((s.modKv c.ctxNo (fun x =>
      { x.cut r 0 with seqs := (x.cut r 0).seqs.erase (c.fld 8 4) })).complete fid stOk [])) ∧
    (s.CmdReady fid 0x15 stBadField c → r.binds ≠ 0 → exec (.kvSeqClose fid) s = .next (s.complete fid stKvSeqBound c.refused)) ∧
    (s.CmdReady fid 0x16 stBadField c → exec (.kvSeqQuery fid) s = .next (s.complete fid stOk (resultAt [(16, r.bytes)]))))

/- Segments, models and windows. -/

/-- SEG_MAP of kind HOST maps its range at once, and of kind DRAM takes a frame to be zeroed for each segment and goes on running; a range that overlaps a mapped one is refused.
SEG_UNMAP of HOST segments removes the range, and of a range with MODEL segments is refused; SEG_ATTR sets the STREAM bit of mapped MODEL segments and refuses other ranges;
SEG_QUERY answers the entry, or zeros for a segment that is not mapped. -/
def Obligations.SegmentCommands : Prop :=
  (∀ (s t : State) (fid : Nat) (c : Cmd) (x : Ctx), s.CmdReady fid 0x18 stBadField c → c.fld 12 4 ≠ 0 → c.fld 16 1 % 8 = 4 → c.fld 8 4 + c.fld 12 4 ≤ 2 ^ 27 →
    s.ctx c.ctxNo = some x → x.segsIn (c.fld 8 4) (c.fld 12 4) = [] → x.segs.length + c.fld 12 4 ≤ 2 ^ 20 →
    s.mapSegs c.ctxNo 0 ((List.range (c.fld 12 4)).map (fun i => (i + c.fld 8 4, c.newSeg x.confidential i (c.fld 18 2) 0))) = .ok t →
    exec (.segMap fid) s = .next (t.complete fid stOk [])) ∧
  (∀ (s : State) (fid : Nat) (c : Cmd) (x : Ctx), s.CmdReady fid 0x18 stBadField c → c.fld 12 4 ≠ 0 → c.fld 16 1 % 8 ∈ [1, 2, 4] →
    c.fld 8 4 + c.fld 12 4 ≤ 2 ^ 27 → s.ctx c.ctxNo = some x → x.segsIn (c.fld 8 4) (c.fld 12 4) ≠ [] →
    exec (.segMap fid) s = .next (s.complete fid stSegBusy c.refused)) ∧
  (∀ (s t u : State) (fid : Nat) (c : Cmd) (x : Ctx) (fs : List (Nat × Nat)), s.CmdReady fid 0x18 stBadField c → c.fld 12 4 ≠ 0 → c.fld 16 1 % 8 = 1 →
    c.fld 8 4 + c.fld 12 4 ≤ 2 ^ 27 → s.ctx c.ctxNo = some x → x.segsIn (c.fld 8 4) (c.fld 12 4) = [] → x.segs.length + c.fld 12 4 ≤ 2 ^ 20 →
    s.mapSegs c.ctxNo (c.fld 12 4) ((List.range (c.fld 12 4)).map (fun i => (i + c.fld 8 4, c.newSeg x.confidential i 0 0))) = .ok t →
    t.takeFrames c.ctxNo ((List.range (c.fld 12 4)).map (· + c.fld 8 4)) = some (u, fs) → ∃ v d, exec (.segMap fid) s = .next v ∧ v.cmds.find fid = some d ∧
      d.stage = .running ∧ v.tier = u.tier ∧ v.dram = u.dram ∧ v.boot = s.boot ∧ v.strms = s.strms ∧
      (∀ p ∈ fs, v.tier.frames.get? p.2 = some (.zeroing (some (c.ctxNo, p.1))))) ∧
  (∀ (s : State) (fid : Nat) (c : Cmd) (x : Ctx), s.CmdReady fid 0x19 stBadField c → s.ctx c.ctxNo = some x →
    (∃ p ∈ x.segsIn (c.fld 8 4) (c.fld 12 4), p.2.kind = .model) → exec (.segUnmap fid) s = .next (s.complete fid stSegBusy c.refused)) ∧
  (∀ (s : State) (fid : Nat) (c : Cmd) (x : Ctx), s.CmdReady fid 0x19 stBadField c → s.ctx c.ctxNo = some x → (∀ p ∈ x.segsIn (c.fld 8 4) (c.fld 12 4), p.2.kind = .host) → (∀ p ∈ x.segs, ∀ i ∈ p.2.tiles, i.kept = false) →
    ∃ u : State, exec (.segUnmap fid) s = .next (u.complete fid stOk []) ∧ u.cmds = s.cmds ∧ u.boot = s.boot ∧ u.strms = s.strms ∧ u.images = s.images ∧
      (u.ctx c.ctxNo).map (fun y => y.segs) = some (x.segs.filter (fun p => !(decide (c.fld 8 4 ≤ p.1) && decide (p.1 < c.fld 8 4 + c.fld 12 4))))) ∧
  (∀ (s : State) (fid : Nat) (c : Cmd) (x : Ctx), s.CmdReady fid 0x1A stBadField c → c.fld 12 4 ≠ 0 → c.fld 8 4 + c.fld 12 4 ≤ 2 ^ 27 →
    s.ctx c.ctxNo = some x → (x.segsIn (c.fld 8 4) (c.fld 12 4)).length = c.fld 12 4 → (∀ p ∈ x.segsIn (c.fld 8 4) (c.fld 12 4), p.2.kind = .model) →
    exec (.segAttr fid) s = .next (((x.segsIn (c.fld 8 4) (c.fld 12 4)).foldl (fun (t : State) p => t.modSeg c.ctxNo p.1
      (fun g => { g with stream := (c.fld 16 1).testBit 0 })) s).complete fid stOk c.refused)) ∧
  (∀ (s : State) (fid : Nat) (c : Cmd) (x : Ctx), s.CmdReady fid 0x1A stBadField c → s.ctx c.ctxNo = some x →
    c.fld 12 4 = 0 ∨ 2 ^ 27 < c.fld 8 4 + c.fld 12 4 ∨ (∃ p ∈ x.segsIn (c.fld 8 4) (c.fld 12 4), p.2.kind ≠ .model) →
    exec (.segAttr fid) s = .next (s.complete fid stSegBadArgs c.refused)) ∧
  (∀ (s : State) (fid : Nat) (c : Cmd), s.CmdReady fid 0x1B stBadField c →
    exec (.segQuery fid) s = .next (s.complete fid stOk (resultAt [(16, match s.seg c.ctxNo (c.fld 8 4) with
      | some g => g.bytes c.func
      | none => List.replicate 16 0#8)])))

/-- MODEL_ATTACH maps the object's segments and names its context, and refuses an object that is attached, or damaged; MODEL_DETACH of tiles that nothing pins or moves
unmaps them; MODEL_REMOVE takes the object away and unmaps the flash pages of its units, and refuses an attached one; MODEL_QUERY answers its size, serial and state.
MODEL_INSTALL, where the flash takes programs, changes the objects in no way, or completes and makes a new one of the submitting function under the next serial.
The object number is the model's choice (notes/assumptions/24.md). -/
def Obligations.ModelCommands : Prop :=
  (∀ (s t : State) (fid : Nat) (c : Cmd) (m : Model) (x : Ctx), s.CmdReady fid 0x21 stBadField c → s.ownModel c = some m → m.tag = c.fld 16 8 →
    s.ctx c.ctxNo = some x → m.attached = none → m.damaged = false → m.prot = x.confidential → c.fld 24 4 + m.segs ≤ 2 ^ 27 →
    x.segsIn (c.fld 24 4) m.segs = [] → x.segs.length + m.segs ≤ 2 ^ 20 → s.mapSegs c.ctxNo 0 (m.segsAt (c.fld 8 2) (c.fld 24 4)) = .ok t →
    ∃ u, exec (.modelAttach fid) s = .next u ∧ u.cmds.find fid = none ∧ u.flash = t.flash ∧ u.dram = t.dram ∧ u.boot = s.boot ∧
      u.nv.models = t.nv.models.upd (c.fld 8 2) (fun y => { y with attached := some c.ctxNo })) ∧
  (∀ (s : State) (fid : Nat) (c : Cmd) (m : Model), s.CmdReady fid 0x21 stBadField c → s.ownModel c = some m → m.tag = c.fld 16 8 →
    (s.ctx c.ctxNo).isSome = true → m.damaged = false → m.attached ≠ none → exec (.modelAttach fid) s = .next (s.complete fid stModelBusy c.refused)) ∧
  (∀ (s : State) (fid : Nat) (c : Cmd) (m : Model), s.CmdReady fid 0x21 stBadField c → s.ownModel c = some m → m.tag = c.fld 16 8 →
    (s.ctx c.ctxNo).isSome = true → m.damaged = true → exec (.modelAttach fid) s = .next (s.complete fid stModelDamaged c.refused)) ∧
  (∀ (s : State) (fid : Nat) (c : Cmd) (m : Model) (x : Ctx), s.CmdReady fid 0x22 stBadField c → s.ownModel c = some m → m.attached = c.ctx →
    s.ctx c.ctxNo = some x → (∀ p ∈ x.segs, ∀ i ∈ p.2.tiles, i.kept = false) → ∃ u, exec (.modelDetach fid) s = .next u ∧ u.cmds.find fid = none ∧
      u.boot = s.boot ∧ u.params = s.params ∧ u.strms = s.strms ∧ (∀ y, u.nv.models.get? (c.fld 8 2) = some y → y.attached = none)) ∧
  (∀ (s : State) (fid : Nat) (c : Cmd) (m : Model), s.CmdReady fid 0x23 stBadField c → s.ownModel c = some m → m.tag = c.fld 16 8 →
    m.attached = none → ∃ u, exec (.modelRemove fid) s = .next u ∧ u.cmds.find fid = none ∧ u.nv.models = s.nv.models.erase (c.fld 8 2) ∧
      u.flash = s.flash.unmap ((s.flash.map.filter (fun p => m.units.contains (p.1 / 128))).map (·.1)) ∧
      u.boot = s.boot ∧ u.dram = s.dram) ∧
  (∀ (s : State) (fid : Nat) (c : Cmd) (m : Model), s.CmdReady fid 0x23 stBadField c → s.ownModel c = some m → m.tag = c.fld 16 8 →
    m.attached ≠ none → exec (.modelRemove fid) s = .next (s.complete fid stModelBusy c.refused)) ∧
  (∀ (s : State) (fid : Nat) (c : Cmd) (m : Model), s.CmdReady fid 0x24 stBadField c → s.ownModel c = some m → exec (.modelQuery fid) s = .next
    (s.complete fid stOk (resultAt [(16, toLe m.segs 4 ++ toLe m.serial 4 ++ toLe (b2n m.damaged + 2 * b2n m.attached.isSome) 1)]))) ∧
  (∀ (s : State) (fid : Nat) (c : Cmd) (r : HostRead), s.CmdReady fid 0x20 stBadField c → s.flash.blocked = false → s.flash.paused = false → ∃ u,
    exec (.modelInstall fid r) s = .next u ∧ u.boot = s.boot ∧ u.params = s.params ∧ u.strms = s.strms ∧ u.images = s.images ∧
      (u.nv.models = s.nv.models ∧ u.nv.nextSerial = s.nv.nextSerial ∨ u.cmds.find fid = none ∧ u.nv.nextSerial = s.nv.nextSerial + 1 ∧
        ∃ id m, s.nv.models.get? id = none ∧ u.nv.models = s.nv.models.set id m ∧ m.serial = s.nv.nextSerial ∧ m.func = c.func ∧ m.tag = c.fld 32 8 ∧
          m.attached = none ∧ m.damaged = false))

/-- WINDOW_OPEN gives the context the lowest free number over an aligned run of host addresses, and refuses a run that is not; WINDOW_CLOSE removes the window, after it has
ended a replay capture into it, and refuses a number that is not open. -/
def Obligations.WindowCommands : Prop :=
  (∀ (s : State) (fid w : Nat) (c : Cmd) (x : Ctx), s.CmdReady fid 0x28 stBadField c → s.ctx c.ctxNo = some x → x.windows.firstFree 0 1024 = some w →
    (s.ctxs.map (fun y => y.2.windows.length)).sum < 16384 → c.fld 8 8 % 64 = 0 → c.fld 16 8 % 64 = 0 → 64 ≤ c.fld 16 8 → c.fld 8 8 + c.fld 16 8 ≤ 2 ^ 64 →
    exec (.windowOpen fid) s = .next ((s.modCtx c.ctxNo (fun y => { y with windows := y.windows.set w ⟨c.fld 8 8, c.fld 16 8,
      if (c.fld 24 3).testBit 20 then some (c.fld 24 3 % 2 ^ 20) else none⟩ })).complete fid stOk (toLe w 2))) ∧
  (∀ (s : State) (fid : Nat) (c : Cmd), s.CmdReady fid 0x28 stBadField c →
    c.fld 8 8 % 64 ≠ 0 ∨ c.fld 16 8 % 64 ≠ 0 ∨ c.fld 16 8 < 64 ∨ 2 ^ 64 < c.fld 8 8 + c.fld 16 8 →
    exec (.windowOpen fid) s = .next (s.complete fid stWindowBadArgs c.refused)) ∧
  (∀ (s : State) (fid : Nat) (c : Cmd) (x : Ctx), s.CmdReady fid 0x29 stBadField c → s.ctx c.ctxNo = some x → x.windows.has (c.fld 8 2) = true →
    exec (.windowClose fid) s = .next (((if x.replay.active = true ∧ x.replay.win = c.fld 8 2 then s.replayEnd c.ctxNo 3 else s).modCtx c.ctxNo (fun y => { y with
      windows := y.windows.erase (c.fld 8 2) })).complete fid stOk [])) ∧
  (∀ (s : State) (fid : Nat) (c : Cmd) (x : Ctx), s.CmdReady fid 0x29 stBadField c → s.ctx c.ctxNo = some x → x.windows.has (c.fld 8 2) = false →
    exec (.windowClose fid) s = .next (s.complete fid stWindowInvalid c.refused))

/- Images, steps and contexts. -/

/-- SCHED_LOAD of an image that its window reads give and that passes every check answers a handle of the lowest free slot and its generation, and the image stands there and in
the context's DRAM; a length below 64 is refused with ADM_BAD_IMAGE. SCHED_UNLOAD takes the image of a handle away and moves its slot to the next generation; a handle that is
not one of the context's is refused.
That the handle slot is the lowest free one is the model's choice (notes/assumptions/24.md). -/
def Obligations.ScheduleCommands : Prop :=
  (∀ (s : State) (fid : Nat) (c : Cmd) (r : HostRead), s.CmdReady fid 0x02 stBadField c → 0 < s.freeTags → c.fld 24 4 < 64 →
    exec (.schedLoad fid r) s = .next (s.loadRefused c (ImgErr.plain 0x40))) ∧
  (∀ (s t u v : State) (fid slot : Nat) (c : Cmd) (r : HostRead) (h w : WinRead) (x : Ctx) (hd b : Bytes) (counters : AList Nat) (gens : List Nat),
    s.CmdReady fid 0x02 stBadField c → 0 < s.freeTags → 64 ≤ c.fld 24 4 → h = s.winRead c.ctxNo (c.fld 8 2) (c.fld 16 8) 64 none r → h.data = some hd →
    64 ≤ leAt hd 8 4 → leAt hd 8 4 ≤ c.fld 24 4 → leAt hd 8 4 ≤ 268435456 → w = h.s.winRead c.ctxNo (c.fld 8 2) (c.fld 16 8) (leAt hd 8 4) none r → w.data = some b →
    t = w.s.countViol c.ctxNo w.viol → t.heldRecords c.ctxNo = [] → check1 b (c.fld 24 4) = none → t.ctx c.ctxNo = some x →
    t.images.freeSlot = some slot → (t.images.imgs.filter (fun p => p.2.ctx == c.ctxNo)).length < 64 → t.deniedCore x (parseImage b) = none →
    checks4to9 b (x.residents.map (fun e => (e.1, (e.2.first, e.2.rows)))) = none → t.scratchTaken c.ctxNo (parseImage b) = none →
    t.assignCounters (parseImage b) = .ok counters → t.holdTables (parseImage b).refs 0 = .ok (u, gens) → (parseImage b).maxBatch ≤ x.size →
    u.claimTiles c.ctxNo (chargeImage slot) ((parseImage b).tiles + (parseImage b).workspace) = .ok v → ∃ z i, exec (.schedLoad fid r) s = .next z ∧
      z.cmds.find fid = none ∧ z.images.imgs.get? slot = some i ∧ i.ctx = c.ctxNo ∧ i.gen = AList.getD t.images.nextGen slot 0 ∧ i.counterOf = counters ∧
      i.gens = gens ∧ (z.imgCopy c.ctxNo slot).isSome = true ∧ z.strms = s.strms ∧ z.boot = s.boot) ∧
  (∀ (s : State) (fid : Nat) (c : Cmd) (i : Image), s.CmdReady fid 0x03 stBadField c → s.ownImage c = some i → ∃ t, exec (.schedUnload fid) s = .next t ∧
    t.cmds.find fid = none ∧ t.images.imgs = s.images.imgs.erase (c.fld 8 4 % 8192) ∧
    t.images.nextGen = s.images.nextGen.set (c.fld 8 4 % 8192) (i.gen + 1) ∧ t.imgCopy i.ctx (c.fld 8 4 % 8192) = none ∧ t.strms = s.strms ∧ t.boot = s.boot ∧
    ((∀ x, s.ctx i.ctx = some x → ∀ k ∈ x.copies.keys, k = c.fld 8 4 % 8192) → t.dram = s.dram)) ∧
  (∀ (s : State) (fid : Nat) (c : Cmd), s.CmdReady fid 0x03 stBadField c → s.ownImage c = none →
    exec (.schedUnload fid) s = .next (s.complete fid stBadHandle c.refused))

/-- SUBMIT_STEP: a submission whose token read succeeds and that passes its checks in order waits as the next step, with its batch, its streams, tokens, cores and windows; the
checks on the handle, the context, the batch, the token count, the streams and their pauses answer their statuses.
That each stream owns TOKENS_PER_STREAM descriptors that follow one another is the model's reading (notes/assumptions/25.md). -/
def Obligations.SubmitStep : Prop :=
  (∀ (s t : State) (fid : Nat) (c : Cmd) (i : Image) (x : Ctx) (r : HostRead) (w : WinRead) (b : Bytes), s.CmdReady fid 0x01 stBadField c → 0 < s.freeTags →
    s.ownImage c = some i → s.ctx c.ctxNo = some x → x.state ≠ 2 → c.fld 12 2 ≠ 0 → c.fld 12 2 ≤ i.maxBatch → c.fld 16 4 = c.fld 12 2 * i.tps →
    w = s.winRead c.ctxNo (c.fld 20 2) (c.fld 24 8) (16 * c.fld 16 4) (some (s.seqAhead c.ctxNo)) r → w.data = some b → t = w.s.countViol c.ctxNo w.viol →
    (∀ streams, batchStreams (readTokens b (c.fld 16 4)) (c.fld 12 2) i.tps = some streams → (∀ n ∈ streams, t.strmOk c.ctxNo i n = true) →
      (∀ n ∈ streams, ∀ y, t.strms.get? n = some y → y.blocks i = (false, false, false)) → ∃ u d, exec (.submitStep fid r) s = .next u ∧
        u.steps.list = t.steps.list.set t.steps.next d ∧ u.steps.next = t.steps.next + 1 ∧ d.fid = c.fid ∧ d.ctx = c.ctxNo ∧ d.stage = .waiting ∧
        d.streams = streams ∧ d.tokens = readTokens b (c.fld 16 4) ∧ d.handle = c.fld 8 4 % 8192 ∧ d.b = c.fld 12 2 ∧ d.cores = i.cores ∧
        d.outWin = c.fld 40 2 ∧ d.outOff = c.fld 48 8 ∧ u.strms = s.strms ∧ u.images = s.images ∧ u.pcores = s.pcores ∧ u.ctxs = t.ctxs ∧ u.out = t.out) ∧
    (batchStreams (readTokens b (c.fld 16 4)) (c.fld 12 2) i.tps = none → exec (.submitStep fid r) s = .next (t.complete fid stTokenCount c.refused)) ∧
    (∀ streams, batchStreams (readTokens b (c.fld 16 4)) (c.fld 12 2) i.tps = some streams → (∃ n ∈ streams, t.strmOk c.ctxNo i n = false) →
      exec (.submitStep fid r) s = .next (t.complete fid stStreamInvalid c.refused)) ∧
    (∀ streams, batchStreams (readTokens b (c.fld 16 4)) (c.fld 12 2) i.tps = some streams → (∀ n ∈ streams, t.strmOk c.ctxNo i n = true) →
      (t.pausedCheck c.ctxNo i streams).2 = true →
      exec (.submitStep fid r) s = .next ((t.pausedCheck c.ctxNo i streams).1.complete fid stStreamPaused c.refused))) ∧
  (∀ (s : State) (c : Cmd) (x : Ctx) (w : Window) (n : Nat) (b : Bytes), s.ctx c.ctxNo = some x → x.confidential = false → x.window? (c.fld 20 2) = some w →
    c.fld 24 8 + n ≤ w.len → b.length = n → s.linkOpen = true → ∃ r, s.winRead c.ctxNo (c.fld 20 2) (c.fld 24 8) n (some (s.seqAhead c.ctxNo)) (.ok b) = r ∧
      r.data = some b ∧ r.s = s ∧ r.viol = 0) ∧
  (∀ (s : State) (fid : Nat) (c : Cmd) (r : HostRead), s.CmdReady fid 0x01 stBadField c → 0 < s.freeTags → s.ownImage c = none →
    exec (.submitStep fid r) s = .next (s.complete fid stBadHandle c.refused)) ∧
  (∀ (s : State) (fid : Nat) (c : Cmd) (i : Image) (x : Ctx) (r : HostRead), s.CmdReady fid 0x01 stBadField c → 0 < s.freeTags → s.ownImage c = some i →
    s.ctx c.ctxNo = some x →
    (x.state = 2 → exec (.submitStep fid r) s = .next (s.complete fid stCtxFaulted c.refused)) ∧
    (x.state ≠ 2 → c.fld 12 2 = 0 ∨ i.maxBatch < c.fld 12 2 → exec (.submitStep fid r) s = .next (s.complete fid stBatchRange c.refused)) ∧
    (x.state ≠ 2 → c.fld 12 2 ≠ 0 → c.fld 12 2 ≤ i.maxBatch → c.fld 16 4 ≠ c.fld 12 2 * i.tps →
      exec (.submitStep fid r) s = .next (s.complete fid stTokenCount c.refused)))

/-- CTX_CREATE gives the lowest free number and stream-table run, and charges an isolated context its stream-table frame; CTX_RESET of an idle context clears it and keeps its
number and quotas, CTX_DESTROY of an idle one removes it with its queues, and both wait, and mark the context as being reset, while its step or command runs; QP_CREATE gives
the lowest free number with empty rings; QP_DELETE removes a queue with no command, and waits for its commands else. A context or queue that does not exist is refused.
The lowest free QID and run of entries, and what a reset clears, are the model's choice (notes/assumptions/21.md, 24.md). -/
def Obligations.ContextCommands : Prop :=
  (∀ (s : State) (fid n first : Nat) (c : Cmd) (x : Ctx), s.CmdReady fid 0x80 stBadField c → x = c.newCtx s first (Config.entropy s.draws) → x.size ≤ 65536 →
    (x.isolated = true ↔ x.cores ≠ 0) → s.hasPartition x.partition = true → (x.confidential = true → s.link.ideEnabled = true ∧ s.link.ideSecure = true) →
    s.ctxs.firstFree 0 (if s.isoMode = true then min 4096 (8 + s.ctxs.length) else 4096) = some n → (s.isoMode = true → s.ctxs.length < 8) →
    (s.ctxs.filter (fun p => p.2.func == c.func)).length < s.param 0x0102 c.func → s.freeEntries x.size = some first →
    s.quotaFits x = true → s.isolationOk x = true →
    (x.isolated = false ∨ x.size = 0 → exec (.ctxCreate fid) s = .next
      (({ s with draws := s.draws + 1, ctxs := s.ctxs.set n x } : State).complete fid stOk (resultAt [(8, toLe n 2), (12, toLe first 2)]))) ∧
    (x.isolated = true → x.size ≠ 0 → ∀ u, ({ s with draws := s.draws + 1, ctxs := s.ctxs.set n x } : State).claimTiles n chargeStrm 32 = .ok u →
      exec (.ctxCreate fid) s = .next (u.complete fid stOk (resultAt [(8, toLe n 2), (12, toLe first 2)])))) ∧
  (∀ (s : State) (fid : Nat) (c : Cmd) (x : Ctx), s.CmdReady fid 0x81 stBadField c → s.ctx (c.fld 8 2) = some x →
    (s.ctxBusy (c.fld 8 2) = false → ∃ t, exec (.ctxReset fid) s = .next t ∧ t.cmds.find fid = none ∧ t.boot = s.boot ∧ t.params = s.params ∧
      ∃ y, t.ctx (c.fld 8 2) = some y ∧ y.state = 1 ∧ y.func = x.func ∧ y.guarantee = x.guarantee ∧ y.seq = x.seq ∧
        y.windows = [] ∧ y.segs = [] ∧ y.kv = none ∧ y.residents = []) ∧
    (s.ctxBusy (c.fld 8 2) = true → exec (.ctxReset fid) s = .next ((s.modCtx (c.fld 8 2) (fun y => { y with state := 3 })).defer fid))) ∧
  (∀ (s : State) (fid : Nat) (c : Cmd) (x : Ctx), s.CmdReady fid 0x82 stBadField c → s.ctx (c.fld 8 2) = some x →
    s.ctxBusy (c.fld 8 2) = false → ∃ t, exec (.ctxDestroy fid) s = .next t ∧ t.cmds.find fid = none ∧ t.ctx (c.fld 8 2) = none ∧
      (∀ q ∈ t.queues, q.2.ctx ≠ c.fld 8 2) ∧ t.boot = s.boot ∧ t.params = s.params) ∧
  (∀ (s : State) (fid : Nat) (c : Cmd) (x : Ctx), s.CmdReady fid 0x82 stBadField c → s.ctx (c.fld 8 2) = some x → s.ctxBusy (c.fld 8 2) = true →
    exec (.ctxDestroy fid) s = .next ((s.modCtx (c.fld 8 2) (fun y => { y with state := 3 })).defer fid)) ∧
  (∀ (s : State) (fid : Nat) (c : Cmd), s.ctx (c.fld 8 2) = none →
    (s.CmdReady fid 0x81 stBadField c → exec (.ctxReset fid) s = .next (s.complete fid stCtxInvalid c.refused)) ∧
    (s.CmdReady fid 0x82 stBadField c → exec (.ctxDestroy fid) s = .next (s.complete fid stCtxInvalid c.refused))) ∧
  (∀ (s : State) (fid q : Nat) (c : Cmd) (x : Ctx), s.CmdReady fid 0x83 stBadField c → s.ctx (c.fld 8 2) = some x →
    63 ≤ c.fld 10 2 → c.fld 16 8 % 4096 = 0 → c.fld 24 8 % 4096 = 0 → s.queues.firstFree 0 32768 = some q →
    (s.queues.filter (fun p => (s.ctx p.2.ctx).any (fun (y : Ctx) => y.func == x.func))).length < s.param 0x0103 x.func → exec (.qpCreate fid) s = .next
      ((({ s with
        queues := s.queues.set q {
          ctx := c.fld 8 2, depth := c.fld 10 2 + 1,
          pasid := if (c.fld 12 3).testBit 20 then some (c.fld 12 3 % 2 ^ 20) else none,
          sqBase := c.fld 16 8, cqBase := c.fld 24 8, vector := c.fld 32 2, state := .active, cause := 0, sqHead := 0, sqTail := 0, cqHead := 0, cqTail := 0, phase := true, held := [],
          ordinal := x.ordinal, since := 0 } } : State).modCtx (c.fld 8 2) (fun y => { y with ordinal := y.ordinal + 1 })).complete fid stOk (toLe q 2))) ∧
  (∀ (s : State) (fid : Nat) (c : Cmd) (q : Queue) (x : Ctx), s.CmdReady fid 0x84 stBadField c → s.queues.get? (c.fld 8 2) = some q → s.ctx q.ctx = some x →
    (s.cmds.list.any (fun e => e.q == .pair (c.fld 8 2)) = false → exec (.qpDelete fid) s = .next
      (({ s with queues := s.queues.erase (c.fld 8 2) } : State).complete fid stOk [])) ∧
    (s.cmds.list.any (fun e => e.q == .pair (c.fld 8 2)) = true → exec (.qpDelete fid) s = .next
      (({ s with queues := s.queues.upd (c.fld 8 2) (fun y => { y with state := .deleting }) } : State).defer fid))) ∧
  (∀ (s : State) (fid : Nat) (c : Cmd), s.CmdReady fid 0x84 stBadField c → s.queues.get? (c.fld 8 2) = none →
    exec (.qpDelete fid) s = .next (s.complete fid stQpInvalid c.refused)) ∧
  (∀ (s : State) (fid : Nat) (c : Cmd), s.CmdReady fid 0x83 stBadField c → c.fld 10 2 < 63 ∨ c.fld 16 8 % 4096 ≠ 0 ∨ c.fld 24 8 % 4096 ≠ 0 →
    exec (.qpCreate fid) s = .next (s.complete fid stQpBadArgs c.refused))

/- Security, checking, replay and firmware commands. -/

/-- ATTEST with no earlier command of its context left draws an ephemeral key, keeps it for one session with the report and answers the report's length, and waits else;
SESSION_OPEN is refused by its checks in order, and with a public key that its window read brings keys both directions at generation 0; IDENTITY_GET writes the chain where it
fits and answers its length and the serial. -/
def Obligations.SecurityCommands : Prop :=
  (∀ (s : State) (fid : Nat) (c : Cmd) (x : Ctx), s.CmdReady fid 0x30 stBadField c → s.cmds.list.any (fun e => decide (e.fid < c.fid) && e.ctx == c.ctx) = false →
    s.ctx c.ctxNo = some x → ∃ (u : State) (y : Ctx) (sig : Bytes), exec (.attest fid) s = .next (u.complete fid stOk (toLe y.sec.report.length 4)) ∧
      u.draws = s.draws + 1 ∧ u.boot = s.boot ∧ u.strms = s.strms ∧ u.cmds = s.cmds ∧ u.ctx c.ctxNo = some y ∧
      y.sec.ephPriv = some (Config.entropy s.draws) ∧ y.sec.ephUsed = false ∧
      y.sec.report = s.reportBody c.ctxNo x ((c.entry.drop 24).take 32) (Config.ecPublic (Config.entropy s.draws)) ++ sig) ∧
  (∀ (s : State) (fid : Nat) (c : Cmd), s.CmdReady fid 0x30 stBadField c → s.cmds.list.any (fun e => decide (e.fid < c.fid) && e.ctx == c.ctx) = true →
    exec (.attest fid) s = .next (s.defer fid)) ∧
  (∀ (s : State) (fid : Nat) (c : Cmd) (x : Ctx) (r : HostRead), s.CmdReady fid 0x31 stBadField c → 0 < s.freeTags → s.ctx c.ctxNo = some x →
    (x.confidential = false → exec (.sessionOpen fid r) s = .next (s.complete fid stSecNotConfidential c.refused)) ∧
    (x.confidential = true → x.sec.ephPriv = none → exec (.sessionOpen fid r) s = .next (s.complete fid stSecNoKey c.refused)) ∧
    (x.confidential = true → x.sec.ephPriv ≠ none → x.sec.ephUsed = true → exec (.sessionOpen fid r) s = .next (s.complete fid stSecKeyUsed c.refused))) ∧
  (∀ (s : State) (fid : Nat) (c : Cmd) (x : Ctx) (w : Window) (priv pub : Bytes), s.CmdReady fid 0x31 stBadField c → 0 < s.freeTags → s.linkOpen = true → s.ctx c.ctxNo = some x → x.confidential = true →
    x.sec.ephPriv = some priv → x.sec.ephUsed = false → x.window? (c.fld 8 2) = some w → c.fld 16 8 + 97 ≤ w.len → pub.length = 97 →
    (Config.ecValid pub = false → exec (.sessionOpen fid (.ok pub)) s = .next (s.complete fid stSecBadPoint [])) ∧
    (Config.ecValid pub = true → ∃ k : CtxSec, exec (.sessionOpen fid (.ok pub)) s = .next ((s.modCtx c.ctxNo (fun y => { y with sec := k })).complete fid stOk []) ∧
      k.ephUsed = true ∧ k.secret = Config.ecdh priv pub ∧ k.salt = Config.sha384 x.sec.report ∧ k.h2tGen = 0 ∧ k.t2hGen = 0 ∧ k.t2hCnt = 0 ∧
      k.h2t = some (chanKey "IVN h2t" k c.ctxNo 0) ∧ k.t2h = some (chanKey "IVN t2h" k c.ctxNo 0))) ∧
  (∀ (s : State) (fid : Nat) (c : Cmd), s.CmdReady fid 0xA0 stBadField c → exec (.identityGet fid) s = .next
    ((if s.nv.certChain.length ≤ c.fld 16 4 then s.hostWrite c.func none (c.fld 8 8) s.nv.certChain else s).complete fid stOk
      (resultAt [(8, toLe s.nv.certChain.length 4), (16, toLe s.nv.serial 8)])))

/-- CHECK_SET stores LEVEL and MASK; CHECK_QUERY answers the counters; RESIDENT_REF registers a region over MODEL tiles that fill it, and is refused for others; RESIDENT_ACK of a
lost region makes it read zero and no longer lost, and changes nothing of a region that is not lost. -/
def Obligations.CheckCommands : Prop :=
  (∀ (s : State) (fid : Nat) (c : Cmd), s.CmdReady fid 0x40 stBadField c → exec (.checkSet fid) s = .next
    ((s.modCtx c.ctxNo (fun x => { x with setLevel := c.fld 8 1 % 4, setMask := c.fld 9 1 % 128 })).complete fid stOk [])) ∧
  (∀ (s : State) (fid : Nat) (c : Cmd) (x : Ctx), s.CmdReady fid 0x46 stBadField c → s.ctx c.ctxNo = some x → exec (.checkQuery fid) s = .next
    (s.complete fid stOk (toLe x.reexecs 4 ++ toLe x.checkFaults 4 ++ toLe x.expels 4 ++ toLe x.level 1 ++ toLe x.mask 1))) ∧
  (∀ (s : State) (fid : Nat) (c : Cmd) (x : Ctx) (r : Resident), s.CmdReady fid 0x41 stBadField c → s.ctx c.ctxNo = some x →
    x.residents.get? c.residentKey = some r → c.fld 16 6 % 65536 = 0 →
    exec (.residentRef fid) s = .next (if r.rows = 128 * c.fld 24 4 ∧ x.modelTiles (c.fld 16 6) (c.fld 24 4) = true then
      (s.modCtx c.ctxNo (fun y => { y with residents := y.residents.upd c.residentKey (fun z => { z with reg := some (c.fld 16 6, c.fld 24 4), armed := false }) })).complete
        fid stOk []
      else s.complete fid stResidentBadRef c.refused)) ∧
  (∀ (s : State) (fid p : Nat) (c : Cmd) (x : Ctx) (r : Resident), s.CmdReady fid 0x42 stBadField c → s.ctx c.ctxNo = some x →
    x.residents.get? c.residentKey = some r → r.lost = true → s.carrier (c.fld 8 1 % 8) = some p → p < s.pcores.length → ∃ t, exec (.residentAck fid) s = .next t ∧
      t.cmds.find fid = none ∧ (∀ k, r.first ≤ k → k < r.first + r.rows → (t.pcr p).row k = 0) ∧ t.lcores = s.lcores ∧ t.dram = s.dram ∧
      (∀ q, q ≠ p → t.pcr q = s.pcr q) ∧ ∃ y, t.ctx c.ctxNo = some y ∧ (y.residents.get? c.residentKey).map (fun z => z.lost) = some false) ∧
  (∀ (s : State) (fid : Nat) (c : Cmd) (x : Ctx), s.CmdReady fid 0x42 stBadField c → s.ctx c.ctxNo = some x →
    (x.residents.get? c.residentKey).all (fun r => !r.lost) = true → exec (.residentAck fid) s = .next (s.complete fid stOk c.refused)) ∧
  (∀ (s : State) (fid : Nat) (c : Cmd) (x : Ctx), s.CmdReady fid 0x41 stBadField c → s.ctx c.ctxNo = some x →
    (c.fld 16 6 % 65536 ≠ 0 → exec (.residentRef fid) s = .next (s.complete fid stBadField c.refused)) ∧
    (c.fld 16 6 % 65536 = 0 → x.residents.get? c.residentKey = none → exec (.residentRef fid) s = .next (s.complete fid stResidentBadRef c.refused)))

/-- REPLAY_START begins a capture in an empty context with its one window where the configuration allows captures, and answers the status of the first check that fails;
REPLAY_STOP ends it; REPLAY_STATUS answers how far it has come.
The status of a misaligned LENGTH is the model's reading (notes/assumptions/22.md). -/
def Obligations.ReplayCommands : Prop :=
  (∀ (s : State) (fid : Nat) (c : Cmd) (x : Ctx), s.CmdReady fid 0x43 stBadField c → s.ctx c.ctxNo = some x → c.fld 24 8 % 4096 = 0 →
    exec (.replayStart fid) s = .next (if s.param 0x0607 0 = 0 then s.complete fid stRplNotAllowed c.refused
      else if x.replay.active then s.complete fid stRplActive c.refused
      else if s.ctxEmpty c.ctxNo (c.fld 8 2) x = false then s.complete fid stRplNotEmpty c.refused
      else if x.windows.has (c.fld 8 2) = false then s.complete fid stWindowInvalid c.refused
      else ((s.modCtx c.ctxNo (fun y => { y with replay := {
          active := true, full := c.fld 10 1 % 2 == 1, win := c.fld 8 2, off := c.fld 16 8,
          len := c.fld 24 8, written := 0, records := 0, reason := 0, held := [] } })).replayRec c.ctxNo 0x01 0 (2 ^ 64 - 1)
            (toLe (c.fld 10 1 % 2) 4 ++ toLe x.size 4 ++ toLe s.nv.serial 8 ++ toLe s.nv.svn 2) []).complete fid stOk [])) ∧
  (∀ (s : State) (fid : Nat) (c : Cmd) (x : Ctx), s.CmdReady fid 0x44 stBadField c → s.ctx c.ctxNo = some x → c.recorded = false →
    (s.cmds.list.all (fun e => !x.replay.held.contains e.fid)) = true → ∃ t, exec (.replayStop fid) s = .next t ∧ t.cmds.find fid = none ∧
      (∃ y, t.ctx c.ctxNo = some y ∧ y.replay.active = false) ∧ t.strms = s.strms ∧ t.images = s.images) ∧
  (∀ (s : State) (fid : Nat) (c : Cmd) (x : Ctx), s.CmdReady fid 0x45 stBadField c → s.ctx c.ctxNo = some x → exec (.replayStatus fid) s = .next
    (s.complete fid stOk (resultAt [(8, toLe (b2n x.replay.active + 2 * x.replay.reason) 1), (16, toLe x.replay.written 8), (24, toLe x.replay.records 8)])))

/-- FW_UPDATE stores an image that passes its checks in the idle slot with a commit record, and leaves the slots as they are else; FW_ACTIVATE takes the first named core out of
service when the image may run, or completes; FW_SVN_COMMIT programs the ROLLBACK bits of the version that every core runs;
CFG_UPDATE takes a record that passes its checks as the next one; CFG_WRITE replaces one copy of the records by a newer well-formed set; LOG_RING_SET sets or removes the
ring of its function; CAIRN_SET sets the ring that the next step's records go to. All rest on what the signature functions accept.
The floor of the security version and the bytes hashed are the model's reading (notes/assumptions/40.md). -/
def Obligations.FirmwareCommands : Prop :=
  (∀ (s : State) (fid : Nat) (c : Cmd) (raw : Bytes), s.CmdReady fid 0x90 stBadField c → 0 < s.freeTags → s.linkOpen = true → s.flash.blocked = false → s.flash.paused = false →
    c.fld 16 4 ≤ 8388608 → c.fld 16 4 % 64 = 0 → ∃ t, exec (.fwUpdate fid (.ok raw)) s = .next t ∧ t.cmds.find fid = none ∧ t.nv.otp = s.nv.otp ∧
      t.nv.cfg0 = s.nv.cfg0 ∧ t.boot = s.boot ∧
      (let b := fixLen (c.fld 16 4) raw
      if fwImageOk b = true ∧ s.nv.verifies b = true ∧ s.nv.svn ≤ leAt b 6 2 ∧ s.fw.activate = none ∧
          ¬(s.fw.cores.any (fun x => x.slot == 0) = true ∧ s.fw.cores.any (fun x => x.slot == 1) = true) then
        t.nv.commits = ⟨s.idleSlot, s.nv.topSeq + 1, leAt b 6 2, Config.sha384 b, b.length⟩ :: s.nv.commits ∧
          (if s.idleSlot = 0 then t.nv.slotA = b ∧ t.nv.slotB = s.nv.slotB else t.nv.slotB = b ∧ t.nv.slotA = s.nv.slotA)
      else t.nv.commits = s.nv.commits ∧ t.nv.slotA = s.nv.slotA ∧ t.nv.slotB = s.nv.slotB)) ∧
  (∀ (s : State) (fid : Nat) (c : Cmd), s.CmdReady fid 0x91 stBadField c → c.fld 8 1 % 16 ≠ 0 → s.fw.activate = none → ∃ t, exec (.fwActivate fid) s = .next t ∧
    t.nv = s.nv ∧ t.boot = s.boot ∧ (match s.nv.newest.bind s.nv.committed with
      | none => t.cmds.find fid = none ∧ t.fw.activate = none
      | some i => t.cmds.find fid = none ∧ t.fw.activate = none ∨
          (s.fw.stateVer ≥ i.stateMin ∧ s.fw.stateVer ≤ i.stateMax ∧ ∃ a k, t.fw.activate = some a ∧ a.fid = c.fid ∧ a.image = i ∧ a.done = [] ∧
            a.todo.head? = some k ∧ (∀ x, t.fw.cores[k]? = some x → x.restarting = true)))) ∧
  (∀ (s : State) (fid : Nat) (c : Cmd), s.CmdReady fid 0x92 stBadField c → s.flash.blocked = false → s.flash.paused = false → ∃ t,
    exec (.fwSvnCommit fid) s = .next t ∧ t.cmds.find fid = none ∧ t.boot = s.boot ∧ t.nv.commits = s.nv.commits ∧ (match s.nv.newest.bind s.nv.committed with
      | none => t.nv.otp = s.nv.otp
      | some i => t.nv.otp = (if s.fw.activate = none ∧ (s.fw.cores.zipIdx).all (fun p => p.1.runs p.2 i) = true ∧ s.nv.svn < i.svn then
          s.nv.otp.burn (BitVec.ofNat 256 (2 ^ i.svn - 1)) else s.nv.otp))) ∧
  (∀ (s : State) (fid : Nat) (c : Cmd) (raw : Bytes), s.CmdReady fid 0x93 stBadField c → 0 < s.freeTags → s.linkOpen = true → ∃ t, exec (.cfgUpdate fid (.ok raw)) s = .next t ∧ t.nv = s.nv ∧
    t.boot = s.boot ∧ (let b := fixLen (c.fld 16 4) raw
      match s.updateRecord b with
      | none => t.cfgm = s.cfgm ∧ t.params = s.params ∧ t.cmds.find fid = none
      | some (_, es) =>
        if s.nv.verifies b = true ∧ (b.drop 16).take 48 = fixLen 48 s.cfgm.digest ∧ es.any (fun e => (paramRow e.param).any (·.bootOnly)) = false ∧
            es.all CfgEntry.inRange = true then t.cfgm.k = s.cfgm.k + 1 ∧ t.cfgm.digest = Config.sha384 (fixLen 48 s.cfgm.digest ++ b)
        else t.cfgm = s.cfgm ∧ t.params = s.params ∧ t.cmds.find fid = none)) ∧
  (∀ (s : State) (fid : Nat) (c : Cmd) (raw : Bytes), s.CmdReady fid 0x94 stBadField c → 0 < s.freeTags → s.linkOpen = true → s.flash.blocked = false → s.flash.paused = false → ∃ t,
    exec (.cfgWrite fid (.ok raw)) s = .next t ∧ t.cmds.find fid = none ∧ t.boot = s.boot ∧ t.params = s.params ∧ t.nv.commits = s.nv.commits ∧
      (match s.nv.recordSet (fixLen (c.fld 16 4) raw) with
      | none => t.nv.cfg0 = s.nv.cfg0 ∧ t.nv.cfg1 = s.nv.cfg1
      | some _ => (t.nv.cfg0 = s.nv.cfg0 ∨ t.nv.cfg0 = fixLen (c.fld 16 4) raw) ∧ (t.nv.cfg1 = s.nv.cfg1 ∨ t.nv.cfg1 = fixLen (c.fld 16 4) raw) ∧
          (t.nv.cfg0 = s.nv.cfg0 ∨ t.nv.cfg1 = s.nv.cfg1))) ∧
  (∀ (s : State) (fid : Nat) (c : Cmd), s.CmdReady fid 0x95 stBadField c → c.fld 8 8 % 4096 = 0 → 64 ≤ c.fld 16 4 → c.fld 16 4 ≤ 65536 →
    2 ^ (c.fld 16 4).log2 = c.fld 16 4 → exec (.logRingSet fid) s = .next ((s.modFunc c.func (fun f => { f with ring := some ⟨c.fld 8 8, c.fld 16 4,
      if (c.fld 20 3).testBit 20 then some (c.fld 20 3 % 2 ^ 20) else none⟩ })).complete fid stOk (toLe (s.func c.func).lsn.toNat 8))) ∧
  (∀ (s : State) (fid : Nat) (c : Cmd), s.CmdReady fid 0x95 stBadField c → c.fld 16 4 = 0 → exec (.logRingSet fid) s = .next
    ((s.modFunc c.func (fun f => { f with ring := none })).complete fid stOk (toLe (s.func c.func).lsn.toNat 8))) ∧
  (∀ (s : State) (fid : Nat) (c : Cmd) (x : Ctx), s.CmdReady fid 0x96 stBadField c → s.param 0x0802 0 ≠ 0 → s.ctx (c.fld 8 2) = some x →
    x.confidential = false → x.windows.has (c.fld 10 2) = true → c.fld 24 4 % 4096 = 0 → c.fld 24 4 ≠ 0 →
    exec (.cairnSet fid) s = .next ((s.modCtx (c.fld 8 2) (fun y => { y with
      cairnNext := if (c.fld 12 1).testBit 0 then some ⟨c.fld 10 2, c.fld 16 8, c.fld 24 4⟩ else none })).complete fid stOk []))

/- Scratchpads. -/

/-- SCRUB_WRITE and the rows it finds: a row that awaits scrub reads zero; a wide write stores the row, a narrow write stores its word among zeros, the scrub engine leaves zeros, each takes
that row alone out of the rows that await scrub, and each leaves every other row as it read.
Bytes that are read back in order give the number they were cut from: element 0 lies at bit 0 of byte 0. -/
def Obligations.ScrubPendingRows : Prop :=
  (∀ (p : PCore) (r : Nat), Ranges.has p.scrub r = true → p.row r = 0) ∧
  (∀ (p : PCore) (r q : Nat) (b : Bytes), (p.writeRow r b).row q = if q = r then leAt (fixLen 512 b) 0 512 else p.row q) ∧
  (∀ (p : PCore) (r w q i : Nat) (b : Bytes), w < 64 → i < 512 → Ranges.has p.scrub r = true →
    (p.writeWord r w b).mem.read (q * 512 + i) = (if q = r then (if 8 * w ≤ i ∧ i < 8 * w + 8 then (fixLen 8 b).getD (i - 8 * w) 0#8 else 0#8)
      else p.mem.read (q * 512 + i)) ∧ Ranges.has (p.writeWord r w b).scrub q = (Ranges.has p.scrub q && q != r)) ∧
  (∀ (p : PCore) (r q : Nat), Ranges.has p.scrub r = true → (p.scrubRow r).row q = (if q = r then 0 else p.row q) ∧
    Ranges.has (p.scrubRow r).scrub q = (Ranges.has p.scrub q && q != r)) ∧
  (∀ (p : PCore) (r n q : Nat), (p.markScrub r n).row q = if r ≤ q ∧ q < r + n then 0 else p.row q) ∧
  (∀ (x n : Nat), leAt (toLe x n) 0 n = x % 2 ^ (8 * n)) ∧ (∀ (b : Bytes) (n : Nat), b.length = n → toLe (leAt b 0 n) n = b)

/- Steps and descriptors. -/

/-- STEP_DISPATCH: a waiting step that F1 may dispatch, whose streams and sequences pass their checks, whose context has lost no region, whose cores have carriers and whose
descriptors can be read starts: it takes the context's next sequence number, every core of its set has a fresh sequencer for it, and it waits for its start token. One of a
paused stream is refused with ST_STREAM_PAUSED; one of a lost region, or without a carrier, faults.
START_TOKEN_POST: with no copy left to make, token 0 reaches every core and the step runs.
When the sequence number is taken and kept is the model's reading (notes/assumptions/26.md). -/
def Obligations.StepsStart : Prop :=
  (∀ (s : State) (n : Nat) (paced : Bool) (r : StepRec) (img : Image) (x : Ctx) (prov : List Prov), s.step? n = some r → s.images.imgs.get? r.handle = some img →
    s.ctx r.ctx = some x → s.mayDispatch n r paced = true → r.reexecs ≠ 0 ∨ (s.pausedCheck r.ctx img r.streams).2 = false → s.kvCheck img r = .ok prov →
    x.residents.any (fun g => g.2.owed) = false → img.residentKeys.any (fun k => (x.residents.get? k).any (fun g => g.lost)) = false → r.cores.all (fun c => (s.carrier c).isSome) = true →
    s.streamLost r.handle img r.cores = none →
    exec (.stepDispatch n paced) s = .next (s.coreDone (s.startStep n img r x prov))) ∧
  (∀ (s : State) (n : Nat) (r : StepRec), s.step? n = some r → r.stage = .dispatched → s.coreOut 1 = false → s.running = true → r.job.copies = [] → r.job.failed = false →
    exec (.startTokenPost n) s = .next (s.coreDone (r.cores.foldl (fun (u : State) (c : Nat) => u.landMsg (.belay c 0 n))
      ((s.modKv r.ctx (fun k => ({ k with holds := k.holds.filter (fun h => h.2 != copyHold n) } : KvPool).release)).modStep n
        (fun y => { y with stage := .running, job := CopyJob.none }))))) ∧
  (∀ (s : State) (n : Nat) (paced : Bool) (r : StepRec) (img : Image) (x : Ctx), s.step? n = some r → s.images.imgs.get? r.handle = some img →
    s.ctx r.ctx = some x → s.mayDispatch n r paced = true → r.reexecs = 0 → (s.pausedCheck r.ctx img r.streams).2 = true →
    exec (.stepDispatch n paced) s = .next (s.coreDone ((s.pausedCheck r.ctx img r.streams).1.refuseStep n r stStreamPaused))) ∧
  (∀ (s : State) (n : Nat) (paced : Bool) (r : StepRec) (img : Image) (x : Ctx) (prov : List Prov), s.step? n = some r → s.images.imgs.get? r.handle = some img →
    s.ctx r.ctx = some x → s.mayDispatch n r paced = true → r.reexecs ≠ 0 ∨ (s.pausedCheck r.ctx img r.streams).2 = false → s.kvCheck img r = .ok prov →
    (x.residents.any (fun g => g.2.owed) || img.residentKeys.any (fun k => (x.residents.get? k).any (fun g => g.lost))) = true →
    exec (.stepDispatch n paced) s = .next (s.coreDone ((s.modCtx r.ctx (fun y =>
      { y with residents := y.residents.map (fun g => (g.1, { g.2 with owed := false })) })).faultAtDispatch n r x 3 stResidentLost))) ∧
  (∀ (s : State) (n : Nat) (paced : Bool) (r : StepRec) (img : Image) (x : Ctx) (prov : List Prov), s.step? n = some r → s.images.imgs.get? r.handle = some img →
    s.ctx r.ctx = some x → s.mayDispatch n r paced = true → r.reexecs ≠ 0 ∨ (s.pausedCheck r.ctx img r.streams).2 = false → s.kvCheck img r = .ok prov →
    (x.residents.any (fun g => g.2.owed) || img.residentKeys.any (fun k => (x.residents.get? k).any (fun g => g.lost))) = false →
    r.cores.all (fun c => (s.carrier c).isSome) = false → exec (.stepDispatch n paced) s = .next (s.coreDone (s.faultAtDispatch n r x 5 stCoreFail))) ∧
  (∀ (s : State) (n : Nat) (img : Image) (r : StepRec) (b : Bytes) (c : Nat), c < s.lcores.length → ∃ q, ((s.loadCore n img r b c).lc c).seqr = some q ∧
    q.step = n ∧ q.idx = 0 ∧ q.stream = img.stream c ∧ q.inflight = [] ∧ q.flags = 0 ∧ q.started = false ∧ q.ended = false ∧ q.fault = none ∧ q.batch = r.b)

/-- STEP_COMMIT: a step whose cores have all reported commits when its flag word meets no policy bit: each of its streams moves on,
and nothing of the images, the parameters or the tile's life changes. A flag word that meets the
policy faults the step instead, and no stream moves.
A stream after the commit of a step: its position advances by the image's tokens, its live buffer changes when the step wrote its STATE region, its
checkpoint when the step wrote its CHECKPOINT region, and an anchor is due once the period has passed. -/
def Obligations.StepsCommit : Prop :=
  (∀ (s : State) (n : Nat) (r : StepRec) (img : Image) (l : Latch), s.step? n = some r → s.coll.ready.contains n = true → s.coreOut 1 = false → s.running = true →
    r.stage = .running → s.images.imgs.get? r.handle = some img → s.coll.latches.get? n = some l → l.flags.policyFault r.mask = false → ∃ t,
    exec (.stepCommit n) s = .next t ∧ t.boot = s.boot ∧ t.params = s.params ∧ t.images = s.images ∧
      t.strms = r.streams.foldl (fun (a : AList Strm) (i : Nat) => a.upd i (fun e => e.committed img.tps (r.wrote.contains (i, 0)) (r.wrote.contains (i, 1)))) s.strms) ∧
  (∀ (s : State) (n : Nat) (r : StepRec) (img : Image) (l : Latch), s.step? n = some r → s.coll.ready.contains n = true → s.coreOut 1 = false → s.running = true →
    r.stage = .running → s.images.imgs.get? r.handle = some img → s.coll.latches.get? n = some l → l.flags.policyFault r.mask = true → ∃ t,
    exec (.stepCommit n) s = .next t ∧ t.strms = s.strms ∧ t.boot = s.boot ∧ t.images = s.images) ∧
  (∀ (e : Strm) (n : Nat) (w c : Bool), (e.committed n w c).position = e.position + n ∧ (e.committed n w c).resetPending = false ∧
    ((e.committed n w c).cur ≠ e.cur ↔ w = true) ∧ ((e.committed n w c).ckptCur ≠ e.ckptCur ↔ c = true) ∧
    ((e.committed n w c).zero = true ↔ e.zero = true ∧ w = false) ∧ ((e.committed n w c).ckptZero = true ↔ e.ckptZero = true ∧ c = false) ∧
    ((e.committed n w c).anchorDue = true ↔ e.anchorPeriod ≠ 0 ∧ e.anchorPeriod ≤ (e.committed n w c).position - (e.committed n w c).anchorPos) ∧
    (c = true → (e.committed n w c).anchorPos = e.position + n) ∧
    (e.committed n w c).base = e.base ∧ (e.committed n w c).kvSeq = e.kvSeq ∧ (e.committed n w c).paused = e.paused ∧ (e.committed n w c).ctx = e.ctx)

/-- The next descriptor of a running core that may issue does so by the row of its kind. MATMUL, SCAN and VEC enter the window with the rows that they will write and leave
their flags, and a SHADOW_ONLY MATMUL passes; ATTN and MOVE enter and wait for their rings and pieces, and a MOVE to a stream's STATE or CHECKPOINT notes the streams that it
writes; BELAY_POST sends its increments and completes; BELAY_WAIT takes its count when it is there.
The operands are read as the descriptor issues by the model's choice (notes/assumptions/50.md). -/
def Obligations.DescriptorsIssue : Prop :=
  ∀ (s : State) (core : Nat) (es : List RowError) (x : Running) (d : Desc),
    (s.issuing core (fun d => d.kind == 1) = some (x, d) → passes d x.r.level = false → exec (.matmul core es) s = .next (s.coreDone
      ((s.issue core x d (InFlight.plain x.q.idx d (runMatmul d x.q.batch (s.rows core)).writes) es).modSeq core
        (fun q => q.collect x.q.idx d (runMatmul d x.q.batch (s.rows core)))))) ∧
    (s.issuing core (fun d => d.kind == 1) = some (x, d) → passes d x.r.level = true → exec (.matmul core es) s = .next (s.coreDone (s.issueDone core x d))) ∧
    (s.issuing core (fun d => d.kind == 2) = some (x, d) → exec (.scan core es) s = .next (s.coreDone
      ((s.issue core x d (InFlight.plain x.q.idx d (runScan d x.q.batch (s.rows core)).writes) es).modSeq core
        (fun q => q.collect x.q.idx d (runScan d x.q.batch (s.rows core)))))) ∧
    (s.issuing core (fun d => d.kind == 4) = some (x, d) → exec (.vec core es) s = .next (s.coreDone
      ((s.issue core x d (InFlight.plain x.q.idx d (runVec d x.q.batch (s.rows core)).writes) es).modSeq core
        (fun q => q.collect x.q.idx d (runVec d x.q.batch (s.rows core)))))) ∧
    (s.issuing core (fun d => d.kind == 3) = some (x, d) → exec (.attn core es) s = .next (s.coreDone
      ((s.issue core x d (InFlight.plain x.q.idx d []) es).wakeCore core))) ∧
    (s.issuing core (fun d => d.kind == 5) = some (x, d) →
      (let t := (s.issue core x d { InFlight.plain x.q.idx d [] with move := some ⟨d.loads, s.movePieces core x d, 0, [], false⟩ } es).noteWrites core x d
      exec (.move core es) s = .next (s.coreDone ((if d.other = 4 then
        t.modKv x.r.ctx (fun k => { k with holds := k.holds ++ [(k.epoch, holdId x.n core x.q.idx)] }) else t).pump core x.q.idx)))) ∧
    (s.issuing core isPost = some (x, d) → exec (.belayPost core) s = .next (s.coreDone (((bitsSet (d.fld 8 7 0)).foldl (fun (u : State) (k : Nat) =>
      if k = core then u.landMsg (.belay k (d.fld 6 15 0) x.n) else u.inject (u.station core) (u.station k) (.belay k (d.fld 6 15 0) x.n)) s).issueDone core x d))) ∧
    (s.issuing core isWait = some (x, d) → exec (.belayWait core) s = .next (s.coreDone
      ((s.issue core x d { InFlight.plain x.q.idx d [] with waits := true } []).tryWait core x.q.idx)))

/-- REDUCE_ALL_REDUCE, REDUCE_ALL_GATHER and REDUCE_BROADCAST issue: the contribution goes to the collector flit by flit, as far as its buffer of the contributor holds it, and the
rest waits; a REDUCE of one participant sends nothing, and a ROOT that awaits nothing reports at once. CHECK_COMPARE compares at once; CHECK_SEND sends its digest;
CHECK_RECEIVE and CHECK_SHADOW take theirs when it is there; a CHECK of any mode above the level in force passes. -/
def Obligations.ReduceAndCheckIssue : Prop :=
  ∀ (s : State) (core : Nat) (es : List RowError) (x : Running) (d : Desc),
    (∀ (op : Nat) (c : Instr), (op, c) ∈ [(0, .reduceAllReduce core es), (1, .reduceAllGather core es), (2, .reduceBroadcast core es)] →
      s.issuing core (fun d => d.kind == 6 && d.collOp == op) = some (x, d) →
      (let o := d.ownRows core (s.rows core)
      let flits := if 1 < d.members.length ∧ (op ≠ 2 ∨ core = d.fld 7 2 0) then s.contribFlits core d else []
      let t := (s.issue core x d { InFlight.plain x.q.idx d o.writes with acks := d.awaits core, waits := decide (1 < d.members.length), send := flits.drop 64 } es).modSeq core
        (fun q => q.collect x.q.idx d o)
      let u := (flits.take 64).foldl (fun (v : State) m => v.inject (v.station core) tierStation (.contrib x.n d.collId core m.1 m.2 [])) t
      exec c s = .next (s.coreDone (if d.members.length ≤ 1 then t else if d.awaits core = 0 then u.reportColl core x.n d.collId else u)))) ∧
    (s.issuing core (fun d => d.kind == 7 && d.checkMode == 0) = some (x, d) → passes d x.r.level = false → exec (.checkCompare core es) s = .next (s.coreDone
      (if s.checkDigest core x (InFlight.plain x.q.idx d []) = streamLe (s.rows core) (d.region 12).first 0 8 then s.issue core x d (InFlight.plain x.q.idx d []) es
      else (s.issue core x d (InFlight.plain x.q.idx d []) es).checkFault core x x.q.idx d [core]))) ∧
    (s.issuing core (fun d => d.kind == 7 && d.checkMode == 0) = some (x, d) → passes d x.r.level = true →
      exec (.checkCompare core es) s = .next (s.coreDone (s.issueDone core x d))) ∧
    (∀ (m : Nat) (c : Instr), (m, c) ∈ [(1, .checkSend core es), (2, .checkReceive core es), (3, .checkShadow core es)] →
      s.issuing core (fun d => d.kind == 7 && d.checkMode == m) = some (x, d) → passes d x.r.level = true → exec c s = .next (s.coreDone (s.issueDone core x d))) ∧
    (s.issuing core (fun d => d.kind == 7 && d.checkMode == 1) = some (x, d) → passes d x.r.level = false → ∃ t,
      t = s.issue core x d { InFlight.plain x.q.idx d [] with waits := true } es ∧ exec (.checkSend core es) s = .next (s.coreDone
        (t.inject (t.station core) (t.station (d.fld 5 2 0)) (.digest (d.fld 5 2 0) d.slot (s.checkDigest core x (InFlight.plain x.q.idx d [])) core x.q.idx)))) ∧
    (s.issuing core (fun d => d.kind == 7 && d.checkMode == 2) = some (x, d) → passes d x.r.level = false → exec (.checkReceive core es) s = .next (s.coreDone
      ((s.issue core x d { InFlight.plain x.q.idx d [] with waits := true } es).takeDigest core x.q.idx))) ∧
    (s.issuing core (fun d => d.kind == 7 && d.checkMode == 3) = some (x, d) → passes d x.r.level = false → exec (.checkShadow core es) s = .next (s.coreDone
      ((s.issue core x d { InFlight.plain x.q.idx d [] with
        writes := (runMatmul ((x.img.stream core).getD (d.fld 16 31 0) 0) x.q.batch (s.rows core)).writes, waits := true } es).takeDigest core x.q.idx)))

/-- BELAY_INCREMENT: a landed increment raises its counter, lets a WAIT that it satisfies end, and starts the core's stream when it is the start token.
DIGEST_SLOT_FILL: a landed digest fills an empty slot and completes its SEND, and a RECEIVE or SHADOW that waits for it takes it and completes.
DESCRIPTOR_COMPLETE: a descriptor in flight that may end completes, its rows land and it leaves the window; an ATTN forms its result then.
When a core reports its step is the model's reading (notes/assumptions/32.md). -/
def Obligations.TokensAndCompletions : Prop :=
  (∀ (s : State) (core token : Nat) (x : Running) (m : Msg) (r : Rope), s.current core = some x →
    s.rope.takeLanded (Msg.isBelay x.img core (x.img.sourceOf token)) = some (m, r) → m.token = some token → token ≠ 0 →
    x.q.inflight.find? (fun f => isWait f.desc && f.desc.fld 6 15 0 == token) = none → exec (.belayIncrement core token) s = .next (s.coreDone
      (({ s with rope := r } : State).modLc core (fun l => { l with
        counters := AList.count l.counters (x.counter core token)
          (AList.getD l.counters (x.counter core token) 0 + 1) })))) ∧
  (∀ (s : State) (core token : Nat) (x : Running) (m : Msg) (r : Rope) (f : InFlight), s.current core = some x →
    s.rope.takeLanded (Msg.isBelay x.img core (x.img.sourceOf token)) = some (m, r) → m.token = some token → token ≠ 0 →
    x.q.inflight.find? (fun f => isWait f.desc && f.desc.fld 6 15 0 == token) = some f → exec (.belayIncrement core token) s = .next (s.coreDone
      ((({ s with rope := r } : State).modLc core (fun l => { l with
        counters := AList.count l.counters (x.counter core token)
          (AList.getD l.counters (x.counter core token) 0 + 1) })).tryWait core f.idx))) ∧
  (∀ (s : State) (core : Nat) (x : Running) (m : Msg) (r : Rope), s.current core = some x → s.rope.takeLanded (Msg.isBelay x.img core (x.img.sourceOf 0)) = some (m, r) →
    m.token = some 0 →
    exec (.belayIncrement core 0) s = .next (s.coreDone (({ s with rope := r } : State).modSeq core (fun q => { q with started := true })))) ∧
  (∀ (s u : State) (core slot dst sl v frm desc : Nat) (r : Rope), AList.has (s.lc core).slots slot = false →
    s.rope.takeLanded (Msg.isDigest core slot) = some (.digest dst sl v frm desc, r) →
    u = (({ s with rope := r } : State).modLc core (fun l => { l with slots := l.slots.set slot (frm * 2 ^ 64 + v) })).finishDesc frm desc →
    (u.lc core).seqr.bind (fun q => q.inflight.find? (fun f => isTake f.desc && f.waits && f.desc.slot == slot)) = none →
    exec (.digestSlotFill core slot) s = .next (s.coreDone u)) ∧
  (∀ (s u : State) (core slot dst sl v frm desc : Nat) (r : Rope) (f : InFlight), AList.has (s.lc core).slots slot = false →
    s.rope.takeLanded (Msg.isDigest core slot) = some (.digest dst sl v frm desc, r) →
    u = (({ s with rope := r } : State).modLc core (fun l => { l with slots := l.slots.set slot (frm * 2 ^ 64 + v) })).finishDesc frm desc →
    (u.lc core).seqr.bind (fun q => q.inflight.find? (fun f => isTake f.desc && f.waits && f.desc.slot == slot)) = some f →
    exec (.digestSlotFill core slot) s = .next (s.coreDone ((u.takeDigest core f.idx).finishDesc core f.idx))) ∧
  (∀ (s : State) (core idx : Nat) (x : Running) (f : InFlight), s.current core = some x → s.flight core idx = some f → s.running = true →
    (s.carrier core).isSome = true → (s.scratch core).halted = false → f.mayEnd x.q = true →
    exec (.descriptorComplete core idx) s = .next (s.coreDone ((if f.desc.kind = 3 then s.formAttn core idx x f.desc else s).finishDesc core idx).wakeAll))

/- The Rope, the collector and the ends of steps. -/

/-- ROPE_FLIT_TRANSFER: a flit at the head of a station's buffer that is bound for it, and can land there, leaves the lane and lands, and one from elsewhere or from the station's
queue moves on where the lane has a credit; ROPE_CREDIT_RETURN: a credit on its way returns; neither happens while the tile does not run.
COLLECTIVE_CONTRIBUTION: a flit of an all-reduce is held until its row can be summed, and a flit of another operation goes to the participants that took no copy of it on its
way, and the contributor's next flit goes out; one that fails its digest is asked for again. COLLECTIVE_DELIVERY: a result flit lands in its half of the row and lowers what its
receiver awaits, the last one with a report. COLLECTIVE_CHECK_REPORT: the last report sends the done flits. COLLECTIVE_DONE: a done flit completes the REDUCE.
STEP_DONE_REPORT: the report sets its core's latch and adds its flag word; when every core of the step has reported, the step is ready for F1.
Which flit a retry sends again is the model's choice (notes/assumptions/31.md). -/
def Obligations.RopeAndCollectives : Prop :=
  ((∀ (s : State) (st : Nat) (asc b : Bool) (ch : Chan) (f : Flit), s.running = true → st < 11 → (s.rope.buf (laneKey st asc b ch)).head? = some f → f.dst = st →
    s.canLand f.msg = true → exec (.ropeFlitTransfer st asc b ch) s = .next (s.coreDone ((s.modRope (fun r => r.leave st asc b ch)).arrive f.msg))) ∧
  (∀ (s : State) (st : Nat) (asc b : Bool) (ch : Chan) (f : Flit) (own : Bool), s.running = true → st < 11 → s.rope.buf (laneKey st asc b ch) = [] →
    s.rope.grant st asc b ch (s.mayInject st) = some (f, own) → exec (.ropeFlitTransfer st asc b ch) s = .next (s.coreDone (s.modRope (fun r => r.move st asc b ch f own)))) ∧
  (∀ (s : State) (st : Nat) (asc b : Bool) (ch : Chan), s.running = true → st < 11 → AList.getD s.rope.returning (laneKey st asc b ch) 0 ≠ 0 →
    exec (.ropeCreditReturn st asc b ch) s = .next { s with rope := { s.rope with
      returning := AList.count s.rope.returning (laneKey st asc b ch) (AList.getD s.rope.returning (laneKey st asc b ch) 0 - 1)
      used := AList.count s.rope.used (laneKey st asc b ch) (AList.getD s.rope.used (laneKey st asc b ch) 0 - 1) } }) ∧
  (∀ (s : State) (st : Nat) (asc b : Bool) (ch : Chan), s.running = false → exec (.ropeFlitTransfer st asc b ch) s = .next s ∧ exec (.ropeCreditReturn st asc b ch) s = .next s)) ∧
  ((∀ (s t : State) (core n coll frm i : Nat) (b : Bytes) (taken : List Nat) (r : Rope) (x : CollSlot) (d : Desc), s.running = true →
    s.rope.takeLanded (s.contribReady core) = some (.contrib n coll frm i b taken, r) → t = ({ s with rope := r } : State).takeCollSlot n coll frm →
    ((s.coll.slot? n coll).isNone && s.coll.wasGranted n coll) = false → t.coll.slot? n coll = some x → t.reduceOf n coll frm = some d →
    (x.op ≠ 0 → exec (.collectiveContribution core false) s = .next (s.coreDone (((x.members.filter (fun c => c != frm && !taken.contains c)).foldl (fun (u : State) (c : Nat) =>
      u.inject tierStation (u.station c) (.result n coll c frm (d.placeOf frm i) b 0#8)) t).sendNext frm n coll))) ∧
    (x.op = 0 → exec (.collectiveContribution core false) s = .next (s.coreDone (({ t with coll := t.coll.modSlot n coll (fun y =>
      { y with contribs := AList.set y.contribs frm (AList.set (AList.getD y.contribs frm []) i b) }) } : State).formRows n coll 33))) ∧
    (x.op = 0 → t.coll.retried.contains (n, coll, 8, frm) = false → exec (.collectiveContribution core true) s = .next (s.coreDone
      (({ t with coll := { t.coll with retried := t.coll.retried ++ [(n, coll, 8, frm)], retryCnt := satUp t.coll.retryCnt } } : State).inject (t.station frm) tierStation
        (.contrib n coll frm i b taken))))) ∧
  (∀ (s : State) (core n coll frm i : Nat) (b : Bytes) (taken : List Nat) (r : Rope), s.running = true →
    s.rope.takeLanded (s.contribReady core) = some (.contrib n coll frm i b taken, r) → s.coll.slot? n coll = none → s.coll.wasGranted n coll = true →
    exec (.collectiveContribution core false) s = .next (s.coreDone { s with rope := r })) ∧
  (∀ (s u : State) (core n coll dst frm place : Nat) (b : Bytes) (flags : Flags) (r : Rope) (f : InFlight), s.running = true →
    s.rope.takeLanded (s.resultReady core) = some (.result n coll dst frm place b flags, r) → ({ s with rope := r } : State).reduceFlight core n coll = some f →
    u = (({ s with rope := r } : State).placeHalf core f place b flags).modFlight core f.idx (fun y => { y with acks := y.acks - 1 }) →
    (1 < f.acks → exec (.collectiveDelivery core false) s = .next (s.coreDone u)) ∧
    (f.acks ≤ 1 → exec (.collectiveDelivery core false) s = .next (s.coreDone (u.inject (u.station core) tierStation (.report n coll core))))) ∧
  (∀ (s : State) (core place : Nat) (f : InFlight) (b c : Bytes) (flags : Flags),
    (f.halves.get? (place / 2 * 2 + 1 - place % 2) = none → s.placeHalf core f place b flags = s.modFlight core f.idx (fun y => { y with halves := y.halves.set place b })) ∧
    (f.halves.get? (place / 2 * 2 + 1 - place % 2) = some c → s.placeHalf core f place b flags =
      (((s.modScratch core (fun p => p.writeRow ((f.desc.region 20).first + place / 2) (if place % 2 = 0 then b ++ c else c ++ b))).modFlight core f.idx (fun y =>
        { y with halves := y.halves.erase (place / 2 * 2 + 1 - place % 2) })).modSeq core (fun q => q.collect f.idx f.desc
          (rowOut f.desc (place / 2) (if place % 2 = 0 then b ++ c else c ++ b) flags))))) ∧
  (∀ (s t : State) (core n coll frm : Nat) (r : Rope) (x : CollSlot), s.running = true → s.rope.takeLanded (s.reportReady core) = some (.report n coll frm, r) →
    t = ({ s with rope := r } : State).takeCollSlot n coll frm → t.coll.slot? n coll = some x →
    exec (.collectiveCheckReport core) s = .next (s.coreDone (if x.members.all (x.reports ++ [frm]).contains then
      x.members.foldl (fun (v : State) (c : Nat) => v.inject tierStation (v.station c) (.done n coll c))
        { t with coll := { t.coll with slots := t.coll.slots.filter (fun y => !(y.step == n && y.coll == coll)) } }
      else { t with coll := t.coll.modSlot n coll (fun y => { y with reports := x.reports ++ [frm] }) }))) ∧
  (∀ (s : State) (core n coll d : Nat) (r : Rope) (f : InFlight), s.running = true → s.rope.takeLanded (Msg.isDone core) = some (.done n coll d, r) →
    ({ s with rope := r } : State).reduceFlight core n coll = some f →
    exec (.collectiveDone core) s = .next (s.coreDone (({ s with rope := r } : State).finishDesc core f.idx))) ∧
  (∀ (s : State) (core n frm : Nat) (flags : Flags) (r : Rope) (l : Latch), s.Calm → s.running = true → s.rope.takeLanded (Msg.isStepDone core) = some (.stepDone n frm flags, r) →
    AList.get? s.coll.latches n = some l → ∃ t, exec (.stepDoneReport core) s = .next t ∧ t.rope = r ∧ t.coll.latches = AList.set s.coll.latches n
      { l with set := l.set ++ [frm], flags := l.flags ||| flags } ∧
      t.coll.ready = (if l.cores.all (l.set ++ [frm]).contains then s.coll.ready ++ [n] else s.coll.ready) ∧ t.coll.slots = s.coll.slots ∧
      t.steps = s.steps ∧ t.lcores = s.lcores ∧ t.pcores = s.pcores ∧ t.ctxs = s.ctxs ∧ t.dram = s.dram ∧ t.out = s.out))

/-- FAULT_REPORT: a core with nothing left in flight reports its fault and its step stops on every core. CORE_STOP_TIMEOUT: a core whose unit has held an operation too long is
halted, its step faults in class CORE, and F1 asks for the spare. -/
def Obligations.FaultsStop : Prop :=
  (∀ (s : State) (core : Nat) (x : Running) (f : FaultRec), s.current core = some x → x.q.fault = some f → s.running = true → s.coreOut 1 = false → x.r.stage = .running →
    s.drained core = true → exec (.faultReport core) s = .next (s.coreDone (s.faultStep x.n f))) ∧
  (∀ (s : State) (core p : Nat) (x : Running) (f : InFlight), s.current core = some x → s.carrier core = some p → x.q.inflight.find? InFlight.internal = some f →
    s.running = true → (s.pcr p).halted = false → exec (.coreStopTimeout core) s = .next (s.coreDone
      (((s.modPc p (fun c => { c with halted := true, coreFaults := lastDay c.coreFaults s.boot.timer ++ [s.boot.timer] })).raise core
        (descFault core f.idx f.desc 5 stCoreFail)).orderSpare core p 3))) ∧
  (∀ (s : State) (n : Nat) (r : StepRec) (f : FaultRec), s.step? n = some r → ∃ y, (s.faultStep n f).step? n = some y ∧ y.stage = .faulting ∧
    y.fault = (if r.fault = none then some f else r.fault)) ∧
  (∀ (s : State) (n core : Nat) (r : StepRec) (f : FaultRec) (q : Seqr), s.step? n = some r → core ∈ r.cores → core < s.lcores.length → (s.lc core).seqr = some q →
    ∃ y, ((s.faultStep n f).lc core).seqr = some y ∧ y.stopped = true ∧ y.idx = q.idx ∧ y.inflight = q.inflight)

/- Care of cores and tiles. -/

/-- SPARE_SWITCH: a switch that F1 wants halts the old carrier, which only forwards from then on, and marks every row of the spare core. SPARE_COPY_COMPLETE: when its copies end
the spare carries the logical core, the old carrier is out of service, and the switch stands in the service record. -/
def Obligations.SpareSwitches : Prop :=
  (∀ (s : State) (c p : Nat), s.Calm → s.sparing.wanted = some c → s.running = true → s.coreOut 1 = false → s.coreOut 2 = false → s.sparing.usable = true →
    (s.pcr 8).dom = 0 → (s.pcr 8).testing = false → s.carried 8 = none → s.lcoreUsed c = false → s.carrier c = some p → p < 8 → p < s.pcores.length →
    s.pcores.length = 9 → (s.pcr p).testing = false → ∃ t, exec (.spareSwitch c) s = .next t ∧ t.sparing = { s.sparing with busy := some c, wanted := none } ∧
      (t.pcr p).halted = true ∧ (t.pcr p).forwardOnly = true ∧ (t.pcr 8).forwardOnly = false ∧ (∀ r < scratchRows, (t.pcr 8).row r = 0) ∧ t.lcores = s.lcores ∧
      (∀ q, q ≠ p → q ≠ 8 → t.pcr q = s.pcr q)) ∧
  (∀ (s : State) (c p : Nat) (lost : List Nat), s.Calm → s.sparing.busy = some c → s.running = true → s.coreOut 1 = false → s.coreOut 2 = false → s.carrier c = some p →
    p < 9 → c < s.lcores.length → ∃ t, exec (.spareCopyComplete c lost) s = .next t ∧ t.carrier c = some 8 ∧ t.sparing.busy = none ∧
      t.sparing.retired = BitVec.ofNat 4 p ∧ t.nv.switched = some (c, p) ∧ (∀ k, k ≠ c → t.carrier k = s.carrier k) ∧ t.dram = s.dram)

/-- KAT_PERIOD_EXPIRY takes an idle core under test; KAT_COMPLETE ends the test: the rows outside resident regions await scrub, a test that passes leaves the core in
place, and a failed one asks for the spare, and leaves its core without a carrier when there is none.
DIGEST_COMPARE_PERIOD expels a cached tile that mismatches its digest; RESIDENT_SCAN_PERIOD scans the registered regions of every context; with nothing cached and nothing
registered they change nothing; SCRUB_WRITE writes one row that awaits it.
How a mismatch counts toward its rank is the model's reading (notes/assumptions/50.md). -/
def Obligations.SelfTestsAndPeriodicChecks : Prop :=
  ((∀ (s : State) (p : Nat), s.Calm → s.running = true → s.coreOut 1 = false → p < 9 → s.param 0x0606 0 ≠ 0 → (s.pcr p).dom = 0 → (s.pcr p).testing = false →
    (s.pcr p).halted = false → (s.pcr p).outOfService = false → s.coreUsed p = false → s.sparing.busy = none →
    exec (.katPeriodExpiry p) s = .next { s with pcores := s.pcores.modify p (fun y => { y with testing := true }) }) ∧
  (∀ (s : State) (p : Nat) (ok : Bool), s.Calm → s.running = true → s.coreOut 1 = false → p < s.pcores.length → (s.pcr p).testing = true → ∃ t,
    exec (.katComplete p ok) s = .next t ∧ (t.pcr p).testing = false ∧
      (∀ r < scratchRows, Ranges.has (s.residentRows p) r = false → (t.pcr p).row r = 0) ∧ (∀ q, q ≠ p → t.pcr q = s.pcr q) ∧
      (ok = true → (lastDay (s.pcr p).checkFaults s.boot.timer).length < s.param 0x0605 0 → t.fw = s.fw ∧ t.sparing = s.sparing ∧ t.lcores = s.lcores) ∧
      (∀ c, ok = false → s.carried p = some c → c < s.lcores.length → s.sparing.busy = none → s.sparing.wanted = none → t.sparing.wanted = (if s.sparing.usable = true ∧ s.carried 8 = none then some c else none) ∧
        (s.sparing.usable = false → t.carrier c = none ∧ c ∈ t.nv.carrierless)) ∧ t.dram = s.dram ∧ t.boot = s.boot)) ∧
  ((∀ (s : State) (bad : List (Nat × Nat × Nat)), s.Calm → s.cachedTiles = [] → exec (.digestComparePeriod bad) s = .next s) ∧
  (∀ (s : State) (bad : List (Nat × Nat × Nat)) (c g i : Nat) (sg : Seg) (t : Tile) (b : Bytes), s.Calm → s.f2Runs = true → s.cachedTiles = [(c, g, i)] → s.seg c g = some sg →
    s.tile c g i = some t → sg.kind = .model → sg.prot = false → t.st = .upper → s.dram.readFrame t.frame t.off tileBytes = some b →
    exec (.digestComparePeriod bad) s = .next (if bad.contains (c, g, i) ∨ s.digestOk sg i t b = false then s.coreDone (s.expel c g i t) else s)) ∧
  (∀ (s : State) (bad : List (Nat × Nat × Nat)), s.f2Runs = true →
    exec (.digestComparePeriod bad) s = .next (s.coreDone (s.cachedTiles.foldl (fun (t : State) x => t.compareTile bad x.1 x.2.1 x.2.2) s))) ∧
  (∀ s : State, s.Calm → (∀ p ∈ s.ctxs, p.2.residents = []) → exec .residentScanPeriod s = .next s) ∧
  (∀ s : State, s.f2Runs = true → exec .residentScanPeriod s = .next (s.coreDone (s.ctxs.foldl (fun (t : State) c => t.scanCtx c.1 c.2) s))) ∧
  (∀ (s : State) (p r : Nat), s.running = true → r < scratchRows →
    exec (.scrubWrite p r) s = .next { s with pcores := s.pcores.modify p (fun x => x.scrubRow r) }))

/-- HOST_READ_COMPLETION: an answer frees its tag and brings its part of a read; with its last part the read ends, and the bytes of a MOVE's request, with zeros where they lie
outside the window, go on to the core.
DMA_READ_TIMEOUT: a read that expires or is poisoned frees its tag, is counted and ends, and a MOVE's step faults with ST_DMA_POISON. An answer to no read of the tile changes
nothing. -/
def Obligations.HostReadsReturn : Prop :=
  (∀ (s : State) (tag : Nat) (b : Bytes) (q : Tlp) (g h : LinkRead), s.linkOpen = true → s.link.tags.get? tag = some q → s.link.reads.get? q.read = some g →
    h = { g with parts := g.parts.set q.part (some (fixLen q.len b)) } →
    (h.parts.all (·.isSome) = false → exec (.hostReadCompletion tag b) s = .next (s.coreDone { s with link := { s.link with
      tags := s.link.tags.erase tag, reads := s.link.reads.set q.read h } })) ∧
    (h.parts.all (·.isSome) = true → exec (.hostReadCompletion tag b) s = .next (s.coreDone (({ s with link := { s.link with
      tags := s.link.tags.erase tag, reads := s.link.reads.erase q.read } } : State).landRead h)))) ∧
  (∀ (s : State) (r : LinkRead) (core desc loc : Nat) (x : Running) (f : InFlight), r.who = .request core desc loc → s.isConf r.ctx = false → s.current core = some x →
    s.flight core desc = some f → s.landRead r = s.windowData x core desc loc r.win r.off (fixLen r.len (fixLen r.good ((r.parts.map (fun p => p.getD [])).flatten)))) ∧
  (∀ (s u : State) (tag : Nat) (q : Tlp) (g : LinkRead) (p : Bool), s.link.tags.get? tag = some q → s.link.reads.get? q.read = some g →
    u = ({ s with link := { s.link with tags := s.link.tags.erase tag } } : State).readFailed p →
    exec (.dmaReadTimeout tag p) s = .next (s.coreDone (({ u with link := { u.link with reads := u.link.reads.erase q.read } } : State).readDied g))) ∧
  (∀ (s : State) (r : LinkRead) (core desc loc : Nat) (f : InFlight), r.who = .request core desc loc → s.flight core desc = some f →
    s.readDied r = ((s.raise core (descFault core desc f.desc 4 stDmaPoison)).modMove core desc (fun m => { m with out := m.out - 1, pieces := [] })).settleMove core desc) ∧
  (∀ (s : State) (tag : Nat) (b : Bytes) (p : Bool), s.Calm → s.link.tags.get? tag = none → exec (.hostReadCompletion tag b) s = .next s ∧ exec (.dmaReadTimeout tag p) s = .next s)

/-- PROMOTION_COMPLETE takes its tile off the list: a MODEL tile whose pages were read and that matches its digest is written to its slot, and one that does not is
discarded; a demoted tile whose pages were read and whose blocks pass their checks is written to its slot, and one that is lost is POISONED; the promotion of a segment that is gone
frees its slot. EVICT_AHEAD runs only where the context is short of free slots. DEMOTION_COMPLETE writes the tile, in its encrypted form where it is PROTECTED, and it leaves its slot.
FRAME_ZEROED: a frame that F2 has zeroed reads zero and is free, is kept for the context that claims it, or belongs to the segment that waited for it. -/
def Obligations.TiersProceed : Prop :=
  (∀ (s u : State) (c g i : Nat) (bad words : List (Nat × Nat)) (sg : Seg) (t : Tile), s.running = true → s.tier.promos.contains (c, g, i) = true → s.seg c g = some sg →
    s.tile c g i = some t → s.tier.ghosts.find? (fun x => x.ctx == c && x.seg == g && x.tile == i) = none →
    words = bad.dedup.filter (fun w => decide (w.1 < 4) && decide (w.2 < 8)) →
    u = (({ s with tier := { s.tier with promos := s.tier.promos.filter (fun p => p != (c, g, i)) } } : State).lostPages
      ((words.map (fun w => s.lpage sg i + w.1)).dedup) words.length) →
    (sg.kind = .model → exec (.promotionComplete c g i bad) s = .next (s.coreDone
      (if words = [] ∧ s.masterLost sg i = false ∧ s.digestOk sg i t (s.lowerBytes c g sg i t) = true then (u.promoted c g i t (s.lowerBytes c g sg i t)).wakeAll
      else (u.weightFailed c g i sg.handle t (words.isEmpty && !s.masterLost sg i)).wakeAll))) ∧
    (sg.kind ≠ .model → words = [] → s.masterLost sg i = false → s.badBlocks sg i t = 0 →
      exec (.promotionComplete c g i bad) s = .next (s.coreDone (u.promoted c g i t (s.lowerBytes c g sg i t)).wakeAll)) ∧
    (sg.kind ≠ .model → words ≠ [] ∨ s.masterLost sg i = true →
      exec (.promotionComplete c g i bad) s = .next (s.coreDone ((u.modTile c g i (fun x => { x with st := .poisoned, dirty := true })).lostTile c g i).wakeAll))) ∧
  (∀ (s : State) (c g i : Nat) (bad : List (Nat × Nat)) (x : Ghost), s.running = true → s.tier.ghosts.find? (fun x => x.ctx == c && x.seg == g && x.tile == i) = some x →
    exec (.promotionComplete c g i bad) s = .next (s.coreDone ((({ s with tier := { s.tier with ghosts := s.tier.ghosts.erase x } } : State).freeSlot x.slot).settleGens).wakeAll)) ∧
  (∀ (s : State) (c g i : Nat) (bad : List (Nat × Nat)), s.Calm → s.tier.promos.contains (c, g, i) = false →
    s.tier.ghosts.find? (fun x => x.ctx == c && x.seg == g && x.tile == i) = none → exec (.promotionComplete c g i bad) s = .next s) ∧
  (∀ (s t : State) (c : Nat), s.f2Runs = true → (s.ctx c).isSome = true → s.freeSlots c < 64 → s.clockEvict c = some t → exec (.evictAhead c) s = .next (s.coreDone t)) ∧
  (∀ (s : State) (c : Nat), s.Calm → 64 ≤ s.freeSlots c → exec (.evictAhead c) s = .next s) ∧
  (∀ (s : State) (c g i : Nat) (sg : Seg) (t : Tile) (b : Bytes) (p : Bytes × List SpillIx) (f : Flash), s.running = true → s.tier.demos.contains (c, g, i) = true → s.seg c g = some sg →
    s.tile c g i = some t → t.st = .demoting → s.worn = false → s.dram.readFrame t.frame t.off tileBytes = some b → s.flash.pulses = true →
    p = packTile i sg.prot (closeWith (s.tileKeys c g sg i) b) → s.flash.writeTile .spill (s.lpage sg i) p.1 = some f → exec (.demotionComplete c g i) s = .next (s.coreDone
      (((({ s with tier := { s.tier with demos := s.tier.demos.filter (fun p => p != (c, g, i)) }, flash := f } : State).settleSpares s.flash.spares).modTile c g i
        (fun x => { x with index := p.2 })).leave c g i t).wakeAll)) ∧
  (∀ (s : State) (f : Nat), s.f2Runs = true → s.tier.frames.get? f = some (.zeroing none) →
    (s.tier.claims.get? f = none → exec (.frameZeroed f) s = .next (s.coreDone
      ((({ s with dram := s.dram.zeroFrame f 0 frameBytes } : State).freeFrame f).retireStep (f / groupFrames)).wakeAll)) ∧
    (∀ c, s.tier.claims.get? f = some c → exec (.frameZeroed f) s = .next (s.coreDone
      (({ s with dram := s.dram.zeroFrame f 0 frameBytes, tier := { s.tier with claims := s.tier.claims.erase f } } : State).setFrame f (.kept c)).wakeAll))) ∧
  (∀ (s : State) (f c g : Nat), s.f2Runs = true → s.tier.frames.get? f = some (.zeroing (some (c, g))) →
    exec (.frameZeroed f) s = .next (s.coreDone ((s.setFrame f (.segment c g)).mapDone c g)))

/- The DRAM. -/

/-- DRAM_READ_REQUEST: a read that a queued write matches is answered from the newest such entry without an access, and any other enters the channel's queue, with the class of its
context, while it has room; a DOWN channel gives no data, and a quad that is off zeros.
DRAM_READ_ISSUE issues the read that R278 chooses and opens its row; DRAM_READ_DATA brings the oldest issued read its block, corrected where one symbol is wrong; one that
cannot be read is counted and answered with none.
Every DRAM row stops on a frame, block, channel, bank, quad or group that does not exist. -/
def Obligations.DramReads : Prop :=
  (∀ s : State,
    (∀ f b w, 57600 ≤ f ∨ 32768 ≤ b → (∀ t, exec (.dramReadRequest f b w t) s = .fault .absentDram) ∧ (∀ d, exec (.dramWriteRequest f b w d) s = .fault .absentDram)) ∧
    (∀ c, 32 ≤ c → (∀ a, exec (.dramReadIssue c a) s = .fault .absentDram) ∧ (∀ e, exec (.dramReadData c e) s = .fault .absentDram) ∧
      (∀ a r, exec (.writeDrainBurst c a r) s = .fault .absentDram) ∧ (∀ b, exec (.pageIdleClose c b) s = .fault .absentDram) ∧
      (∀ r q, exec (.mr4Poll c r q) s = .fault .absentDram) ∧ (∀ d, exec (.retrainDue c d) s = .fault .absentDram) ∧
      exec (.retrainSliceStart c) s = .fault .absentDram ∧ (∀ p, exec (.retrainSliceEnd c p) s = .fault .absentDram) ∧
      (∀ r, exec (.rankRetire c r) s = .fault .absentDram) ∧ exec (.channelSwitchDone c) s = .fault .absentDram) ∧
    (∀ c b, 32 ≤ c ∨ 32 ≤ b → (∀ m, exec (.refresh c b m) s = .fault .absentDram) ∧ (∀ r, exec (.neighbourRefresh c b r) s = .fault .absentDram)) ∧
    (∀ g b, 8 ≤ g → exec (.migrationFrameCopied g b) s = .fault .absentDram) ∧
    (∀ c r q, 32 ≤ c ∨ 2 ≤ r ∨ 4 ≤ q → exec (.quadPowerDown c r q) s = .fault .absentDram ∧ exec (.quadOffAck c r q) s = .fault .absentDram ∧
      exec (.quadPowerUp c r q) s = .fault .absentDram ∧ exec (.quadPowerUpDone c r q) s = .fault .absentDram)) ∧
  (∀ (s : State) (f b k tag : Nat) (w : Requester), s.running = true → f < 57600 → b < 32768 → k = s.dram.keyOf f b →
    ((s.dram.chan (keyChan k)).state = 3 → exec (.dramReadRequest f b w tag) s = .next (s.dramDone { s.ueRead k w with dram := (s.ueRead k w).dram.answer tag none })) ∧
    ((s.dram.chan (keyChan k)).state ≠ 3 →
      (s.dram.accepts k = false → exec (.dramReadRequest f b w tag) s = .next (s.dramDone { s.lateRequest f w with
        dram := (s.lateRequest f w).dram.answer tag (some (List.replicate 64 0#8)) })) ∧
      (s.dram.accepts k = true →
        (∀ d, s.dram.queued k = some d → exec (.dramReadRequest f b w tag) s = .next { s with dram := { s.dram with answers := s.dram.answers ++ [(tag, some d)] } }) ∧
        (s.dram.queued k = none → exec (.dramReadRequest f b w tag) s = .next (if (s.dram.chan (keyChan k)).reads.length < 128 then { s with
          dram := s.dram.setChan (keyChan k) (fun x => { x with reads := x.reads ++ [⟨keyRank k, keyIdx k, s.reqClass w, w, tag, none⟩] }) } else s))))) ∧
  (∀ (s : State) (c : Nat) (aged : Bool) (r : DramRead) (cls used : Nat), s.running = true → c < 32 → (s.dram.chan c).issues = true →
    (s.dram.chan c).choose ((List.range 4).map (fun i => s.param 0x0202 i)) aged (fun r => (s.dram.chan c).bankFree r.rank r.block) = some (r, cls, used) →
    exec (.dramReadIssue c aged) s = .next (State.activated { s with dram := s.dram.setChan c (fun x => { x with
      reads := x.reads.erase r, issued := x.issued ++ [r], openRows := x.openRows.set (blockBank r.rank r.block).1 (blockBank r.rank r.block).2,
      wrrClass := cls, wrrUsed := used }) } c
      (if (s.dram.chan c).openRows.get? (blockBank r.rank r.block).1 = some (blockBank r.rank r.block).2 then [] else [blockBank r.rank r.block]))) ∧
  (∀ (s t : State) (c k : Nat) (r : DramRead) (rest : List DramRead), s.running = true → c < 32 → r.rank < 2 → r.block < 31457280 → (s.dram.chan c).issued = r :: rest →
    k = blockKey c r.rank r.block → t = { s with dram := s.dram.setChan c (fun x => { x with issued := rest }) } →
    (∀ b, r.kept.getD (s.dram.array k) = some b → exec (.dramReadData c []) s = .next { s with dram := t.dram.answer r.tag (some b) }) ∧
    (r.kept.getD (s.dram.array k) = none → exec (.dramReadData c []) s = .next (s.dramDone { t.ueRead k r.who with dram := (t.ueRead k r.who).dram.answer r.tag none })) ∧
    (∀ (e : List (Nat × Nat)) (b : Bytes) (i m : Nat) (u : State), r.kept.getD (s.dram.array k) = some b → (∀ p ∈ e, p.1 < 72) → eccDecode e = .corrected i m → t.keysOf k = none →
      u = t.countCe c (keyRank k) (keyIdx k) → exec (.dramReadData c e) s = .next (s.dramDone { u with
        dram := (if r.kept.isSome ∨ (u.dram.queued k).isSome then u.dram else (u.dram.queueWrite k (errData ((i, m) :: e) b)).getD (u.dram.store k (errData ((i, m) :: e) b))).answer
          r.tag (some (errData ((i, m) :: e) b)) })))

/-- DRAM_WRITE_REQUEST: a write enters its channel's queue, or replaces the data of the queued write of the same block, and a read of that block is then answered with it; while its
frame is being copied it goes to the spare rank's queue too; a full queue takes nothing, a DOWN channel loses it, and a quad that is off drops it.
WRITE_DRAIN_BURST writes the blocks it takes from the queue into the array, and the poison words that were found to disagree. -/
def Obligations.DramWrites : Prop :=
  (∀ (s : State) (f b k : Nat) (r : Requester) (w : Bytes), s.running = true → f < 57600 → b < 32768 → k = s.dram.keyOf f b →
    ((s.dram.chan (keyChan k)).state = 3 → exec (.dramWriteRequest f b r w) s = .next (s.dramRow (s.lostWrite k))) ∧
    ((s.dram.chan (keyChan k)).state ≠ 3 → s.dram.accepts k = false → exec (.dramWriteRequest f b r w) s = .next (s.dramRow (s.lateRequest f r))) ∧
    ((s.dram.chan (keyChan k)).state ≠ 3 → s.dram.accepts k = true →
      (s.dram.mirror f b = none → keyChan k < s.dram.chans.length → w.length = 64 → s.dram.queued k ≠ none ∨ (s.dram.chan (keyChan k)).writes.length < 64 → ∃ d,
        exec (.dramWriteRequest f b r w) s = .next { s with dram := d } ∧ d.queued k = some w ∧ d.data = s.dram.data ∧ d.poison = s.dram.poison ∧
        (∀ i, i ≠ keyChan k → d.chan i = s.dram.chan i)) ∧
      (∀ m d e, s.dram.mirror f b = some m → s.dram.queueWrite k w = some d → d.queueWrite m w = some e →
        exec (.dramWriteRequest f b r w) s = .next { s with dram := e }) ∧
      (s.dram.queued k = none → 64 ≤ (s.dram.chan (keyChan k)).writes.length → exec (.dramWriteRequest f b r w) s = .next s))) ∧
  (∀ (s : State) (c aged : Nat) (idle : Bool) (r : List DramWrite × List DramWrite × AList Nat), s.running = true → c < 32 → (s.dram.chan c).issues = true →
    (48 ≤ (s.dram.chan c).writes.length ∨ aged ≠ 0 ∨ idle = true) →
    r = drainWrites (s.dram.chan c).canDrain (s.dram.chan c).writes.length (s.dram.chan c).openRows ((s.dram.chan c).writes.take aged) (s.dram.chan c).writes →
    exec (.writeDrainBurst c aged idle) s = .next (State.activated { s with
      dram := (r.1.foldl (fun (x : Dram) w => x.store (blockKey c w.rank w.block) w.data) (s.dram.poisonAll (s.dram.chan c).repoison)).setChan c (fun x =>
         { x with writes := r.2.1, openRows := r.2.2, repoison := [] }) } c (rowActs (s.dram.chan c).openRows r.1)))

/-- PAGE_IDLE_CLOSE: an idle row closes. REFRESH: a refresh is pulled in, postponed or forced by the bank's requests and its debt, and a refresh management command likewise with
a debt of its own. MR4_POLL gives the higher rate of the two ranks. NEIGHBOUR_REFRESH: one that was scheduled closes the row and counts; one that was not changes nothing.
PATROL_SCRUB reads the next block and moves on; a block it cannot read is counted and left to its next read. -/
def Obligations.DramUpkeep : Prop :=
  (∀ (s : State) (c b : Nat), s.running = true → c < 32 → (s.dram.chan c).bankBusy b = false → exec (.pageIdleClose c b) s = .next
    { s with dram := s.dram.setChan c (fun x => { x with openRows := x.openRows.erase b }) }) ∧
  (∀ (s : State) (c b : Nat) (m : Bool), s.running = true → c < 32 → b < 32 → (s.dram.chan c).issues = true → (s.dram.chan c).refreshed b = true →
    c < s.dram.chans.length → ∃ d : Dram, exec (.refresh c b m) s = .next { s with dram := d } ∧ (∀ k, k ≠ c → d.chan k = s.dram.chan k) ∧ d.data = s.dram.data ∧
      (let due (x : Nat) : Nat := if (s.dram.chan c).bankBusy b = false then x - 1 else if x < 8 then x + 1 else 7
      AList.getD (d.chan c).debt b 0 = (if m then AList.getD (s.dram.chan c).debt b 0 else due (AList.getD (s.dram.chan c).debt b 0)) ∧
      AList.getD (d.chan c).rfmDebt b 0 = (if m then due (AList.getD (s.dram.chan c).rfmDebt b 0) else AList.getD (s.dram.chan c).rfmDebt b 0))) ∧
  (∀ (s : State) (c : Nat) (r q : BitVec 4), s.running = true → c < 32 → (s.dram.chan c).state ≠ 3 → exec (.mr4Poll c r q) s = .next
    { s with dram := s.dram.setChan c (fun x => { x with rate := if r.toNat < q.toNat then q else r }) }) ∧
  (∀ (s : State) (c b row : Nat), s.running = true → c < 32 → b < 32 → (s.dram.chan c).issues = true →
    exec (.neighbourRefresh c b row) s = .next (if (s.dram.chan c).pnrDue.contains (b, row) then { s with dram := s.dram.setChan c (fun x =>
      { x with pnr := satUp x.pnr, pnrDue := x.pnrDue.erase (b, row), openRows := x.openRows.erase b }) } else s)) ∧
  (∀ (s : State) (k : Nat), s.f2Runs = true → s.dram.patrolNext s.dram.patrol = some k →
    (∀ w, s.dram.array k = some w → exec (.patrolScrub []) s = .next { s with dram := { s.dram with patrol := (k + 1) % (256 * quadBlocks) } }) ∧
    (s.dram.array k = none → exec (.patrolScrub []) s = .next (s.dramRow { (s.countChanUe (keyChan k)) with
      dram := { (s.countChanUe (keyChan k)).dram with patrol := (k + 1) % (256 * quadBlocks) } })))

/-- RETRAIN_DUE: a channel that is due for its cause is marked, and begins when its group is free. RETRAIN_SLICE_START and RETRAIN_SLICE_END: slices start and end; a pass on the last
slice ends the training with RETRAIN_DONE. RANK_RETIRE: a rank at a threshold starts its retirement, after a retraining where the errors point at its whole channel, or finds the
spare exhausted. MIGRATION_FRAME_COPIED: a frame is copied and counted. SET_POINT_CHANGE and CHANNEL_SWITCH_DONE: the channels switch to a new set point one after the other.
What points at a whole channel is the model's choice (notes/assumptions/50.md). -/
def Obligations.DramService : Prop :=
  (∀ (s t : State) (c : Nat) (d : DueCause), s.f2Runs = true → c < 32 → t = { s with dram := s.dram.setChan c (fun x =>
      { x with temp := match d with | .temperature v => v | _ => (s.dram.chan c).temp }) } →
    ((s.dram.chan c).state ≠ 3 → (s.dram.chan c).due = false → (s.dram.chan c).training = none → s.isDue (s.dram.chan c) d = true →
      exec (.retrainDue c d) s = .next (s.dramRow (({ t with dram := t.dram.setChan c (fun x => { x with due := true }) } : State).trainNext (c / 4)))) ∧
    (s.isDue (s.dram.chan c) d = false → exec (.retrainDue c d) s = .next t)) ∧
  (∀ (s : State) (c : Nat), s.f2Runs = true → c < 32 → (s.dram.chan c).state = 1 → s.dram.change = none → exec (.retrainSliceStart c) s = .next
    { s with dram := s.dram.setChan c (fun x => { x with openRows := [], training := x.training.map (fun t => { t with inSlice := true }) }) }) ∧
  (∀ (s u : State) (c : Nat) (ok : Bool) (t : Training), s.f2Runs = true → c < 32 → (s.dram.chan c).training = some t → t.inSlice = true →
    u = { s with dram := s.dram.setChan c (fun x => { x with training := some { t with slices := t.slices + 1, inSlice := false } }) } →
    exec (.retrainSliceEnd c ok) s = .next (s.dramDone ((if t.slices + 1 < trainSlices then u else u.verified c t ok).settlePoint))) ∧
  (∀ (s : State) (c : Nat) (t : Training), s.verified c t true = (s.endTraining c (fun x =>
    { x with trainCnt := satUp x.trainCnt, lastTrain := s.boot.timer, tempAtTrain := x.temp })).dramEvent 0) ∧
  (∀ (s : State) (c : Nat) (rk : Bool), s.f2Runs = true → c < 32 → s.dram.isRetired c rk = false → s.mustRetire c rk = true →
    (s.dram.isSpare c rk = false ∨ (s.dram.group (c / 4)).spareState = 3) →
    exec (.rankRetire c rk) s = .next (s.dramRow (if s.blamesChannel c = true then s.retrainFirst c
      else if (s.dram.group (c / 4)).spareState = 0 then s.retireStart c rk else s.spareExhausted c rk))) ∧
  (∀ (s u : State) (g ch : Nat) (rk : Bool) (bad : List Nat), s.f2Runs = true → g < 8 → (s.dram.group g).retired = some (ch, rk) → (s.dram.group g).spareState = 2 →
    (List.range 4).all (fun q => (s.dram.chan (g * 4 + (s.dram.group g).spareCh.toNat)).quad (b2n (s.dram.group g).spareRank) q == .on) = true →
    (s.dram.group g).migProgress.toNat + 1 < 960 → u = bad.foldl (fun (u : State) _ => u.countChanUe (g * 4 + ch)) s → exec (.migrationFrameCopied g bad) s = .next (s.dramRow { u with
      dram := (u.dram.copyFrame (blockKey (g * 4 + ch) (b2n rk) ((s.dram.group g).migProgress.toNat * frameBlocks))
        (blockKey (g * 4 + (s.dram.group g).spareCh.toNat) (b2n (s.dram.group g).spareRank) ((s.dram.group g).migProgress.toNat * frameBlocks)) bad).setGroup g
          (fun y => { y with migProgress := BitVec.ofNat 10 ((s.dram.group g).migProgress.toNat + 1) }) })) ∧
  (∀ s : State, s.f2Runs = true → exec (.setPointChange s.wantedPoint) s = .next (s.dramRow s.settlePoint)) ∧
  (∀ (s : State) (c : Nat) (p : BitVec 2), s.f2Runs = true → c < 32 → s.dram.change = some (p, c) → exec (.channelSwitchDone c) s = .next (s.dramRow
    ((({ s with dram := (s.dram.setChan c (fun x => { x with state := if x.state = 3 then 3 else if x.training.isSome then 1 else 0 })).switchFrom p (c + 1) } : State).settlePoint).trainNext (c / 4))))

/-- QUAD_POWER_DOWN: a quad that holds no frame in use closes; QUAD_OFF_ACK: it is off once its requests have drained; QUAD_POWER_UP: it rises when it is asked for, after a closing
that is under way; QUAD_POWER_UP_DONE: it is up and holds undefined data, and the segments that waited for a frame are placed. DRAM_TRAIN_REQUEST and DRAM_RETIRE_REQUEST: the
training and retirement requests of the PF's registers.
The undefined data is a free value (notes/assumptions/6.md). -/
def Obligations.QuadPower : Prop :=
  (∀ (s : State) (c r q : Nat), s.f2Runs = true → c < 32 → r < 2 → q < 4 → (s.dram.chan c).quad r q = .on → s.quadUsed c r q = false →
    (s.dram.isSpare c (r == 1) = false ∨ (s.dram.group (c / 4)).spareState = 0 ∨ (s.dram.group (c / 4)).spareState = 3) →
    exec (.quadPowerDown c r q) s = .next { s with dram := s.dram.setChan c (fun x => x.setQuad r q (.closing false)) }) ∧
  (∀ (s : State) (c r q : Nat) (up : Bool), s.running = true → c < 32 → r < 2 → q < 4 → (s.dram.chan c).quad r q = .closing up →
    (∀ w ∈ (s.dram.chan c).writes, w.rank = r → blockQuad w.block ≠ q) → (∀ x ∈ (s.dram.chan c).reads, x.rank = r → blockQuad x.block ≠ q) →
    exec (.quadOffAck c r q) s = .next { s with dram := s.dram.setChan c (fun x =>
      { (x.setQuad r q (if up then .rising else .off)) with openRows := x.openRows.filter (fun p => !(p.1 / 16 == r && p.1 % 4 == q)),
                                                             pnrDue := x.pnrDue.filter (fun p => !(p.1 / 16 == r && p.1 % 4 == q)) }) }) ∧
  (∀ (s : State) (c r q : Nat), s.f2Runs = true → c < 32 → r < 2 → q < 4 → s.dram.dark c r q = false →
    ((s.dram.chan c).quad r q = .off → exec (.quadPowerUp c r q) s = .next { s with dram := s.dram.setChan c (fun x => x.setQuad r q .rising) }) ∧
    ((s.dram.chan c).quad r q = .closing false → exec (.quadPowerUp c r q) s = .next { s.pwrEvent 4 with dram := s.dram.setChan c (fun x => x.setQuad r q (.closing true)) })) ∧
  (∀ (s : State) (c r q : Nat), s.running = true → c < 32 → r < 2 → q < 4 → (s.dram.chan c).quad r q = .rising → ∃ t : State,
    exec (.quadPowerUpDone c r q) s = .next (s.dramRow (s.tier.unplaced.foldl (fun (u : State) p => u.placeSeg p.1 p.2) t)) ∧
    t = { s with dram := t.dram } ∧ t.dram.chans = (s.dram.setChan c (fun x => x.setQuad r q .on)).chans ∧ t.dram.data = s.dram.data ∧
    (∀ k, blockKey c r (q * quadBlocks) ≤ k → k < blockKey c r (q * quadBlocks) + quadBlocks → k ∉ t.dram.poison ∧ k ∉ t.dram.bad)) ∧
  (∀ (s : State) (e : MboxEntry), s.nextEntry = some (0, e) → s.drainRow 0 e = .train → (s.dram.chan (e.val.toNat % 32)).state ≠ 3 →
    (s.dram.chan (e.val.toNat % 32)).due = false → (s.dram.chan (e.val.toNat % 32)).training = none → e.val.toNat % 32 < s.dram.chans.length → ∃ t,
    exec .dramTrainRequest s = .next t ∧ (t.func 0).mbox = (s.func 0).mbox.tail ∧ ((t.dram.chan (e.val.toNat % 32)).due = true ∨
      (t.dram.chan (e.val.toNat % 32)).training ≠ none) ∧ t.ctxs = s.ctxs) ∧
  (∀ (s t r : State) (e : MboxEntry), s.nextEntry = some (0, e) → s.drainRow 0 e = .retire → (s.func 0).reads = [] →
    t = { s.modFunc 0 (fun x => { x with mbox := x.mbox.tail }) with pf := { s.pf with turn := 0, sharedTurn := if s.ownsCtx 0 then s.pf.sharedTurn else 0 } } →
    r = (t.retireRequest (e.val.toNat % 32) (e.val.toNat.testBit 5)).answerReads 0 →
    exec .dramRetireRequest s = .next { s.dramRow r with out := r.out, queues := r.queues })

/- The flash array. -/

/-- FLASH_READ_ISSUE: a page read goes to its die, where it waits while a pulse is under way and is sensed when its plane senses none. FLASH_READ_DONE: a read whose codewords all decode
answers its page; the others climb the ladder. FLASH_RETRY_SENSE_DONE climbs it, and codewords that the soft sense cannot decode either are counted and the read answers
none. A block with a page that needed a retry, or more than 72 corrections in a codeword, is to be relocated. A die, plane, page or block that does not exist stops. -/
def Obligations.FlashReads : Prop :=
  (∀ (s : State) (d l : Nat), 64 ≤ d ∨ 8 ≤ l → (∀ x, exec (.flashReadDone d l x) s = .fault .absentFlash) ∧ (∀ x, exec (.flashRetrySenseDone d l x) s = .fault .absentFlash) ∧
    exec (.flashPulseEnd d l) s = .fault .absentFlash ∧ (∀ x, exec (.flashProgramDone d l x) s = .fault .absentFlash) ∧ (∀ x, exec (.flashEraseDone d l x) s = .fault .absentFlash) ∧
    (∀ x, exec (.garbageCollection d l x) s = .fault .absentFlash)) ∧
  (∀ (s : State) (p tag : Nat), pageOk p = false → exec (.flashReadIssue (paDie p) p tag) s = .fault .absentFlash ∧ ∀ w b, exec (.flashProgramIssue p w b) s = .fault .absentFlash) ∧
  (∀ (s : State) (b : Nat), 73728 ≤ b → exec (.flashEraseIssue b) s = .fault .absentFlash ∧ ∀ x, exec (.relocation b x) s = .fault .absentFlash) ∧
  (∀ (s : State) (p tag : Nat), s.running = true → pageOk p = true →
    ((s.flash.die (paDie p)).pulsing = false → (s.flash.die (paDie p)).waiting = [] → (s.flash.die (paDie p)).senses (paPlane p) = false → ∃ f,
      exec (.flashReadIssue (paDie p) p tag) s = .next { s with flash := f } ∧ (f.die (paDie p)).waiting = [] ∧ (f.die (paDie p)).sensing = (s.flash.die (paDie p)).sensing ++
        [⟨p, tag, 0, List.range 8, decide (paPage p % 2 = 1 ∧ ((s.flash.die (paDie p)).upperReads + 1) % 64 = 0), false⟩] ∧
      (f.block (paBlockId p)).reads = (s.flash.block (paBlockId p)).reads + 1 ∧ f.cells = s.flash.cells ∧ f.map = s.flash.map) ∧
    ((s.flash.die (paDie p)).pulsing = true → exec (.flashReadIssue (paDie p) p tag) s = .next { s with flash := s.flash.modDie (paDie p) (fun x =>
      { x with waiting := x.waiting ++ [⟨p, tag, 0, List.range 8, false, false⟩] }) })) ∧
  (∀ (s : State) (d l : Nat) (flips : List (List Nat)) (r : FlashRead), s.running = true → d < 64 → l < 8 →
    (s.flash.die d).sensing.find? (fun r => paPlane r.addr == l && r.ladder == 0) = some r →
    ((∀ c ∈ r.left, (flips.getD c []).length ≤ 96) → ∃ f, exec (.flashReadDone d l flips) s = .next { s with flash := f } ∧
      f.answers = s.flash.answers ++ [(r.tag, some (s.flash.readPage r.addr))] ∧ f.cells = s.flash.cells ∧
      (r.many = true ∨ (∃ c ∈ r.left, 72 < (flips.getD c []).length) → (f.block (paBlockId r.addr)).relocate = true)) ∧
    ((∃ c ∈ r.left, 96 < (flips.getD c []).length) → ∃ f q, exec (.flashReadDone d l flips) s = .next { s with flash := f } ∧ f.answers = s.flash.answers ∧ f.cells = s.flash.cells ∧
      q.ladder = 2 ∧ q.addr = r.addr ∧ q.tag = r.tag ∧ q.left = r.left.filter (fun c => decide (96 < (flips.getD c []).length)) ∧
      (f.die d).sensing = (s.flash.die d).sensing.map (fun x => if paPlane x.addr = paPlane r.addr then q else x))) ∧
  (∀ (s : State) (d l : Nat) (flips : List (List Nat)) (r : FlashRead), s.running = true → d < 64 → l < 8 →
    (s.flash.die d).sensing.find? (fun r => paPlane r.addr == l && r.ladder != 0) = some r →
    ((∀ c ∈ r.left, (flips.getD c []).length ≤ ladderBound r.ladder) → ∃ t, exec (.flashRetrySenseDone d l flips) s = .next t ∧
      t.flash.answers = s.flash.answers ++ [(r.tag, some (s.flash.readPage r.addr))] ∧ (t.flash.block (paBlockId r.addr)).relocate = true ∧ t.flash.cells = s.flash.cells ∧
      (if r.ladder = 9 then t.flash.softCnt = satUp s.flash.softCnt else t.flash.retryCnt = satUp s.flash.retryCnt)) ∧
    (r.ladder ≠ 9 → (∃ c ∈ r.left, 96 < (flips.getD c []).length) → ∃ t q, exec (.flashRetrySenseDone d l flips) s = .next t ∧ t.flash.retryCnt = satUp s.flash.retryCnt ∧
      t.flash.answers = s.flash.answers ∧ q.ladder = r.ladder + 1 ∧ q.addr = r.addr ∧ q.tag = r.tag ∧ q.left = r.left.filter (fun c => decide (96 < (flips.getD c []).length)) ∧
      (t.flash.die d).sensing = (s.flash.die d).sensing.map (fun x => if paPlane x.addr = paPlane r.addr then q else x)) ∧
    (r.ladder = 9 → (∃ c ∈ r.left, 220 < (flips.getD c []).length) → ∃ t, exec (.flashRetrySenseDone d l flips) s = .next t ∧ t.flash.softCnt = satUp s.flash.softCnt ∧
      t.flash.ueCnt = satPlus s.flash.ueCnt (r.left.filter (fun c => decide (220 < (flips.getD c []).length))).length ∧
      t.flash.answers = s.flash.answers ++ [(r.tag, none)] ∧ t.pf.flEv.isSet 5 = true ∧ t.flash.cells = s.flash.cells))

/-- FLASH_PROGRAM_ISSUE: a program that the block's order takes starts on an idle plane; one that it does not take is refused before any pulse, counted and logged, and its data goes
to another block; a WORN array takes relocations of model data and the fixed blocks' programs only. FLASH_PROGRAM_DONE: data stands in its page when it passes; a program that
fails retires its block, and its data goes to another.
That the fixed blocks are programmed while WORN is the model's choice (notes/assumptions/40.md). -/
def Obligations.FlashPrograms : Prop :=
  (∀ (s : State) (p : Nat) (w : Programmer) (b : Bytes), s.running = true → pageOk p = true → s.mayProgram w = true → s.flash.accepts p = true →
    s.flash.op (paDie p) (paPlane p) = none → s.flash.pulses = true → ∃ t, exec (.flashProgramIssue p w b) s = .next t ∧
    t.flash.op (paDie p) (paPlane p) = some ⟨.program p (writerOf w) b, (s.flash.die (paDie p)).sensing.isEmpty && (s.flash.die (paDie p)).waiting.isEmpty, 0⟩ ∧
    (t.flash.block (paBlockId p)).pages = (s.flash.block (paBlockId p)).pages + 1 ∧ t.flash.cells = s.flash.cells ∧ t.nv = s.nv ∧ t.dram = s.dram) ∧
  (∀ (s : State) (p : Nat) (w : Programmer) (b : Bytes), s.running = true → pageOk p = true → s.mayProgram w = true → s.flash.accepts p = false → ∃ t,
    exec (.flashProgramIssue p w b) s = .next t ∧ t.flash.refused = satUp s.flash.refused ∧ t.flash.cells = s.flash.cells ∧ t.pf.flEv.isSet 3 = true ∧ t.dram = s.dram ∧
    (⟨writerOf w, paDie p * 8 + paPlane p, paBlockId p, b⟩ ∈ t.flash.owed ∨
      ∃ d l a o, t.flash.op d l = some o ∧ o.work = .program a (writerOf w) b ∧ paBlockId a ≠ paBlockId p)) ∧
  (∀ (s : State) (p : Nat) (w : Programmer) (b : Bytes), s.running = true → pageOk p = true → s.mayProgram w = false → exec (.flashProgramIssue p w b) s = .next s) ∧
  (∀ (s : State) (d l p n : Nat) (w : FlashWriter) (b : Bytes), s.running = true → d < 64 → l < 8 → s.flash.op d l = some ⟨.program p w b, true, n⟩ → b.length = 16384 →
    ∃ t, exec (.flashProgramDone d l true) s = .next t ∧ t.flash.readPage p = b ∧ (∀ a, a < p * 16384 ∨ p * 16384 + 16384 ≤ a → t.flash.cells.read a = s.flash.cells.read a) ∧
      t.nv = s.nv ∧ t.dram = s.dram) ∧
  (∀ (s : State) (d l p n : Nat) (w : FlashWriter) (b : Bytes), s.running = true → d < 64 → l < 8 → s.flash.op d l = some ⟨.program p w b, true, n⟩ → ∃ t,
    exec (.flashProgramDone d l false) s = .next t ∧ t.flash.progFail = satUp s.flash.progFail ∧ t.pf.flEv.isSet 4 = true ∧ (t.flash.block (paBlockId p)).state = .retired ∧
    t.flash.cells = s.flash.cells ∧ (⟨w, paDie p * 8 + paPlane p, paBlockId p, b⟩ ∈ t.flash.owed ∨
      ∃ e k a o, t.flash.op e k = some o ∧ o.work = .program a w b ∧ paBlockId a ≠ paBlockId p))

/-- FLASH_ERASE_ISSUE: a queued erase of a block with no valid page starts on an idle plane, with a journal record. FLASH_ERASE_DONE: one that passes leaves the block's pages blank and
counts; one that fails retires it. -/
def Obligations.FlashErases : Prop :=
  (∀ (s : State) (b : Nat), s.f3Runs = true → b < 73728 → s.flash.mayErase b = true → ∃ f, exec (.flashEraseIssue b) s = .next { s with flash := f } ∧
    f.op (blockIdDie b) (blockIdPlane b) = some ⟨.erase b, true, 0⟩ ∧ (f.block b).state = .erasing ∧ f.records = s.flash.records ++ [.eraseBegin b] ∧ f.cells = s.flash.cells) ∧
  (∀ (s : State) (b : Nat), s.f3Runs = true → b < 73728 → s.flash.mayErase b = false → exec (.flashEraseIssue b) s = .next s) ∧
  (∀ (s : State) (d l b n : Nat), s.running = true → d < 64 → l < 8 → b < 73728 → s.flash.op d l = some ⟨.erase b, true, n⟩ → ∃ t,
    exec (.flashEraseDone d l true) s = .next t ∧ (∀ p < 1024, ∀ i < 16384, t.flash.cells.read (blockPage b p * 16384 + i) = 0) ∧
      (∀ a, paBlockId (a / 16384) ≠ b → t.flash.cells.read a = s.flash.cells.read a) ∧ (t.flash.block b).erases = (s.flash.block b).erases + 1 ∧
      (∀ x, x ≠ b → (t.flash.block x).erases = (s.flash.block x).erases) ∧ (s.flash.owed = [] → (t.flash.block b).state = .erased ∧ (t.flash.block b).pages = 0) ∧
      t.flash.records = s.flash.records ++ [.eraseEnd b] ∧ b ∉ t.flash.eraseQueue ∧ t.nv = s.nv) ∧
  (∀ (s : State) (d l b n : Nat), s.running = true → d < 64 → l < 8 → b < 73728 → s.flash.op d l = some ⟨.erase b, true, n⟩ → ∃ t,
    exec (.flashEraseDone d l false) s = .next t ∧ t.flash.eraseFail = satUp s.flash.eraseFail ∧ b ∉ t.flash.eraseQueue ∧ (t.flash.block b).state = .retired ∧
      t.flash.cells = s.flash.cells)

/-- FLASH_PULSE_END: a pulse that ends while reads wait is suspended for them, at most 8 times. CAL_STATISTICS_FULL: full statistics move an offset by at most one step and restart.
RELOCATION, GARBAGE_COLLECTION, STATIC_WEAR_LEVELLING and JOURNAL_CHECKPOINT: F3 relocates, collects, levels and takes checkpoints when its conditions hold, and a checkpoint keeps the
records of erases under way.
Which block is moved, and where to, is the model's choice (notes/assumptions/19.md, notes/assumptions/40.md). -/
def Obligations.FlashUpkeep : Prop :=
  (∀ (s : State) (d l : Nat) (o : PlaneOp), s.running = true → d < 64 → l < 8 → s.flash.op d l = some o → o.pulsing = true →
    ((s.flash.die d).waiting ≠ [] → o.suspends < 8 → ∃ f, exec (.flashPulseEnd d l) s = .next { s with flash := f } ∧
      f.op d l = some { o with pulsing := false, suspends := o.suspends + 1 } ∧ f.cells = s.flash.cells) ∧
    ((s.flash.die d).waiting = [] ∨ 8 ≤ o.suspends → s.flash.pulses = true → exec (.flashPulseEnd d l) s = .next s)) ∧
  (∀ (s : State) (d l b : Nat), s.f3Runs = true → d < 64 → l < 3 → b < 8 → 4096 ≤ (AList.getD s.flash.stats ((d * 8 + b) * 3 + l) ⟨0, 0, 0⟩).words → ∃ f,
    exec (.calStatisticsFull d l b) s = .next { s with flash := f } ∧ f.stats = s.flash.stats.erase ((d * 8 + b) * 3 + l) ∧
      ((AList.getD s.flash.offsets ((d * 8 + b) * 3 + l) 0).natAbs ≤ 31 → (AList.getD f.offsets ((d * 8 + b) * 3 + l) 0).natAbs ≤ 31 ∧
        (AList.getD f.offsets ((d * 8 + b) * 3 + l) 0 - AList.getD s.flash.offsets ((d * 8 + b) * 3 + l) 0).natAbs ≤ 1) ∧
      f.cells = s.flash.cells) ∧
  (∀ (s : State) (b : Nat) (bad : List (Nat × Nat)), s.f3Runs = true → b < 73728 → s.mayMove b = true → (s.flash.block b).relocate = true ∨ 2 ^ 27 ≤ (s.flash.block b).reads →
    exec (.relocation b bad) s = .next (s.flashRow (s.relocateBlock b bad))) ∧
  (∀ (s : State) (d p b : Nat) (bad : List (Nat × Nat)), s.f3Runs = true → d < 64 → p < 8 →
    ((s.flash.planeBlocks d p).filter (fun b => (s.flash.block b).state == .erased)).length < 2 → s.flash.emptiest d p = some b → s.mayMove b = true →
    exec (.garbageCollection d p bad) s = .next (s.flashRow (s.relocateBlock b bad))) ∧
  (∀ (s : State) (b n : Nat) (bad : List (Nat × Nat)), s.f3Runs = true → s.flash.leastWorn = some b → s.flash.mostWornFree = some n → s.mayMove b = true →
    s.flash.minPe + 256 < s.flash.maxPe → exec (.staticWearLevelling bad) s = .next (s.flashRow (s.moveBlock b n bad))) ∧
  (∀ s : State, s.f3Runs = true → s.flash.pulses = true → 4096 ≤ s.flash.records.length → exec .journalCheckpoint s = .next { s with flash := { s.flash with
    checkpoint := s.flash.map.filter (fun p => !isSpill p.1), records := (openErases s.flash.records).reverse.map .eraseBegin, saved := s.flash.offsets } }) ∧
  (∀ s : State, s.flash.records.length < 4096 ∨ s.flash.pulses = false → exec .journalCheckpoint s = .next s)

/- Firmware and power. -/

/-- WATCHDOG_EXPIRY: a watchdog's first expiry takes its core out of service and counts; a second one within its time resets the tile and skips the core's slot. FW_CORE_RESTART
brings a core back. FW_ACTIVATE_CONFIRM: an activation whose cores have all restarted completes. CFG_RECORD_APPLY: a configuration record takes effect at its quiescent point.
LOG_ENTRY_DELIVERY and CAIRN_RECORD_DELIVERY: the oldest log entry and Cairn record go out. -/
def Obligations.FirmwareRows : Prop :=
  (∀ (s : State) (n : Nat), s.running = true → n < 4 → n < s.fw.cores.length → s.coreOut n = false → s.secondStage n = false → s.fw.activate = none → ∃ t,
    exec (.watchdogExpiry n) s = .next t ∧ t.coreOut n = true ∧ t.fw.expiryCnt = satUp s.fw.expiryCnt ∧ t.pf.fwEv.isSet 1 = true ∧ t.boot = s.boot ∧ t.nv = s.nv ∧
      (∀ k, k ≠ n → t.coreOut k = s.coreOut k)) ∧
  (∀ (s : State) (n : Nat), s.running = true → n < 4 → s.coreOut n = false → s.secondStage n = true → ∃ t, exec (.watchdogExpiry n) s = .next t ∧ s.ResetFrom t 2 ∧
    t.boot.wdtCore = BitVec.ofNat 2 n ∧ t.boot.skip = some (s.fwCore n).slot.toNat) ∧
  (∀ (s : State) (n : Nat), s.running = true → n < s.fw.cores.length → s.coreOut n = true → s.fw.activate = none → ∃ t, exec (.fwCoreRestart n) s = .next t ∧
    t.coreOut n = false ∧ (t.fwCore n).slot = (s.fwCore n).slot ∧ t.pf.fwEv.isSet 0 = true ∧ t.boot = s.boot ∧ t.nv = s.nv) ∧
  (∀ (s : State) (a : Activate) (c : Cmd), s.fw.activate = some a → a.todo = [] → s.running = true → s.cmds.find a.fid = some c → ∃ t, exec .fwActivateConfirm s = .next t ∧
    t.fw.activate = none ∧ t.cmds.find a.fid = none ∧ t.fw.cores = s.fw.cores ∧ t.boot = s.boot) ∧
  (∀ (s : State) (k : Nat) (p : CfgPending), s.cfgm.pending.find? (fun q => q.subsys == k) = some p → s.running = true → s.coreOut 0 = false → s.quiescent k = true → ∃ t,
    exec (.cfgRecordApply k) s = .next t ∧ t.params = s.params.apply p.entries ∧ t.nv = s.nv ∧ t.boot = s.boot ∧ t.cfgm.digest = s.cfgm.digest) ∧
  (∀ (s : State) (i : LogItem) (rest : List LogItem), s.fw.logQ = i :: rest → s.running = true → s.coreOut 3 = false → ∃ t, exec .logEntryDelivery s = .next t ∧
    t.fw = { s.fw with logQ := rest } ∧ t.out = (s.deliverLog i).out ∧ t.funcs = s.funcs ∧ t.ctxs = s.ctxs) ∧
  (∀ (s : State) (c : Nat) (r : CairnRec), (s.lc c).cairn.head? = some r → s.running = true → s.coreOut 3 = false → c < 8 → c < s.lcores.length → ∃ t,
    exec (.cairnRecordDelivery c) s = .next t ∧ (t.lc c).cairn = (s.lc c).cairn.tail ∧ (t.lc c).seqr = (s.lc c).seqr ∧ t.steps = s.steps ∧ t.pcores = s.pcores)

/-- GOVERNOR_TICK: the governor lowers VCORE by 10 mV, or paces, when power or temperature is above its limit, and undoes an action when both are at or below 95 % of it; POWER_SURGE_SAMPLE: a surge
drops VCORE to at most 0.65 V at once. THROTTLE_UPDATE: PWR_THROTTLE follows at most every 10 ms. STEP_TIME_MEASURE and REGULATOR_TELEMETRY: the replica lines and telemetry are
shown as they measure.
The limiter shown is the model's reading (notes/assumptions/41.md). -/
def Obligations.GovernorRows : Prop :=
  (∀ (s : State) (w : Nat) (tj : Int), s.governs = true → s.capMw < w → vcoreLow < s.power.vcore.toNat → ∃ t, exec (.governorTick w tj) s = .next t ∧
    t.power.vcore = BitVec.ofNat 8 (max vcoreLow (s.power.vcore.toNat - 2)) ∧ t.power.pacing = s.power.pacing ∧ t.power.limiter = 1 ∧ t.pf.pwrEv.isSet 0 = true ∧
      t.boot = s.boot ∧ t.pcores = s.pcores ∧ t.dram = s.dram) ∧
  (∀ (s : State) (w : Nat) (tj : Int), s.governs = true → s.capMw < w → s.power.vcore.toNat ≤ vcoreLow → ∃ t, exec (.governorTick w tj) s = .next t ∧
    t.power.vcore = s.power.vcore ∧ t.power.pacing = s.power.pacing + 1) ∧
  (∀ (s : State) (w : Nat) (tj : Int), s.governs = true → w ≤ s.capMw → tj ≤ (s.param 0x0702 0 : Nat) → ¬(w * 100 ≤ s.capMw * 95 ∧ tj * 100 ≤ (s.param 0x0702 0 : Nat) * 95) → ∃ t,
    exec (.governorTick w tj) s = .next t ∧ t.power.vcore = s.power.vcore ∧ t.power.pacing = s.power.pacing ∧ t.power.limiter = s.power.limiter ∧ t.out = s.out) ∧
  (∀ (s : State) (w : Nat) (tj : Int), s.governs = true → w * 100 ≤ s.capMw * 95 → tj * 100 ≤ (s.param 0x0702 0 : Nat) * 95 → 0 ≤ tj → s.power.pacing ≠ 0 → ∃ t,
    exec (.governorTick w tj) s = .next t ∧ t.power.pacing = s.power.pacing - 1 ∧ t.power.vcore = s.power.vcore) ∧
  (∀ (s : State) (w : Nat), s.governs = true → s.capMw * 5 < w * 4 → ∃ t, exec (.powerSurgeSample w) s = .next t ∧
    t.power.vcore.toNat = min s.power.vcore.toNat vcoreLow ∧ t.power.limiter = 1 ∧ t.pf.pwrEv.isSet 0 = true) ∧
  (∀ s : State, s.governs = true → s.power.throttleAt.all (fun t => decide (t + 10000 ≤ s.boot.timer)) = true → exec .throttleUpdate s = .next { s with
    power := { s.power with throttle := s.power.level, throttleAt := some s.boot.timer } }) ∧
  (∀ (s : State) (k : Nat), s.governs = true → s.power.throttleAt = some k → s.boot.timer < k + 10000 → exec .throttleUpdate s = .next s) ∧
  (∀ (s : State) (ts : List (BitVec 16)), s.governs = true → ts.length = 12 → ∃ t, exec (.stepTimeMeasure ts) s = .next t ∧ t.power.replicas = ts ∧
    (∀ x ∈ ts, x.toNat ≤ t.power.stepPs.toNat) ∧ t.power.vcore = s.power.vcore) ∧
  (∀ (s : State) (ma : Nat), s.governs = true → exec (.regulatorTelemetry ma) s = .next { s with power := { s.power with current := ma } })

/-- DROOP_HOLD, DROOP_RELEASE and DROOP_TIMEOUT: a droop holds its region once and counts, its release ends the hold and one that lasts faults every running step in class
CORE. DRAM_THERMAL_DERATE, DRAM_THERMAL_RESTORE, FLASH_THERMAL_PAUSE and FLASH_THERMAL_RESUME: the other dies' limits derate the DRAM or pause the flash's programs and let them go
on again.
The derated point and the temperatures shown are the model's reading (notes/assumptions/41.md, 42.md). -/
def Obligations.DroopAndThermalRows : Prop :=
  (∀ (s : State) (r : Nat), s.governs = true → r < 12 → r ∉ s.power.holds → ∃ t, exec (.droopHold r) s = .next t ∧ t.power.holds = r :: s.power.holds ∧
    t.power.droopCnt = satUp s.power.droopCnt ∧ t.pf.pwrEv.isSet 2 = true ∧ t.steps = s.steps ∧ t.pcores = s.pcores) ∧
  (∀ (s : State) (r : Nat), ∃ t, exec (.droopRelease r) s = .next t ∧ r ∉ t.power.holds ∧ (∀ k, k ≠ r → (k ∈ t.power.holds ↔ k ∈ s.power.holds)) ∧ t.steps = s.steps ∧
    t.power.droopCnt = s.power.droopCnt) ∧
  (∀ (s : State) (r : Nat), s.governs = true → r ∈ s.power.holds → s.steps.list = [] → ∃ t, exec (.droopTimeout r) s = .next t ∧
    t.power.vcore.toNat = min s.vcoreMax (s.power.vcore.toNat + 4) % 256 ∧ t.steps = s.steps ∧ t.power.holds = s.power.holds) ∧
  (∀ (s : State) (r n : Nat) (x : StepRec), s.governs = true → r ∈ s.power.holds → s.step? n = some x → x.stage = .running →
    exec (.droopTimeout r) s = .next { s.coreDone s.droopFaults with power := s.droopFaults.power } ∧ ∃ y, s.droopFaults.step? n = some y ∧ y.stage = .faulting ∧
      y.fault = some (x.fault.getD (stepFault 5 stCoreFail))) ∧
  (∀ (s : State) (c : Int), s.governs = true → 95 < c → ∃ t, exec (.dramThermalDerate c) s = .next t ∧ t.power.derated = some (s.power.derated.getD s.wantedPoint) ∧
    t.power.dramMax = BitVec.ofInt 8 c ∧ t.pf.pwrEv.isSet 1 = true ∧ t.dram.data = s.dram.data) ∧
  (∀ (s : State) (c : Int), s.governs = true → c < 90 → ∃ t, exec (.dramThermalRestore c) s = .next t ∧ t.power.derated = none ∧ t.power.dramMax = BitVec.ofInt 8 c ∧
    t.dram.data = s.dram.data) ∧
  (∀ (s : State) (c : Int), s.governs = true → 90 < c → ∃ t, exec (.flashThermalPause c) s = .next t ∧ t.flash = { s.flash with paused := true } ∧ t.flash.pulses = false ∧
    t.power.flashMax = BitVec.ofInt 8 c ∧ t.pf.pwrEv.isSet 1 = true) ∧
  (∀ (s : State) (c : Int), s.governs = true → c < 85 → ∃ t, exec (.flashThermalResume c) s = .next t ∧ t.flash.paused = false ∧ t.flash.cells = s.flash.cells ∧
    t.power.flashMax = BitVec.ofInt 8 c)

/-- CORE_GATE and CORE_GATE_DONE: an idle core is gated and counts when gating ends. CORE_UNGATE and CORE_UNGATE_DONE: one that something needs is ungated, or its enable is
queued behind a gating under way, and its rows in no resident region are scrubbed when it is on again. -/
def Obligations.CoreGating : Prop :=
  (∀ (s : State) (p : Nat), s.running = true → s.coreOut 1 = false → p < 8 → (s.pcr p).dom = 0 → (s.pcr p).testing = false → s.coreUsed p = false → s.sparing.busy = none →
    (s.pcr p).lastUse + s.param 0x0704 0 ≤ s.boot.timer → exec (.coreGate p) s = .next { s with pcores := s.pcores.modify p (fun y => { y with dom := 1 }) }) ∧
  (∀ s : State, s.running = true → s.coreOut 1 = false → (s.pcr 8).dom = 0 → (s.pcr 8).testing = false → s.carried 8 = none → s.sparing.busy = none → s.sparing.wanted = none →
    exec (.coreGate 8) s = .next { s with pcores := s.pcores.modify 8 (fun y => { y with dom := 1 }) }) ∧
  (∀ (s : State) (p : Nat), s.running = true → (s.pcr p).dom = 1 → exec (.coreGateDone p) s = .next { s with pcores := s.pcores.modify p (fun y =>
    { y with dom := if y.pendEn then 3 else 2, pendEn := false, gateCnt := satUp y.gateCnt }) }) ∧
  (∀ (s : State) (p : Nat), s.running = true → s.coreOut 1 = false → s.coreNeeded p = true → (s.pcr p).dom = 2 →
    exec (.coreUngate p) s = .next { s with pcores := s.pcores.modify p (fun y => { y with dom := 3 }) }) ∧
  (∀ (s : State) (p : Nat), s.running = true → s.coreOut 1 = false → s.coreNeeded p = true → (s.pcr p).dom = 1 → (s.pcr p).pendEn = false → ∃ t,
    exec (.coreUngate p) s = .next t ∧ t.pcores = s.pcores.modify p (fun y => { y with pendEn := true }) ∧ t.pf.pwrEv.isSet 4 = true) ∧
  (∀ (s : State) (p : Nat), s.running = true → p < s.pcores.length → (s.pcr p).dom = 3 → ∃ t, exec (.coreUngateDone p) s = .next t ∧ (t.pcr p).dom = 0 ∧
    (∀ r < scratchRows, Ranges.has (s.residentRows p) r = false → (t.pcr p).row r = 0) ∧ (∀ q, q ≠ p → t.pcr q = s.pcr q) ∧ t.steps = s.steps)

/- Number formats. -/

/-- INT32, INT16, INT8 and INT4 elements are two's complement and UINT8 is unsigned, each with its range; an integer of the range has a pattern that
reads back as it, and a pattern converts to itself and raises no flag. -/
def Obligations.IntegerElements : Prop :=
  (∀ b : Nat, decodeInt 0x8 b = (BitVec.ofNat 32 b).toInt ∧ decodeInt 0x9 b = (BitVec.ofNat 16 b).toInt ∧ decodeInt 0xA b = (BitVec.ofNat 8 b).toInt ∧
    decodeInt 0xC b = (BitVec.ofNat 4 b).toInt ∧ decodeInt 0xB b = ((BitVec.ofNat 8 b).toNat : Int)) ∧
  (intRange 0x8 = (-(2 ^ 31), 2 ^ 31 - 1) ∧ intRange 0x9 = (-32768, 32767) ∧ intRange 0xA = (-128, 127) ∧ intRange 0xC = (-8, 7) ∧ intRange 0xB = (0, 255)) ∧
  (∀ fmt ∈ [0x8, 0x9, 0xA, 0xB, 0xC], ∀ v : Int, (intRange fmt).1 ≤ v → v ≤ (intRange fmt).2 →
    encodeInt fmt v < 2 ^ fmtWidth fmt ∧ decodeInt fmt (encodeInt fmt v) = v) ∧
  (∀ fmt ∈ [0x8, 0x9, 0xA, 0xB, 0xC], ∀ (sat : Bool) (b : Nat), b < 2 ^ fmtWidth fmt →
    (intRange fmt).1 ≤ decodeInt fmt b ∧ decodeInt fmt b ≤ (intRange fmt).2 ∧ convert fmt sat (decodeElem fmt b) = (b, 0#8))

/-- A block-scaled element has its own value times 2^(X − 127), with q × 2⁻⁶ for INT8 and q × 2⁻² for INT4, and no such factor without a scale. Scale j
covers elements 32j to 32j + 31 of a row of A, and of a column of B in the panel order, and where a scale reads 0xFF every one of them reads as NaN and SCALE_NAN and NAN_SEEN are set. -/
def Obligations.ScaledElements : Prop :=
  (∀ (fmt bits x : Nat) (n : Bool) (m : Nat) (e : Int), x < 255 → fmt ≠ 0xA → fmt ≠ 0xC → decodeElem fmt bits = .fin n m e →
    scaledElem fmt (some x) bits = (.fin n m (e + x - 127), 0#8)) ∧
  (∀ bits x : Nat, x < 255 →
    scaledElem 0xA (some x) bits = (.fin (decide (decodeInt 0xA bits < 0)) (decodeInt 0xA bits).natAbs ((x : Int) - 133), 0#8) ∧
    scaledElem 0xC (some x) bits = (.fin (decide (decodeInt 0xC bits < 0)) (decodeInt 0xC bits).natAbs ((x : Int) - 129), 0#8)) ∧
  (∀ fmt ∈ [0xA, 0xC], ∀ bits : Nat, scaledElem fmt none bits = (FVal.ofInt (decodeInt fmt bits), 0#8)) ∧
  (∀ fmt bits x : Nat, x % 256 = 255 → scaledElem fmt (some x) bits = (.nan, Flags.scaleNan ||| Flags.nanSeen)) ∧
  (∀ (d : Desc) (x : MatDims) (rd : RowRead) (m j i : Nat), d.fld 5 1 0 = 1 → i < 32 →
    streamByte rd ((d.region 24).first + m * cdiv (cdiv x.k 32) 512) j = 255 → matA d x rd m (32 * j + i) = (.nan, Flags.scaleNan ||| Flags.nanSeen)) ∧
  (∀ (d : Desc) (x : MatDims) (rd : RowRead) (n k : Nat), d.fld 5 3 2 = 1 →
    streamByte rd ((d.region 28).first + (n / 64 * x.groups + k / x.g) * tileS x.af x.bf) (n % 64 * (x.g / 32) + k % x.g / 32) = 255 →
    matB d x rd n k = (.nan, Flags.scaleNan ||| Flags.nanSeen)) ∧
  (∀ fmt bits x : Nat, x % 256 = 255 → widen fmt (some x) bits = (.nan, Flags.scaleNan ||| Flags.nanSeen))

/-- A product of zeros carries the exclusive-or of the signs, and a product or sum that rounds to zero keeps the sign of its exact value. A sum is −0 when
every addend is −0 and at no other time. The maximum of +0 and −0 is +0 and the minimum −0, a NaN operand gives NaN, and else the greater or the smaller
operand is the result. -/
def Obligations.ZerosAndExtremes : Prop :=
  (∀ (n k : Bool) (m p : Nat) (e g : Int), m = 0 ∨ p = 0 → ∃ q, (FVal.fin n m e).mul (.fin k p g) = .fin (n != k) 0 q) ∧
  (∀ (fmt : Nat) (l : FLayout) (n : Bool) (m : Nat) (e : Int), rneAt m e (lastPlace l m e) = 0 → roundFloat fmt l n m e = (signBit l n, 0#8)) ∧
  (∀ vs : List FVal, (∃ q, exactSum vs = .fin true 0 q) ↔ vs ≠ [] ∧ ∀ v ∈ vs, ∃ q, v = .fin true 0 q) ∧
  (∀ (e g : Int), FVal.max (.fin false 0 e) (.fin true 0 g) = .fin false 0 e ∧ FVal.max (.fin true 0 g) (.fin false 0 e) = .fin false 0 e ∧
    FVal.min (.fin false 0 e) (.fin true 0 g) = .fin true 0 g ∧ FVal.min (.fin true 0 g) (.fin false 0 e) = .fin true 0 g) ∧
  (∀ v : FVal, FVal.max .nan v = .nan ∧ FVal.max v .nan = .nan ∧ FVal.min .nan v = .nan ∧ FVal.min v .nan = .nan) ∧
  (∀ sat : Bool, convert 0x0 sat .nan = (0x7FC00000, Flags.nanSeen)) ∧
  (∀ a b : FVal, FVal.lt a b = true → FVal.max a b = b ∧ FVal.max b a = b ∧ FVal.min a b = a ∧ FVal.min b a = a)

/-- Every finite element of a floating-point format, subnormals and signed zeros among them, converts to its own pattern and raises no flag; an infinity
of a format that has one converts to its own pattern with INF_SEEN. The rounding takes the nearest multiple of the last place, and the even one of two. -/
def Obligations.ElementsConvertToThemselves : Prop :=
  (∀ fmt < 8, ∀ (sat : Bool) (b : Nat), b < 2 ^ fmtWidth fmt →
    (∀ n m e, decodeElem fmt b = .fin n m e → convert fmt sat (decodeElem fmt b) = (b, 0#8)) ∧
    (∀ n, decodeElem fmt b = .inf n → convert fmt sat (decodeElem fmt b) = (b, Flags.infSeen))) ∧
  (∀ (m k : Nat) (e : Int), let t := rneAt m e (e + k)
    2 * m ≤ 2 * t * 2 ^ k + 2 ^ k ∧ 2 * t * 2 ^ k ≤ 2 * m + 2 ^ k ∧
      ((2 * m = 2 * t * 2 ^ k + 2 ^ k ∨ 2 * t * 2 ^ k = 2 * m + 2 ^ k) → t % 2 = 0))
end

