-- ==== Sys2Proof/Laws/Lists.lean ====
section
/-!
SUPPORT. Laws/Lists.lean: what reading an association list gives after an entry is set, changed or taken away.
-/
namespace Sys2Proof.AList

variable {α : Type}

@[simp] theorem get?_nil (x : Nat) : get? ([] : AList α) x = none := rfl

@[simp] theorem get?_set_self (l : AList α) (x : Nat) (v : α) : (l.set x v).get? x = some v := by
  induction l with
  | nil => simp [set, get?]
  | cons p t ih =>
    obtain ⟨k, w⟩ := p
    rcases Nat.lt_trichotomy x k with h | h | h
    · simp [set, get?, h]
    · simp [set, get?, h]
    · simp [set, get?, ih, Nat.not_lt.mpr (Nat.le_of_lt h), Nat.ne_of_lt h, (Nat.ne_of_lt h).symm]

theorem get?_set_ne (l : AList α) {x y : Nat} (v : α) (h : y ≠ x) : (l.set x v).get? y = l.get? y := by
  have hx : ¬ x = y := fun e => h e.symm
  induction l with
  | nil => simp [set, get?, hx]
  | cons p t ih =>
    obtain ⟨k, w⟩ := p
    rcases Nat.lt_trichotomy x k with hl | hl | hl
    · simp [set, get?, hl, hx]
    · simp [set, get?, ← hl, hx]
    · simp [set, get?, ih, Nat.not_lt.mpr (Nat.le_of_lt hl), (Nat.ne_of_lt hl).symm]

@[simp] theorem getD_set_self (l : AList α) (x : Nat) (v d : α) : (l.set x v).getD x d = v := by simp [getD]

theorem getD_set_ne (l : AList α) {x y : Nat} (v d : α) (h : y ≠ x) : (l.set x v).getD y d = l.getD y d := by simp [getD, get?_set_ne l v h]

theorem get?_upd (l : AList α) (x y : Nat) (f : α → α) : (l.upd x f).get? y = if y = x then (l.get? x).map f else l.get? y := by
  induction l with
  | nil => simp [upd, get?]
  | cons p t ih =>
    obtain ⟨k, w⟩ := p
    by_cases hk : k = x
    · subst hk
      by_cases hy : k = y
      · simp [upd, get?, hy]
      · have hy' : ¬ y = k := fun e => hy e.symm
        simp [upd, get?, hy, hy']
    · by_cases hy : k = y
      · subst hy
        simp [upd, get?, hk]
      · simp [upd, get?, hk, hy, ih]

@[simp] theorem get?_upd_self (l : AList α) (x : Nat) (f : α → α) : (l.upd x f).get? x = (l.get? x).map f := by simp [get?_upd]

theorem get?_upd_ne (l : AList α) {x y : Nat} (f : α → α) (h : y ≠ x) : (l.upd x f).get? y = l.get? y := by simp [get?_upd, h]

@[simp] theorem get?_erase_self (l : AList α) (x : Nat) : (l.erase x).get? x = none := by
  induction l with
  | nil => simp [erase]
  | cons p t ih =>
    obtain ⟨k, w⟩ := p
    by_cases hk : k = x
    · simpa [erase, get?, hk] using ih
    · simpa [erase, get?, hk] using ih

theorem get?_erase_ne (l : AList α) {x y : Nat} (h : y ≠ x) : (l.erase x).get? y = l.get? y := by
  induction l with
  | nil => simp [erase]
  | cons p t ih =>
    obtain ⟨k, w⟩ := p
    by_cases hk : k = x
    · have hx : ¬ x = y := fun e => h e.symm
      simpa [erase, get?, hk, hx] using ih
    · by_cases hy : k = y
      · simp [erase, get?, hy, h]
      · simpa [erase, get?, hk, hy] using ih

@[simp] theorem keys_upd (l : AList α) (x : Nat) (f : α → α) : (l.upd x f).keys = l.keys := by
  induction l with
  | nil => rfl
  | cons p t ih =>
    obtain ⟨k, w⟩ := p
    by_cases hk : k = x
    · simp [upd, keys, hk]
    · simp only [upd, if_neg hk, keys, List.map_cons] at ih ⊢
      rw [ih]

theorem map_upd {β : Type} (l : AList α) (x : Nat) (f : α → α) (g : Nat × α → β) (h : ∀ k v, g (k, f v) = g (k, v)) :
    (l.upd x f).map g = l.map g := by
  induction l with
  | nil => rfl
  | cons p t ih =>
    obtain ⟨k, w⟩ := p
    by_cases hk : k = x
    · simp [upd, hk, h]
    · simp [upd, hk, ih]

theorem get?_map {β : Type} (l : AList α) (g : α → β) (x : Nat) : get? (l.map (fun p => (p.1, g p.2))) x = (l.get? x).map g := by
  induction l with
  | nil => rfl
  | cons p t ih =>
    obtain ⟨k, w⟩ := p
    by_cases hk : k = x
    · simp [get?, hk]
    · simp [get?, hk, ih]

/-- An association list has a value at its keys and at no other number. -/
theorem get?_eq_none (l : AList α) (x : Nat) : l.get? x = none ↔ x ∉ l.keys := by
  induction l with
  | nil => simp [get?, keys]
  | cons p t ih =>
    obtain ⟨k, w⟩ := p
    by_cases hk : k = x
    · simp [get?, keys, hk]
    · simp only [get?, if_neg hk, keys, List.map_cons, List.mem_cons, not_or] at ih ⊢
      rw [ih]
      exact ⟨fun h => ⟨fun e => hk e.symm, h⟩, fun h => h.2⟩

end Sys2Proof.AList
end

