-- ==== Sys2Proof/Laws/State.lean ====
section
/-!
SUPPORT. Laws/State.lean: what each group of rows may change and what each update of one component changes, one lemma for each field, true by
unfolding.
-/
namespace Sys2Proof.Machine.State

/- cplOf -/
@[simp] theorem cplOf_pending (s r : State) : (s.cplOf r).pending = s.pending := rfl
@[simp] theorem cplOf_boot (s r : State) : (s.cplOf r).boot = s.boot := rfl
@[simp] theorem cplOf_nv (s r : State) : (s.cplOf r).nv = s.nv := rfl
@[simp] theorem cplOf_params (s r : State) : (s.cplOf r).params = s.params := rfl
@[simp] theorem cplOf_cfgm (s r : State) : (s.cplOf r).cfgm = s.cfgm := rfl
@[simp] theorem cplOf_fw (s r : State) : (s.cplOf r).fw = r.fw := rfl
@[simp] theorem cplOf_power (s r : State) : (s.cplOf r).power = s.power := rfl
@[simp] theorem cplOf_link (s r : State) : (s.cplOf r).link = s.link := rfl
@[simp] theorem cplOf_pf (s r : State) : (s.cplOf r).pf = s.pf := rfl
@[simp] theorem cplOf_sparing (s r : State) : (s.cplOf r).sparing = s.sparing := rfl
@[simp] theorem cplOf_funcs (s r : State) : (s.cplOf r).funcs = r.funcs := rfl
@[simp] theorem cplOf_queues (s r : State) : (s.cplOf r).queues = r.queues := rfl
@[simp] theorem cplOf_cmds (s r : State) : (s.cplOf r).cmds = r.cmds := rfl
@[simp] theorem cplOf_ctxs (s r : State) : (s.cplOf r).ctxs = r.ctxs := rfl
@[simp] theorem cplOf_strms (s r : State) : (s.cplOf r).strms = s.strms := rfl
@[simp] theorem cplOf_images (s r : State) : (s.cplOf r).images = s.images := rfl
@[simp] theorem cplOf_steps (s r : State) : (s.cplOf r).steps = r.steps := rfl
@[simp] theorem cplOf_lcores (s r : State) : (s.cplOf r).lcores = s.lcores := rfl
@[simp] theorem cplOf_pcores (s r : State) : (s.cplOf r).pcores = s.pcores := rfl
@[simp] theorem cplOf_rope (s r : State) : (s.cplOf r).rope = s.rope := rfl
@[simp] theorem cplOf_coll (s r : State) : (s.cplOf r).coll = s.coll := rfl
@[simp] theorem cplOf_tier (s r : State) : (s.cplOf r).tier = s.tier := rfl
@[simp] theorem cplOf_cmp (s r : State) : (s.cplOf r).cmp = s.cmp := rfl
@[simp] theorem cplOf_dram (s r : State) : (s.cplOf r).dram = s.dram := rfl
@[simp] theorem cplOf_flash (s r : State) : (s.cplOf r).flash = s.flash := rfl
@[simp] theorem cplOf_out (s r : State) : (s.cplOf r).out = r.out := rfl
@[simp] theorem cplOf_draws (s r : State) : (s.cplOf r).draws = s.draws := rfl

/- hostRow -/
@[simp] theorem hostRow_pending (s r : State) : (s.hostRow r).pending = s.pending := rfl
@[simp] theorem hostRow_boot (s r : State) : (s.hostRow r).boot = s.boot := rfl
@[simp] theorem hostRow_nv (s r : State) : (s.hostRow r).nv = s.nv := rfl
@[simp] theorem hostRow_params (s r : State) : (s.hostRow r).params = s.params := rfl
@[simp] theorem hostRow_cfgm (s r : State) : (s.hostRow r).cfgm = s.cfgm := rfl
@[simp] theorem hostRow_fw (s r : State) : (s.hostRow r).fw = s.fw := rfl
@[simp] theorem hostRow_power (s r : State) : (s.hostRow r).power = s.power := rfl
@[simp] theorem hostRow_link (s r : State) : (s.hostRow r).link = s.link := rfl
@[simp] theorem hostRow_pf (s r : State) : (s.hostRow r).pf = r.pf := rfl
@[simp] theorem hostRow_sparing (s r : State) : (s.hostRow r).sparing = s.sparing := rfl
@[simp] theorem hostRow_funcs (s r : State) : (s.hostRow r).funcs = r.funcs := rfl
@[simp] theorem hostRow_queues (s r : State) : (s.hostRow r).queues = r.queues := rfl
@[simp] theorem hostRow_cmds (s r : State) : (s.hostRow r).cmds = s.cmds := rfl
@[simp] theorem hostRow_ctxs (s r : State) : (s.hostRow r).ctxs = s.ctxs := rfl
@[simp] theorem hostRow_strms (s r : State) : (s.hostRow r).strms = s.strms := rfl
@[simp] theorem hostRow_images (s r : State) : (s.hostRow r).images = s.images := rfl
@[simp] theorem hostRow_steps (s r : State) : (s.hostRow r).steps = s.steps := rfl
@[simp] theorem hostRow_lcores (s r : State) : (s.hostRow r).lcores = s.lcores := rfl
@[simp] theorem hostRow_pcores (s r : State) : (s.hostRow r).pcores = s.pcores := rfl
@[simp] theorem hostRow_rope (s r : State) : (s.hostRow r).rope = s.rope := rfl
@[simp] theorem hostRow_coll (s r : State) : (s.hostRow r).coll = s.coll := rfl
@[simp] theorem hostRow_tier (s r : State) : (s.hostRow r).tier = s.tier := rfl
@[simp] theorem hostRow_cmp (s r : State) : (s.hostRow r).cmp = s.cmp := rfl
@[simp] theorem hostRow_dram (s r : State) : (s.hostRow r).dram = s.dram := rfl
@[simp] theorem hostRow_flash (s r : State) : (s.hostRow r).flash = s.flash := rfl
@[simp] theorem hostRow_out (s r : State) : (s.hostRow r).out = r.out := rfl
@[simp] theorem hostRow_draws (s r : State) : (s.hostRow r).draws = s.draws := rfl

/- coreRow -/
@[simp] theorem coreRow_pending (s r : State) : (s.coreRow r).pending = s.pending := rfl
@[simp] theorem coreRow_boot (s r : State) : (s.coreRow r).boot = s.boot := rfl
@[simp] theorem coreRow_nv (s r : State) : (s.coreRow r).nv = s.nv.coresOf r.nv := rfl
@[simp] theorem coreRow_params (s r : State) : (s.coreRow r).params = s.params := rfl
@[simp] theorem coreRow_cfgm (s r : State) : (s.coreRow r).cfgm = s.cfgm := rfl
@[simp] theorem coreRow_fw (s r : State) : (s.coreRow r).fw = r.fw := rfl
@[simp] theorem coreRow_power (s r : State) : (s.coreRow r).power = s.power := rfl
@[simp] theorem coreRow_link (s r : State) : (s.coreRow r).link = r.link := rfl
@[simp] theorem coreRow_pf (s r : State) : (s.coreRow r).pf = r.pf := rfl
@[simp] theorem coreRow_sparing (s r : State) : (s.coreRow r).sparing = r.sparing := rfl
@[simp] theorem coreRow_funcs (s r : State) : (s.coreRow r).funcs = r.funcs := rfl
@[simp] theorem coreRow_queues (s r : State) : (s.coreRow r).queues = r.queues := rfl
@[simp] theorem coreRow_cmds (s r : State) : (s.coreRow r).cmds = r.cmds := rfl
@[simp] theorem coreRow_ctxs (s r : State) : (s.coreRow r).ctxs = r.ctxs := rfl
@[simp] theorem coreRow_strms (s r : State) : (s.coreRow r).strms = s.strms := rfl
@[simp] theorem coreRow_images (s r : State) : (s.coreRow r).images = s.images := rfl
@[simp] theorem coreRow_steps (s r : State) : (s.coreRow r).steps = r.steps := rfl
@[simp] theorem coreRow_lcores (s r : State) : (s.coreRow r).lcores = r.lcores := rfl
@[simp] theorem coreRow_pcores (s r : State) : (s.coreRow r).pcores = r.pcores := rfl
@[simp] theorem coreRow_rope (s r : State) : (s.coreRow r).rope = r.rope := rfl
@[simp] theorem coreRow_coll (s r : State) : (s.coreRow r).coll = r.coll := rfl
@[simp] theorem coreRow_tier (s r : State) : (s.coreRow r).tier = r.tier := rfl
@[simp] theorem coreRow_cmp (s r : State) : (s.coreRow r).cmp = r.cmp := rfl
@[simp] theorem coreRow_dram (s r : State) : (s.coreRow r).dram = r.dram := rfl
@[simp] theorem coreRow_flash (s r : State) : (s.coreRow r).flash = r.flash := rfl
@[simp] theorem coreRow_out (s r : State) : (s.coreRow r).out = r.out := rfl
@[simp] theorem coreRow_draws (s r : State) : (s.coreRow r).draws = s.draws := rfl

/- accessRow -/
@[simp] theorem accessRow_pending (s r : State) : (s.accessRow r).pending = s.pending := rfl
@[simp] theorem accessRow_boot (s r : State) : (s.accessRow r).boot = s.boot := rfl
@[simp] theorem accessRow_nv (s r : State) : (s.accessRow r).nv = s.nv := rfl
@[simp] theorem accessRow_params (s r : State) : (s.accessRow r).params = s.params := rfl
@[simp] theorem accessRow_cfgm (s r : State) : (s.accessRow r).cfgm = s.cfgm := rfl
@[simp] theorem accessRow_fw (s r : State) : (s.accessRow r).fw = s.fw := rfl
@[simp] theorem accessRow_power (s r : State) : (s.accessRow r).power = s.power := rfl
@[simp] theorem accessRow_link (s r : State) : (s.accessRow r).link = s.link := rfl
@[simp] theorem accessRow_pf (s r : State) : (s.accessRow r).pf = s.pf := rfl
@[simp] theorem accessRow_sparing (s r : State) : (s.accessRow r).sparing = s.sparing := rfl
@[simp] theorem accessRow_funcs (s r : State) : (s.accessRow r).funcs = s.funcs := rfl
@[simp] theorem accessRow_queues (s r : State) : (s.accessRow r).queues = s.queues := rfl
@[simp] theorem accessRow_cmds (s r : State) : (s.accessRow r).cmds = s.cmds := rfl
@[simp] theorem accessRow_ctxs (s r : State) : (s.accessRow r).ctxs = s.ctxs := rfl
@[simp] theorem accessRow_strms (s r : State) : (s.accessRow r).strms = s.strms := rfl
@[simp] theorem accessRow_images (s r : State) : (s.accessRow r).images = s.images := rfl
@[simp] theorem accessRow_steps (s r : State) : (s.accessRow r).steps = s.steps := rfl
@[simp] theorem accessRow_lcores (s r : State) : (s.accessRow r).lcores = s.lcores := rfl
@[simp] theorem accessRow_pcores (s r : State) : (s.accessRow r).pcores = s.pcores := rfl
@[simp] theorem accessRow_rope (s r : State) : (s.accessRow r).rope = s.rope := rfl
@[simp] theorem accessRow_coll (s r : State) : (s.accessRow r).coll = s.coll := rfl
@[simp] theorem accessRow_tier (s r : State) : (s.accessRow r).tier = s.tier := rfl
@[simp] theorem accessRow_cmp (s r : State) : (s.accessRow r).cmp = s.cmp := rfl
@[simp] theorem accessRow_dram (s r : State) : (s.accessRow r).dram = r.dram := rfl
@[simp] theorem accessRow_flash (s r : State) : (s.accessRow r).flash = s.flash := rfl
@[simp] theorem accessRow_out (s r : State) : (s.accessRow r).out = s.out := rfl
@[simp] theorem accessRow_draws (s r : State) : (s.accessRow r).draws = r.draws := rfl

/- dramRow -/
@[simp] theorem dramRow_pending (s r : State) : (s.dramRow r).pending = s.pending := rfl
@[simp] theorem dramRow_boot (s r : State) : (s.dramRow r).boot = s.boot := rfl
@[simp] theorem dramRow_nv (s r : State) : (s.dramRow r).nv = s.nv.ranksOf r.nv := rfl
@[simp] theorem dramRow_params (s r : State) : (s.dramRow r).params = s.params := rfl
@[simp] theorem dramRow_cfgm (s r : State) : (s.dramRow r).cfgm = s.cfgm := rfl
@[simp] theorem dramRow_fw (s r : State) : (s.dramRow r).fw = r.fw := rfl
@[simp] theorem dramRow_power (s r : State) : (s.dramRow r).power = s.power := rfl
@[simp] theorem dramRow_link (s r : State) : (s.dramRow r).link = s.link := rfl
@[simp] theorem dramRow_pf (s r : State) : (s.dramRow r).pf = r.pf := rfl
@[simp] theorem dramRow_sparing (s r : State) : (s.dramRow r).sparing = s.sparing := rfl
@[simp] theorem dramRow_funcs (s r : State) : (s.dramRow r).funcs = r.funcs := rfl
@[simp] theorem dramRow_queues (s r : State) : (s.dramRow r).queues = s.queues := rfl
@[simp] theorem dramRow_cmds (s r : State) : (s.dramRow r).cmds = s.cmds := rfl
@[simp] theorem dramRow_ctxs (s r : State) : (s.dramRow r).ctxs = r.ctxs := rfl
@[simp] theorem dramRow_strms (s r : State) : (s.dramRow r).strms = s.strms := rfl
@[simp] theorem dramRow_images (s r : State) : (s.dramRow r).images = s.images := rfl
@[simp] theorem dramRow_steps (s r : State) : (s.dramRow r).steps = s.steps := rfl
@[simp] theorem dramRow_lcores (s r : State) : (s.dramRow r).lcores = s.lcores := rfl
@[simp] theorem dramRow_pcores (s r : State) : (s.dramRow r).pcores = s.pcores := rfl
@[simp] theorem dramRow_rope (s r : State) : (s.dramRow r).rope = s.rope := rfl
@[simp] theorem dramRow_coll (s r : State) : (s.dramRow r).coll = s.coll := rfl
@[simp] theorem dramRow_tier (s r : State) : (s.dramRow r).tier = r.tier := rfl
@[simp] theorem dramRow_cmp (s r : State) : (s.dramRow r).cmp = r.cmp := rfl
@[simp] theorem dramRow_dram (s r : State) : (s.dramRow r).dram = r.dram := rfl
@[simp] theorem dramRow_flash (s r : State) : (s.dramRow r).flash = s.flash := rfl
@[simp] theorem dramRow_out (s r : State) : (s.dramRow r).out = s.out := rfl
@[simp] theorem dramRow_draws (s r : State) : (s.dramRow r).draws = s.draws := rfl

/- flashRow -/
@[simp] theorem flashRow_pending (s r : State) : (s.flashRow r).pending = s.pending := rfl
@[simp] theorem flashRow_boot (s r : State) : (s.flashRow r).boot = s.boot := rfl
@[simp] theorem flashRow_nv (s r : State) : (s.flashRow r).nv = s.nv.modelsOf r.nv := rfl
@[simp] theorem flashRow_params (s r : State) : (s.flashRow r).params = s.params := rfl
@[simp] theorem flashRow_cfgm (s r : State) : (s.flashRow r).cfgm = s.cfgm := rfl
@[simp] theorem flashRow_fw (s r : State) : (s.flashRow r).fw = r.fw := rfl
@[simp] theorem flashRow_power (s r : State) : (s.flashRow r).power = s.power := rfl
@[simp] theorem flashRow_link (s r : State) : (s.flashRow r).link = s.link := rfl
@[simp] theorem flashRow_pf (s r : State) : (s.flashRow r).pf = r.pf := rfl
@[simp] theorem flashRow_sparing (s r : State) : (s.flashRow r).sparing = s.sparing := rfl
@[simp] theorem flashRow_funcs (s r : State) : (s.flashRow r).funcs = r.funcs := rfl
@[simp] theorem flashRow_queues (s r : State) : (s.flashRow r).queues = s.queues := rfl
@[simp] theorem flashRow_cmds (s r : State) : (s.flashRow r).cmds = s.cmds := rfl
@[simp] theorem flashRow_ctxs (s r : State) : (s.flashRow r).ctxs = r.ctxs := rfl
@[simp] theorem flashRow_strms (s r : State) : (s.flashRow r).strms = s.strms := rfl
@[simp] theorem flashRow_images (s r : State) : (s.flashRow r).images = s.images := rfl
@[simp] theorem flashRow_steps (s r : State) : (s.flashRow r).steps = s.steps := rfl
@[simp] theorem flashRow_lcores (s r : State) : (s.flashRow r).lcores = s.lcores := rfl
@[simp] theorem flashRow_pcores (s r : State) : (s.flashRow r).pcores = s.pcores := rfl
@[simp] theorem flashRow_rope (s r : State) : (s.flashRow r).rope = s.rope := rfl
@[simp] theorem flashRow_coll (s r : State) : (s.flashRow r).coll = s.coll := rfl
@[simp] theorem flashRow_tier (s r : State) : (s.flashRow r).tier = s.tier := rfl
@[simp] theorem flashRow_cmp (s r : State) : (s.flashRow r).cmp = s.cmp := rfl
@[simp] theorem flashRow_dram (s r : State) : (s.flashRow r).dram = s.dram := rfl
@[simp] theorem flashRow_flash (s r : State) : (s.flashRow r).flash = r.flash := rfl
@[simp] theorem flashRow_out (s r : State) : (s.flashRow r).out = s.out := rfl
@[simp] theorem flashRow_draws (s r : State) : (s.flashRow r).draws = s.draws := rfl

/- tierCmd -/
@[simp] theorem tierCmd_pending (s r : State) : (s.tierCmd r).pending = s.pending := rfl
@[simp] theorem tierCmd_boot (s r : State) : (s.tierCmd r).boot = s.boot := rfl
@[simp] theorem tierCmd_nv (s r : State) : (s.tierCmd r).nv = s.nv.modelsOf r.nv := rfl
@[simp] theorem tierCmd_params (s r : State) : (s.tierCmd r).params = s.params := rfl
@[simp] theorem tierCmd_cfgm (s r : State) : (s.tierCmd r).cfgm = s.cfgm := rfl
@[simp] theorem tierCmd_fw (s r : State) : (s.tierCmd r).fw = r.fw := rfl
@[simp] theorem tierCmd_power (s r : State) : (s.tierCmd r).power = s.power := rfl
@[simp] theorem tierCmd_link (s r : State) : (s.tierCmd r).link = r.link := rfl
@[simp] theorem tierCmd_pf (s r : State) : (s.tierCmd r).pf = r.pf := rfl
@[simp] theorem tierCmd_sparing (s r : State) : (s.tierCmd r).sparing = s.sparing := rfl
@[simp] theorem tierCmd_funcs (s r : State) : (s.tierCmd r).funcs = r.funcs := rfl
@[simp] theorem tierCmd_queues (s r : State) : (s.tierCmd r).queues = r.queues := rfl
@[simp] theorem tierCmd_cmds (s r : State) : (s.tierCmd r).cmds = r.cmds := rfl
@[simp] theorem tierCmd_ctxs (s r : State) : (s.tierCmd r).ctxs = r.ctxs := rfl
@[simp] theorem tierCmd_strms (s r : State) : (s.tierCmd r).strms = s.strms := rfl
@[simp] theorem tierCmd_images (s r : State) : (s.tierCmd r).images = s.images := rfl
@[simp] theorem tierCmd_steps (s r : State) : (s.tierCmd r).steps = r.steps := rfl
@[simp] theorem tierCmd_lcores (s r : State) : (s.tierCmd r).lcores = s.lcores := rfl
@[simp] theorem tierCmd_pcores (s r : State) : (s.tierCmd r).pcores = s.pcores := rfl
@[simp] theorem tierCmd_rope (s r : State) : (s.tierCmd r).rope = s.rope := rfl
@[simp] theorem tierCmd_coll (s r : State) : (s.tierCmd r).coll = s.coll := rfl
@[simp] theorem tierCmd_tier (s r : State) : (s.tierCmd r).tier = r.tier := rfl
@[simp] theorem tierCmd_cmp (s r : State) : (s.tierCmd r).cmp = r.cmp := rfl
@[simp] theorem tierCmd_dram (s r : State) : (s.tierCmd r).dram = r.dram := rfl
@[simp] theorem tierCmd_flash (s r : State) : (s.tierCmd r).flash = r.flash := rfl
@[simp] theorem tierCmd_out (s r : State) : (s.tierCmd r).out = r.out := rfl
@[simp] theorem tierCmd_draws (s r : State) : (s.tierCmd r).draws = r.draws := rfl

/- streamCmd -/
@[simp] theorem streamCmd_pending (s r : State) : (s.streamCmd r).pending = s.pending := rfl
@[simp] theorem streamCmd_boot (s r : State) : (s.streamCmd r).boot = s.boot := rfl
@[simp] theorem streamCmd_nv (s r : State) : (s.streamCmd r).nv = s.nv.modelsOf r.nv := rfl
@[simp] theorem streamCmd_params (s r : State) : (s.streamCmd r).params = s.params := rfl
@[simp] theorem streamCmd_cfgm (s r : State) : (s.streamCmd r).cfgm = s.cfgm := rfl
@[simp] theorem streamCmd_fw (s r : State) : (s.streamCmd r).fw = r.fw := rfl
@[simp] theorem streamCmd_power (s r : State) : (s.streamCmd r).power = s.power := rfl
@[simp] theorem streamCmd_pf (s r : State) : (s.streamCmd r).pf = r.pf := rfl
@[simp] theorem streamCmd_sparing (s r : State) : (s.streamCmd r).sparing = s.sparing := rfl
@[simp] theorem streamCmd_funcs (s r : State) : (s.streamCmd r).funcs = r.funcs := rfl
@[simp] theorem streamCmd_queues (s r : State) : (s.streamCmd r).queues = r.queues := rfl
@[simp] theorem streamCmd_cmds (s r : State) : (s.streamCmd r).cmds = r.cmds := rfl
@[simp] theorem streamCmd_ctxs (s r : State) : (s.streamCmd r).ctxs = r.ctxs := rfl
@[simp] theorem streamCmd_strms (s r : State) : (s.streamCmd r).strms = r.strms := rfl
@[simp] theorem streamCmd_images (s r : State) : (s.streamCmd r).images = s.images := rfl
@[simp] theorem streamCmd_steps (s r : State) : (s.streamCmd r).steps = r.steps := rfl
@[simp] theorem streamCmd_lcores (s r : State) : (s.streamCmd r).lcores = s.lcores := rfl
@[simp] theorem streamCmd_pcores (s r : State) : (s.streamCmd r).pcores = s.pcores := rfl
@[simp] theorem streamCmd_rope (s r : State) : (s.streamCmd r).rope = s.rope := rfl
@[simp] theorem streamCmd_coll (s r : State) : (s.streamCmd r).coll = s.coll := rfl
@[simp] theorem streamCmd_tier (s r : State) : (s.streamCmd r).tier = r.tier := rfl
@[simp] theorem streamCmd_cmp (s r : State) : (s.streamCmd r).cmp = r.cmp := rfl
@[simp] theorem streamCmd_dram (s r : State) : (s.streamCmd r).dram = r.dram := rfl
@[simp] theorem streamCmd_flash (s r : State) : (s.streamCmd r).flash = s.flash := rfl
@[simp] theorem streamCmd_out (s r : State) : (s.streamCmd r).out = r.out := rfl
@[simp] theorem streamCmd_draws (s r : State) : (s.streamCmd r).draws = s.draws := rfl
@[simp] theorem streamCmd_link (s r : State) : (s.streamCmd r).link = r.link := rfl

/- ctxCmd -/
@[simp] theorem ctxCmd_pending (s r : State) : (s.ctxCmd r).pending = s.pending := rfl
@[simp] theorem ctxCmd_boot (s r : State) : (s.ctxCmd r).boot = s.boot := rfl
@[simp] theorem ctxCmd_nv (s r : State) : (s.ctxCmd r).nv = s.nv.modelsOf r.nv := rfl
@[simp] theorem ctxCmd_params (s r : State) : (s.ctxCmd r).params = s.params := rfl
@[simp] theorem ctxCmd_cfgm (s r : State) : (s.ctxCmd r).cfgm = s.cfgm := rfl
@[simp] theorem ctxCmd_fw (s r : State) : (s.ctxCmd r).fw = r.fw := rfl
@[simp] theorem ctxCmd_power (s r : State) : (s.ctxCmd r).power = s.power := rfl
@[simp] theorem ctxCmd_link (s r : State) : (s.ctxCmd r).link = r.link := rfl
@[simp] theorem ctxCmd_pf (s r : State) : (s.ctxCmd r).pf = s.pf := rfl
@[simp] theorem ctxCmd_sparing (s r : State) : (s.ctxCmd r).sparing = s.sparing := rfl
@[simp] theorem ctxCmd_funcs (s r : State) : (s.ctxCmd r).funcs = r.funcs := rfl
@[simp] theorem ctxCmd_queues (s r : State) : (s.ctxCmd r).queues = r.queues := rfl
@[simp] theorem ctxCmd_cmds (s r : State) : (s.ctxCmd r).cmds = r.cmds := rfl
@[simp] theorem ctxCmd_ctxs (s r : State) : (s.ctxCmd r).ctxs = r.ctxs := rfl
@[simp] theorem ctxCmd_strms (s r : State) : (s.ctxCmd r).strms = r.strms := rfl
@[simp] theorem ctxCmd_images (s r : State) : (s.ctxCmd r).images = r.images := rfl
@[simp] theorem ctxCmd_steps (s r : State) : (s.ctxCmd r).steps = r.steps := rfl
@[simp] theorem ctxCmd_lcores (s r : State) : (s.ctxCmd r).lcores = r.lcores := rfl
@[simp] theorem ctxCmd_pcores (s r : State) : (s.ctxCmd r).pcores = r.pcores := rfl
@[simp] theorem ctxCmd_rope (s r : State) : (s.ctxCmd r).rope = r.rope := rfl
@[simp] theorem ctxCmd_coll (s r : State) : (s.ctxCmd r).coll = r.coll := rfl
@[simp] theorem ctxCmd_tier (s r : State) : (s.ctxCmd r).tier = r.tier := rfl
@[simp] theorem ctxCmd_cmp (s r : State) : (s.ctxCmd r).cmp = r.cmp := rfl
@[simp] theorem ctxCmd_flash (s r : State) : (s.ctxCmd r).flash = r.flash := rfl
@[simp] theorem ctxCmd_out (s r : State) : (s.ctxCmd r).out = r.out := rfl
@[simp] theorem ctxCmd_draws (s r : State) : (s.ctxCmd r).draws = r.draws := rfl
@[simp] theorem ctxCmd_dram (s r : State) : (s.ctxCmd r).dram = r.dram := rfl

/- schedCmd -/
@[simp] theorem schedCmd_pending (s r : State) : (s.schedCmd r).pending = s.pending := rfl
@[simp] theorem schedCmd_boot (s r : State) : (s.schedCmd r).boot = s.boot := rfl
@[simp] theorem schedCmd_nv (s r : State) : (s.schedCmd r).nv = s.nv := rfl
@[simp] theorem schedCmd_params (s r : State) : (s.schedCmd r).params = s.params := rfl
@[simp] theorem schedCmd_cfgm (s r : State) : (s.schedCmd r).cfgm = s.cfgm := rfl
@[simp] theorem schedCmd_fw (s r : State) : (s.schedCmd r).fw = r.fw := rfl
@[simp] theorem schedCmd_power (s r : State) : (s.schedCmd r).power = s.power := rfl
@[simp] theorem schedCmd_link (s r : State) : (s.schedCmd r).link = r.link := rfl
@[simp] theorem schedCmd_pf (s r : State) : (s.schedCmd r).pf = r.pf := rfl
@[simp] theorem schedCmd_sparing (s r : State) : (s.schedCmd r).sparing = s.sparing := rfl
@[simp] theorem schedCmd_funcs (s r : State) : (s.schedCmd r).funcs = r.funcs := rfl
@[simp] theorem schedCmd_queues (s r : State) : (s.schedCmd r).queues = r.queues := rfl
@[simp] theorem schedCmd_cmds (s r : State) : (s.schedCmd r).cmds = r.cmds := rfl
@[simp] theorem schedCmd_ctxs (s r : State) : (s.schedCmd r).ctxs = r.ctxs := rfl
@[simp] theorem schedCmd_strms (s r : State) : (s.schedCmd r).strms = s.strms := rfl
@[simp] theorem schedCmd_images (s r : State) : (s.schedCmd r).images = r.images := rfl
@[simp] theorem schedCmd_steps (s r : State) : (s.schedCmd r).steps = r.steps := rfl
@[simp] theorem schedCmd_lcores (s r : State) : (s.schedCmd r).lcores = s.lcores := rfl
@[simp] theorem schedCmd_pcores (s r : State) : (s.schedCmd r).pcores = r.pcores := rfl
@[simp] theorem schedCmd_rope (s r : State) : (s.schedCmd r).rope = s.rope := rfl
@[simp] theorem schedCmd_coll (s r : State) : (s.schedCmd r).coll = s.coll := rfl
@[simp] theorem schedCmd_tier (s r : State) : (s.schedCmd r).tier = r.tier := rfl
@[simp] theorem schedCmd_cmp (s r : State) : (s.schedCmd r).cmp = r.cmp := rfl
@[simp] theorem schedCmd_flash (s r : State) : (s.schedCmd r).flash = s.flash := rfl
@[simp] theorem schedCmd_out (s r : State) : (s.schedCmd r).out = r.out := rfl
@[simp] theorem schedCmd_draws (s r : State) : (s.schedCmd r).draws = s.draws := rfl
@[simp] theorem schedCmd_dram (s r : State) : (s.schedCmd r).dram = r.dram := rfl

/- secCmd -/
@[simp] theorem secCmd_pending (s r : State) : (s.secCmd r).pending = s.pending := rfl
@[simp] theorem secCmd_boot (s r : State) : (s.secCmd r).boot = s.boot := rfl
@[simp] theorem secCmd_nv (s r : State) : (s.secCmd r).nv = s.nv := rfl
@[simp] theorem secCmd_params (s r : State) : (s.secCmd r).params = s.params := rfl
@[simp] theorem secCmd_cfgm (s r : State) : (s.secCmd r).cfgm = s.cfgm := rfl
@[simp] theorem secCmd_fw (s r : State) : (s.secCmd r).fw = r.fw := rfl
@[simp] theorem secCmd_power (s r : State) : (s.secCmd r).power = s.power := rfl
@[simp] theorem secCmd_link (s r : State) : (s.secCmd r).link = r.link := rfl
@[simp] theorem secCmd_pf (s r : State) : (s.secCmd r).pf = r.pf := rfl
@[simp] theorem secCmd_sparing (s r : State) : (s.secCmd r).sparing = s.sparing := rfl
@[simp] theorem secCmd_funcs (s r : State) : (s.secCmd r).funcs = r.funcs := rfl
@[simp] theorem secCmd_queues (s r : State) : (s.secCmd r).queues = r.queues := rfl
@[simp] theorem secCmd_cmds (s r : State) : (s.secCmd r).cmds = r.cmds := rfl
@[simp] theorem secCmd_ctxs (s r : State) : (s.secCmd r).ctxs = r.ctxs := rfl
@[simp] theorem secCmd_strms (s r : State) : (s.secCmd r).strms = s.strms := rfl
@[simp] theorem secCmd_images (s r : State) : (s.secCmd r).images = s.images := rfl
@[simp] theorem secCmd_steps (s r : State) : (s.secCmd r).steps = r.steps := rfl
@[simp] theorem secCmd_lcores (s r : State) : (s.secCmd r).lcores = s.lcores := rfl
@[simp] theorem secCmd_pcores (s r : State) : (s.secCmd r).pcores = s.pcores := rfl
@[simp] theorem secCmd_rope (s r : State) : (s.secCmd r).rope = s.rope := rfl
@[simp] theorem secCmd_coll (s r : State) : (s.secCmd r).coll = s.coll := rfl
@[simp] theorem secCmd_tier (s r : State) : (s.secCmd r).tier = s.tier := rfl
@[simp] theorem secCmd_cmp (s r : State) : (s.secCmd r).cmp = s.cmp := rfl
@[simp] theorem secCmd_dram (s r : State) : (s.secCmd r).dram = s.dram := rfl
@[simp] theorem secCmd_flash (s r : State) : (s.secCmd r).flash = s.flash := rfl
@[simp] theorem secCmd_out (s r : State) : (s.secCmd r).out = r.out := rfl
@[simp] theorem secCmd_draws (s r : State) : (s.secCmd r).draws = r.draws := rfl

/- checkCmd -/
@[simp] theorem checkCmd_pending (s r : State) : (s.checkCmd r).pending = s.pending := rfl
@[simp] theorem checkCmd_boot (s r : State) : (s.checkCmd r).boot = s.boot := rfl
@[simp] theorem checkCmd_nv (s r : State) : (s.checkCmd r).nv = s.nv := rfl
@[simp] theorem checkCmd_params (s r : State) : (s.checkCmd r).params = s.params := rfl
@[simp] theorem checkCmd_cfgm (s r : State) : (s.checkCmd r).cfgm = s.cfgm := rfl
@[simp] theorem checkCmd_fw (s r : State) : (s.checkCmd r).fw = r.fw := rfl
@[simp] theorem checkCmd_power (s r : State) : (s.checkCmd r).power = s.power := rfl
@[simp] theorem checkCmd_link (s r : State) : (s.checkCmd r).link = s.link := rfl
@[simp] theorem checkCmd_pf (s r : State) : (s.checkCmd r).pf = s.pf := rfl
@[simp] theorem checkCmd_sparing (s r : State) : (s.checkCmd r).sparing = s.sparing := rfl
@[simp] theorem checkCmd_funcs (s r : State) : (s.checkCmd r).funcs = r.funcs := rfl
@[simp] theorem checkCmd_queues (s r : State) : (s.checkCmd r).queues = r.queues := rfl
@[simp] theorem checkCmd_cmds (s r : State) : (s.checkCmd r).cmds = r.cmds := rfl
@[simp] theorem checkCmd_ctxs (s r : State) : (s.checkCmd r).ctxs = r.ctxs := rfl
@[simp] theorem checkCmd_strms (s r : State) : (s.checkCmd r).strms = s.strms := rfl
@[simp] theorem checkCmd_images (s r : State) : (s.checkCmd r).images = s.images := rfl
@[simp] theorem checkCmd_steps (s r : State) : (s.checkCmd r).steps = r.steps := rfl
@[simp] theorem checkCmd_lcores (s r : State) : (s.checkCmd r).lcores = s.lcores := rfl
@[simp] theorem checkCmd_pcores (s r : State) : (s.checkCmd r).pcores = r.pcores := rfl
@[simp] theorem checkCmd_rope (s r : State) : (s.checkCmd r).rope = s.rope := rfl
@[simp] theorem checkCmd_coll (s r : State) : (s.checkCmd r).coll = s.coll := rfl
@[simp] theorem checkCmd_tier (s r : State) : (s.checkCmd r).tier = s.tier := rfl
@[simp] theorem checkCmd_cmp (s r : State) : (s.checkCmd r).cmp = s.cmp := rfl
@[simp] theorem checkCmd_dram (s r : State) : (s.checkCmd r).dram = s.dram := rfl
@[simp] theorem checkCmd_flash (s r : State) : (s.checkCmd r).flash = s.flash := rfl
@[simp] theorem checkCmd_out (s r : State) : (s.checkCmd r).out = r.out := rfl
@[simp] theorem checkCmd_draws (s r : State) : (s.checkCmd r).draws = s.draws := rfl

/- fwCmd -/
@[simp] theorem fwCmd_pending (s r : State) : (s.fwCmd r).pending = s.pending := rfl
@[simp] theorem fwCmd_boot (s r : State) : (s.fwCmd r).boot = s.boot := rfl
@[simp] theorem fwCmd_nv (s r : State) : (s.fwCmd r).nv = s.nv.slotsOf r.nv := rfl
@[simp] theorem fwCmd_params (s r : State) : (s.fwCmd r).params = s.params := rfl
@[simp] theorem fwCmd_cfgm (s r : State) : (s.fwCmd r).cfgm = s.cfgm := rfl
@[simp] theorem fwCmd_fw (s r : State) : (s.fwCmd r).fw = r.fw := rfl
@[simp] theorem fwCmd_power (s r : State) : (s.fwCmd r).power = s.power := rfl
@[simp] theorem fwCmd_link (s r : State) : (s.fwCmd r).link = r.link := rfl
@[simp] theorem fwCmd_pf (s r : State) : (s.fwCmd r).pf = r.pf := rfl
@[simp] theorem fwCmd_sparing (s r : State) : (s.fwCmd r).sparing = s.sparing := rfl
@[simp] theorem fwCmd_funcs (s r : State) : (s.fwCmd r).funcs = r.funcs := rfl
@[simp] theorem fwCmd_queues (s r : State) : (s.fwCmd r).queues = r.queues := rfl
@[simp] theorem fwCmd_cmds (s r : State) : (s.fwCmd r).cmds = r.cmds := rfl
@[simp] theorem fwCmd_ctxs (s r : State) : (s.fwCmd r).ctxs = r.ctxs := rfl
@[simp] theorem fwCmd_strms (s r : State) : (s.fwCmd r).strms = s.strms := rfl
@[simp] theorem fwCmd_images (s r : State) : (s.fwCmd r).images = s.images := rfl
@[simp] theorem fwCmd_steps (s r : State) : (s.fwCmd r).steps = r.steps := rfl
@[simp] theorem fwCmd_lcores (s r : State) : (s.fwCmd r).lcores = s.lcores := rfl
@[simp] theorem fwCmd_pcores (s r : State) : (s.fwCmd r).pcores = s.pcores := rfl
@[simp] theorem fwCmd_rope (s r : State) : (s.fwCmd r).rope = s.rope := rfl
@[simp] theorem fwCmd_coll (s r : State) : (s.fwCmd r).coll = s.coll := rfl
@[simp] theorem fwCmd_tier (s r : State) : (s.fwCmd r).tier = s.tier := rfl
@[simp] theorem fwCmd_cmp (s r : State) : (s.fwCmd r).cmp = s.cmp := rfl
@[simp] theorem fwCmd_dram (s r : State) : (s.fwCmd r).dram = s.dram := rfl
@[simp] theorem fwCmd_flash (s r : State) : (s.fwCmd r).flash = s.flash := rfl
@[simp] theorem fwCmd_out (s r : State) : (s.fwCmd r).out = r.out := rfl
@[simp] theorem fwCmd_draws (s r : State) : (s.fwCmd r).draws = s.draws := rfl

/- cfgCmd -/
@[simp] theorem cfgCmd_pending (s r : State) : (s.cfgCmd r).pending = s.pending := rfl
@[simp] theorem cfgCmd_boot (s r : State) : (s.cfgCmd r).boot = s.boot := rfl
@[simp] theorem cfgCmd_nv (s r : State) : (s.cfgCmd r).nv = s.nv := rfl
@[simp] theorem cfgCmd_params (s r : State) : (s.cfgCmd r).params = r.params := rfl
@[simp] theorem cfgCmd_cfgm (s r : State) : (s.cfgCmd r).cfgm = r.cfgm := rfl
@[simp] theorem cfgCmd_fw (s r : State) : (s.cfgCmd r).fw = r.fw := rfl
@[simp] theorem cfgCmd_power (s r : State) : (s.cfgCmd r).power = s.power := rfl
@[simp] theorem cfgCmd_link (s r : State) : (s.cfgCmd r).link = r.link := rfl
@[simp] theorem cfgCmd_pf (s r : State) : (s.cfgCmd r).pf = r.pf := rfl
@[simp] theorem cfgCmd_sparing (s r : State) : (s.cfgCmd r).sparing = s.sparing := rfl
@[simp] theorem cfgCmd_funcs (s r : State) : (s.cfgCmd r).funcs = r.funcs := rfl
@[simp] theorem cfgCmd_queues (s r : State) : (s.cfgCmd r).queues = r.queues := rfl
@[simp] theorem cfgCmd_cmds (s r : State) : (s.cfgCmd r).cmds = r.cmds := rfl
@[simp] theorem cfgCmd_ctxs (s r : State) : (s.cfgCmd r).ctxs = r.ctxs := rfl
@[simp] theorem cfgCmd_strms (s r : State) : (s.cfgCmd r).strms = s.strms := rfl
@[simp] theorem cfgCmd_images (s r : State) : (s.cfgCmd r).images = s.images := rfl
@[simp] theorem cfgCmd_steps (s r : State) : (s.cfgCmd r).steps = r.steps := rfl
@[simp] theorem cfgCmd_lcores (s r : State) : (s.cfgCmd r).lcores = s.lcores := rfl
@[simp] theorem cfgCmd_pcores (s r : State) : (s.cfgCmd r).pcores = s.pcores := rfl
@[simp] theorem cfgCmd_rope (s r : State) : (s.cfgCmd r).rope = s.rope := rfl
@[simp] theorem cfgCmd_coll (s r : State) : (s.cfgCmd r).coll = s.coll := rfl
@[simp] theorem cfgCmd_tier (s r : State) : (s.cfgCmd r).tier = s.tier := rfl
@[simp] theorem cfgCmd_cmp (s r : State) : (s.cfgCmd r).cmp = s.cmp := rfl
@[simp] theorem cfgCmd_dram (s r : State) : (s.cfgCmd r).dram = r.dram := rfl
@[simp] theorem cfgCmd_flash (s r : State) : (s.cfgCmd r).flash = s.flash := rfl
@[simp] theorem cfgCmd_out (s r : State) : (s.cfgCmd r).out = r.out := rfl
@[simp] theorem cfgCmd_draws (s r : State) : (s.cfgCmd r).draws = s.draws := rfl

/- svnCmd -/
@[simp] theorem svnCmd_pending (s r : State) : (s.svnCmd r).pending = s.pending := rfl
@[simp] theorem svnCmd_boot (s r : State) : (s.svnCmd r).boot = s.boot := rfl
@[simp] theorem svnCmd_nv (s r : State) : (s.svnCmd r).nv = s.nv.burnedOf r.nv := rfl
@[simp] theorem svnCmd_params (s r : State) : (s.svnCmd r).params = s.params := rfl
@[simp] theorem svnCmd_cfgm (s r : State) : (s.svnCmd r).cfgm = s.cfgm := rfl
@[simp] theorem svnCmd_fw (s r : State) : (s.svnCmd r).fw = r.fw := rfl
@[simp] theorem svnCmd_power (s r : State) : (s.svnCmd r).power = s.power := rfl
@[simp] theorem svnCmd_link (s r : State) : (s.svnCmd r).link = s.link := rfl
@[simp] theorem svnCmd_pf (s r : State) : (s.svnCmd r).pf = r.pf := rfl
@[simp] theorem svnCmd_sparing (s r : State) : (s.svnCmd r).sparing = s.sparing := rfl
@[simp] theorem svnCmd_funcs (s r : State) : (s.svnCmd r).funcs = r.funcs := rfl
@[simp] theorem svnCmd_queues (s r : State) : (s.svnCmd r).queues = r.queues := rfl
@[simp] theorem svnCmd_cmds (s r : State) : (s.svnCmd r).cmds = r.cmds := rfl
@[simp] theorem svnCmd_ctxs (s r : State) : (s.svnCmd r).ctxs = r.ctxs := rfl
@[simp] theorem svnCmd_strms (s r : State) : (s.svnCmd r).strms = s.strms := rfl
@[simp] theorem svnCmd_images (s r : State) : (s.svnCmd r).images = s.images := rfl
@[simp] theorem svnCmd_steps (s r : State) : (s.svnCmd r).steps = r.steps := rfl
@[simp] theorem svnCmd_lcores (s r : State) : (s.svnCmd r).lcores = s.lcores := rfl
@[simp] theorem svnCmd_pcores (s r : State) : (s.svnCmd r).pcores = s.pcores := rfl
@[simp] theorem svnCmd_rope (s r : State) : (s.svnCmd r).rope = s.rope := rfl
@[simp] theorem svnCmd_coll (s r : State) : (s.svnCmd r).coll = s.coll := rfl
@[simp] theorem svnCmd_tier (s r : State) : (s.svnCmd r).tier = s.tier := rfl
@[simp] theorem svnCmd_cmp (s r : State) : (s.svnCmd r).cmp = s.cmp := rfl
@[simp] theorem svnCmd_dram (s r : State) : (s.svnCmd r).dram = s.dram := rfl
@[simp] theorem svnCmd_flash (s r : State) : (s.svnCmd r).flash = s.flash := rfl
@[simp] theorem svnCmd_out (s r : State) : (s.svnCmd r).out = r.out := rfl
@[simp] theorem svnCmd_draws (s r : State) : (s.svnCmd r).draws = s.draws := rfl

/- fetchCmd -/
@[simp] theorem fetchCmd_pending (s r : State) : (s.fetchCmd r).pending = s.pending := rfl
@[simp] theorem fetchCmd_boot (s r : State) : (s.fetchCmd r).boot = s.boot := rfl
@[simp] theorem fetchCmd_nv (s r : State) : (s.fetchCmd r).nv = s.nv := rfl
@[simp] theorem fetchCmd_params (s r : State) : (s.fetchCmd r).params = s.params := rfl
@[simp] theorem fetchCmd_cfgm (s r : State) : (s.fetchCmd r).cfgm = s.cfgm := rfl
@[simp] theorem fetchCmd_fw (s r : State) : (s.fetchCmd r).fw = r.fw := rfl
@[simp] theorem fetchCmd_power (s r : State) : (s.fetchCmd r).power = s.power := rfl
@[simp] theorem fetchCmd_link (s r : State) : (s.fetchCmd r).link = r.link := rfl
@[simp] theorem fetchCmd_pf (s r : State) : (s.fetchCmd r).pf = r.pf := rfl
@[simp] theorem fetchCmd_sparing (s r : State) : (s.fetchCmd r).sparing = s.sparing := rfl
@[simp] theorem fetchCmd_funcs (s r : State) : (s.fetchCmd r).funcs = r.funcs := rfl
@[simp] theorem fetchCmd_queues (s r : State) : (s.fetchCmd r).queues = r.queues := rfl
@[simp] theorem fetchCmd_cmds (s r : State) : (s.fetchCmd r).cmds = r.cmds := rfl
@[simp] theorem fetchCmd_ctxs (s r : State) : (s.fetchCmd r).ctxs = r.ctxs := rfl
@[simp] theorem fetchCmd_strms (s r : State) : (s.fetchCmd r).strms = s.strms := rfl
@[simp] theorem fetchCmd_images (s r : State) : (s.fetchCmd r).images = s.images := rfl
@[simp] theorem fetchCmd_steps (s r : State) : (s.fetchCmd r).steps = r.steps := rfl
@[simp] theorem fetchCmd_lcores (s r : State) : (s.fetchCmd r).lcores = s.lcores := rfl
@[simp] theorem fetchCmd_pcores (s r : State) : (s.fetchCmd r).pcores = s.pcores := rfl
@[simp] theorem fetchCmd_rope (s r : State) : (s.fetchCmd r).rope = s.rope := rfl
@[simp] theorem fetchCmd_coll (s r : State) : (s.fetchCmd r).coll = s.coll := rfl
@[simp] theorem fetchCmd_tier (s r : State) : (s.fetchCmd r).tier = s.tier := rfl
@[simp] theorem fetchCmd_cmp (s r : State) : (s.fetchCmd r).cmp = s.cmp := rfl
@[simp] theorem fetchCmd_dram (s r : State) : (s.fetchCmd r).dram = s.dram := rfl
@[simp] theorem fetchCmd_flash (s r : State) : (s.fetchCmd r).flash = s.flash := rfl
@[simp] theorem fetchCmd_out (s r : State) : (s.fetchCmd r).out = r.out := rfl
@[simp] theorem fetchCmd_draws (s r : State) : (s.fetchCmd r).draws = s.draws := rfl

/- fwRow -/
@[simp] theorem fwRow_pending (s r : State) : (s.fwRow r).pending = s.pending := rfl
@[simp] theorem fwRow_boot (s r : State) : (s.fwRow r).boot = s.boot := rfl
@[simp] theorem fwRow_nv (s r : State) : (s.fwRow r).nv = s.nv := rfl
@[simp] theorem fwRow_params (s r : State) : (s.fwRow r).params = s.params := rfl
@[simp] theorem fwRow_cfgm (s r : State) : (s.fwRow r).cfgm = s.cfgm := rfl
@[simp] theorem fwRow_fw (s r : State) : (s.fwRow r).fw = r.fw := rfl
@[simp] theorem fwRow_power (s r : State) : (s.fwRow r).power = s.power := rfl
@[simp] theorem fwRow_link (s r : State) : (s.fwRow r).link = s.link := rfl
@[simp] theorem fwRow_pf (s r : State) : (s.fwRow r).pf = r.pf := rfl
@[simp] theorem fwRow_sparing (s r : State) : (s.fwRow r).sparing = s.sparing := rfl
@[simp] theorem fwRow_funcs (s r : State) : (s.fwRow r).funcs = r.funcs := rfl
@[simp] theorem fwRow_queues (s r : State) : (s.fwRow r).queues = r.queues := rfl
@[simp] theorem fwRow_cmds (s r : State) : (s.fwRow r).cmds = r.cmds := rfl
@[simp] theorem fwRow_ctxs (s r : State) : (s.fwRow r).ctxs = r.ctxs := rfl
@[simp] theorem fwRow_strms (s r : State) : (s.fwRow r).strms = s.strms := rfl
@[simp] theorem fwRow_images (s r : State) : (s.fwRow r).images = s.images := rfl
@[simp] theorem fwRow_steps (s r : State) : (s.fwRow r).steps = r.steps := rfl
@[simp] theorem fwRow_lcores (s r : State) : (s.fwRow r).lcores = s.lcores := rfl
@[simp] theorem fwRow_pcores (s r : State) : (s.fwRow r).pcores = s.pcores := rfl
@[simp] theorem fwRow_rope (s r : State) : (s.fwRow r).rope = s.rope := rfl
@[simp] theorem fwRow_coll (s r : State) : (s.fwRow r).coll = s.coll := rfl
@[simp] theorem fwRow_tier (s r : State) : (s.fwRow r).tier = s.tier := rfl
@[simp] theorem fwRow_cmp (s r : State) : (s.fwRow r).cmp = s.cmp := rfl
@[simp] theorem fwRow_dram (s r : State) : (s.fwRow r).dram = r.dram := rfl
@[simp] theorem fwRow_flash (s r : State) : (s.fwRow r).flash = r.flash := rfl
@[simp] theorem fwRow_out (s r : State) : (s.fwRow r).out = r.out := rfl
@[simp] theorem fwRow_draws (s r : State) : (s.fwRow r).draws = s.draws := rfl

/- cfgRow -/
@[simp] theorem cfgRow_pending (s r : State) : (s.cfgRow r).pending = s.pending := rfl
@[simp] theorem cfgRow_boot (s r : State) : (s.cfgRow r).boot = s.boot := rfl
@[simp] theorem cfgRow_nv (s r : State) : (s.cfgRow r).nv = s.nv := rfl
@[simp] theorem cfgRow_params (s r : State) : (s.cfgRow r).params = r.params := rfl
@[simp] theorem cfgRow_cfgm (s r : State) : (s.cfgRow r).cfgm = r.cfgm := rfl
@[simp] theorem cfgRow_fw (s r : State) : (s.cfgRow r).fw = r.fw := rfl
@[simp] theorem cfgRow_power (s r : State) : (s.cfgRow r).power = s.power := rfl
@[simp] theorem cfgRow_link (s r : State) : (s.cfgRow r).link = s.link := rfl
@[simp] theorem cfgRow_pf (s r : State) : (s.cfgRow r).pf = r.pf := rfl
@[simp] theorem cfgRow_sparing (s r : State) : (s.cfgRow r).sparing = s.sparing := rfl
@[simp] theorem cfgRow_funcs (s r : State) : (s.cfgRow r).funcs = r.funcs := rfl
@[simp] theorem cfgRow_queues (s r : State) : (s.cfgRow r).queues = r.queues := rfl
@[simp] theorem cfgRow_cmds (s r : State) : (s.cfgRow r).cmds = r.cmds := rfl
@[simp] theorem cfgRow_ctxs (s r : State) : (s.cfgRow r).ctxs = r.ctxs := rfl
@[simp] theorem cfgRow_strms (s r : State) : (s.cfgRow r).strms = s.strms := rfl
@[simp] theorem cfgRow_images (s r : State) : (s.cfgRow r).images = s.images := rfl
@[simp] theorem cfgRow_steps (s r : State) : (s.cfgRow r).steps = r.steps := rfl
@[simp] theorem cfgRow_lcores (s r : State) : (s.cfgRow r).lcores = s.lcores := rfl
@[simp] theorem cfgRow_pcores (s r : State) : (s.cfgRow r).pcores = s.pcores := rfl
@[simp] theorem cfgRow_rope (s r : State) : (s.cfgRow r).rope = s.rope := rfl
@[simp] theorem cfgRow_coll (s r : State) : (s.cfgRow r).coll = s.coll := rfl
@[simp] theorem cfgRow_tier (s r : State) : (s.cfgRow r).tier = s.tier := rfl
@[simp] theorem cfgRow_cmp (s r : State) : (s.cfgRow r).cmp = s.cmp := rfl
@[simp] theorem cfgRow_dram (s r : State) : (s.cfgRow r).dram = r.dram := rfl
@[simp] theorem cfgRow_flash (s r : State) : (s.cfgRow r).flash = s.flash := rfl
@[simp] theorem cfgRow_out (s r : State) : (s.cfgRow r).out = r.out := rfl
@[simp] theorem cfgRow_draws (s r : State) : (s.cfgRow r).draws = s.draws := rfl

/- regRow -/
@[simp] theorem regRow_pending (s r : State) : (s.regRow r).pending = s.pending := rfl
@[simp] theorem regRow_boot (s r : State) : (s.regRow r).boot =
    { s.boot with recoveryAddr := r.boot.recoveryAddr, recoveryLen := r.boot.recoveryLen } := rfl
@[simp] theorem regRow_nv (s r : State) : (s.regRow r).nv = s.nv := rfl
@[simp] theorem regRow_params (s r : State) : (s.regRow r).params = s.params := rfl
@[simp] theorem regRow_cfgm (s r : State) : (s.regRow r).cfgm = s.cfgm := rfl
@[simp] theorem regRow_fw (s r : State) : (s.regRow r).fw = s.fw := rfl
@[simp] theorem regRow_power (s r : State) : (s.regRow r).power = { s.power with capMw := r.power.capMw, domSel := r.power.domSel } := rfl
@[simp] theorem regRow_link (s r : State) : (s.regRow r).link = s.link := rfl
@[simp] theorem regRow_pf (s r : State) : (s.regRow r).pf = r.pf := rfl
@[simp] theorem regRow_sparing (s r : State) : (s.regRow r).sparing = s.sparing := rfl
@[simp] theorem regRow_funcs (s r : State) : (s.regRow r).funcs = r.funcs := rfl
@[simp] theorem regRow_queues (s r : State) : (s.regRow r).queues = r.queues := rfl
@[simp] theorem regRow_cmds (s r : State) : (s.regRow r).cmds = s.cmds := rfl
@[simp] theorem regRow_ctxs (s r : State) : (s.regRow r).ctxs = r.ctxs := rfl
@[simp] theorem regRow_strms (s r : State) : (s.regRow r).strms = s.strms := rfl
@[simp] theorem regRow_images (s r : State) : (s.regRow r).images = s.images := rfl
@[simp] theorem regRow_steps (s r : State) : (s.regRow r).steps = s.steps := rfl
@[simp] theorem regRow_lcores (s r : State) : (s.regRow r).lcores = s.lcores := rfl
@[simp] theorem regRow_pcores (s r : State) : (s.regRow r).pcores = s.pcores := rfl
@[simp] theorem regRow_rope (s r : State) : (s.regRow r).rope = s.rope := rfl
@[simp] theorem regRow_coll (s r : State) : (s.regRow r).coll = s.coll := rfl
@[simp] theorem regRow_tier (s r : State) : (s.regRow r).tier = s.tier := rfl
@[simp] theorem regRow_cmp (s r : State) : (s.regRow r).cmp = { s.cmp with selSlot := r.cmp.selSlot, selGen := r.cmp.selGen } := rfl
@[simp] theorem regRow_dram (s r : State) : (s.regRow r).dram = s.dram := rfl
@[simp] theorem regRow_flash (s r : State) : (s.regRow r).flash = s.flash := rfl
@[simp] theorem regRow_out (s r : State) : (s.regRow r).out = r.out := rfl
@[simp] theorem regRow_draws (s r : State) : (s.regRow r).draws = s.draws := rfl

/- powerRow -/
@[simp] theorem powerRow_pending (s r : State) : (s.powerRow r).pending = s.pending := rfl
@[simp] theorem powerRow_boot (s r : State) : (s.powerRow r).boot = s.boot := rfl
@[simp] theorem powerRow_nv (s r : State) : (s.powerRow r).nv = s.nv := rfl
@[simp] theorem powerRow_params (s r : State) : (s.powerRow r).params = s.params := rfl
@[simp] theorem powerRow_cfgm (s r : State) : (s.powerRow r).cfgm = s.cfgm := rfl
@[simp] theorem powerRow_fw (s r : State) : (s.powerRow r).fw = s.fw := rfl
@[simp] theorem powerRow_power (s r : State) : (s.powerRow r).power = r.power := rfl
@[simp] theorem powerRow_link (s r : State) : (s.powerRow r).link = s.link := rfl
@[simp] theorem powerRow_pf (s r : State) : (s.powerRow r).pf = r.pf := rfl
@[simp] theorem powerRow_sparing (s r : State) : (s.powerRow r).sparing = s.sparing := rfl
@[simp] theorem powerRow_funcs (s r : State) : (s.powerRow r).funcs = s.funcs := rfl
@[simp] theorem powerRow_queues (s r : State) : (s.powerRow r).queues = s.queues := rfl
@[simp] theorem powerRow_cmds (s r : State) : (s.powerRow r).cmds = s.cmds := rfl
@[simp] theorem powerRow_ctxs (s r : State) : (s.powerRow r).ctxs = s.ctxs := rfl
@[simp] theorem powerRow_strms (s r : State) : (s.powerRow r).strms = s.strms := rfl
@[simp] theorem powerRow_images (s r : State) : (s.powerRow r).images = s.images := rfl
@[simp] theorem powerRow_steps (s r : State) : (s.powerRow r).steps = s.steps := rfl
@[simp] theorem powerRow_lcores (s r : State) : (s.powerRow r).lcores = s.lcores := rfl
@[simp] theorem powerRow_pcores (s r : State) : (s.powerRow r).pcores = s.pcores := rfl
@[simp] theorem powerRow_rope (s r : State) : (s.powerRow r).rope = s.rope := rfl
@[simp] theorem powerRow_coll (s r : State) : (s.powerRow r).coll = s.coll := rfl
@[simp] theorem powerRow_tier (s r : State) : (s.powerRow r).tier = s.tier := rfl
@[simp] theorem powerRow_cmp (s r : State) : (s.powerRow r).cmp = s.cmp := rfl
@[simp] theorem powerRow_dram (s r : State) : (s.powerRow r).dram = s.dram := rfl
@[simp] theorem powerRow_flash (s r : State) : (s.powerRow r).flash = s.flash := rfl
@[simp] theorem powerRow_out (s r : State) : (s.powerRow r).out = r.out := rfl
@[simp] theorem powerRow_draws (s r : State) : (s.powerRow r).draws = s.draws := rfl

/- linkRow -/
@[simp] theorem linkRow_pending (s r : State) : (s.linkRow r).pending = s.pending := rfl
@[simp] theorem linkRow_boot (s r : State) : (s.linkRow r).boot = s.boot := rfl
@[simp] theorem linkRow_nv (s r : State) : (s.linkRow r).nv = s.nv := rfl
@[simp] theorem linkRow_params (s r : State) : (s.linkRow r).params = s.params := rfl
@[simp] theorem linkRow_cfgm (s r : State) : (s.linkRow r).cfgm = s.cfgm := rfl
@[simp] theorem linkRow_fw (s r : State) : (s.linkRow r).fw = s.fw := rfl
@[simp] theorem linkRow_power (s r : State) : (s.linkRow r).power = s.power := rfl
@[simp] theorem linkRow_link (s r : State) : (s.linkRow r).link = r.link := rfl
@[simp] theorem linkRow_pf (s r : State) : (s.linkRow r).pf = r.pf := rfl
@[simp] theorem linkRow_sparing (s r : State) : (s.linkRow r).sparing = s.sparing := rfl
@[simp] theorem linkRow_funcs (s r : State) : (s.linkRow r).funcs = s.funcs := rfl
@[simp] theorem linkRow_queues (s r : State) : (s.linkRow r).queues = s.queues := rfl
@[simp] theorem linkRow_cmds (s r : State) : (s.linkRow r).cmds = s.cmds := rfl
@[simp] theorem linkRow_ctxs (s r : State) : (s.linkRow r).ctxs = s.ctxs := rfl
@[simp] theorem linkRow_strms (s r : State) : (s.linkRow r).strms = s.strms := rfl
@[simp] theorem linkRow_images (s r : State) : (s.linkRow r).images = s.images := rfl
@[simp] theorem linkRow_steps (s r : State) : (s.linkRow r).steps = s.steps := rfl
@[simp] theorem linkRow_lcores (s r : State) : (s.linkRow r).lcores = s.lcores := rfl
@[simp] theorem linkRow_pcores (s r : State) : (s.linkRow r).pcores = s.pcores := rfl
@[simp] theorem linkRow_rope (s r : State) : (s.linkRow r).rope = s.rope := rfl
@[simp] theorem linkRow_coll (s r : State) : (s.linkRow r).coll = s.coll := rfl
@[simp] theorem linkRow_tier (s r : State) : (s.linkRow r).tier = s.tier := rfl
@[simp] theorem linkRow_cmp (s r : State) : (s.linkRow r).cmp = s.cmp := rfl
@[simp] theorem linkRow_dram (s r : State) : (s.linkRow r).dram = s.dram := rfl
@[simp] theorem linkRow_flash (s r : State) : (s.linkRow r).flash = s.flash := rfl
@[simp] theorem linkRow_out (s r : State) : (s.linkRow r).out = s.out := rfl
@[simp] theorem linkRow_draws (s r : State) : (s.linkRow r).draws = s.draws := rfl

/- modCtx -/
@[simp] theorem modCtx_pending (s : State) (n : Nat) (f : Ctx → Ctx) : (s.modCtx n f).pending = s.pending := rfl
@[simp] theorem modCtx_boot (s : State) (n : Nat) (f : Ctx → Ctx) : (s.modCtx n f).boot = s.boot := rfl
@[simp] theorem modCtx_nv (s : State) (n : Nat) (f : Ctx → Ctx) : (s.modCtx n f).nv = s.nv := rfl
@[simp] theorem modCtx_params (s : State) (n : Nat) (f : Ctx → Ctx) : (s.modCtx n f).params = s.params := rfl
@[simp] theorem modCtx_cfgm (s : State) (n : Nat) (f : Ctx → Ctx) : (s.modCtx n f).cfgm = s.cfgm := rfl
@[simp] theorem modCtx_fw (s : State) (n : Nat) (f : Ctx → Ctx) : (s.modCtx n f).fw = s.fw := rfl
@[simp] theorem modCtx_power (s : State) (n : Nat) (f : Ctx → Ctx) : (s.modCtx n f).power = s.power := rfl
@[simp] theorem modCtx_link (s : State) (n : Nat) (f : Ctx → Ctx) : (s.modCtx n f).link = s.link := rfl
@[simp] theorem modCtx_pf (s : State) (n : Nat) (f : Ctx → Ctx) : (s.modCtx n f).pf = s.pf := rfl
@[simp] theorem modCtx_sparing (s : State) (n : Nat) (f : Ctx → Ctx) : (s.modCtx n f).sparing = s.sparing := rfl
@[simp] theorem modCtx_funcs (s : State) (n : Nat) (f : Ctx → Ctx) : (s.modCtx n f).funcs = s.funcs := rfl
@[simp] theorem modCtx_queues (s : State) (n : Nat) (f : Ctx → Ctx) : (s.modCtx n f).queues = s.queues := rfl
@[simp] theorem modCtx_cmds (s : State) (n : Nat) (f : Ctx → Ctx) : (s.modCtx n f).cmds = s.cmds := rfl
@[simp] theorem modCtx_ctxs (s : State) (n : Nat) (f : Ctx → Ctx) : (s.modCtx n f).ctxs = s.ctxs.upd n f := rfl
@[simp] theorem modCtx_strms (s : State) (n : Nat) (f : Ctx → Ctx) : (s.modCtx n f).strms = s.strms := rfl
@[simp] theorem modCtx_images (s : State) (n : Nat) (f : Ctx → Ctx) : (s.modCtx n f).images = s.images := rfl
@[simp] theorem modCtx_steps (s : State) (n : Nat) (f : Ctx → Ctx) : (s.modCtx n f).steps = s.steps := rfl
@[simp] theorem modCtx_lcores (s : State) (n : Nat) (f : Ctx → Ctx) : (s.modCtx n f).lcores = s.lcores := rfl
@[simp] theorem modCtx_pcores (s : State) (n : Nat) (f : Ctx → Ctx) : (s.modCtx n f).pcores = s.pcores := rfl
@[simp] theorem modCtx_rope (s : State) (n : Nat) (f : Ctx → Ctx) : (s.modCtx n f).rope = s.rope := rfl
@[simp] theorem modCtx_coll (s : State) (n : Nat) (f : Ctx → Ctx) : (s.modCtx n f).coll = s.coll := rfl
@[simp] theorem modCtx_tier (s : State) (n : Nat) (f : Ctx → Ctx) : (s.modCtx n f).tier = s.tier := rfl
@[simp] theorem modCtx_cmp (s : State) (n : Nat) (f : Ctx → Ctx) : (s.modCtx n f).cmp = s.cmp := rfl
@[simp] theorem modCtx_dram (s : State) (n : Nat) (f : Ctx → Ctx) : (s.modCtx n f).dram = s.dram := rfl
@[simp] theorem modCtx_flash (s : State) (n : Nat) (f : Ctx → Ctx) : (s.modCtx n f).flash = s.flash := rfl
@[simp] theorem modCtx_out (s : State) (n : Nat) (f : Ctx → Ctx) : (s.modCtx n f).out = s.out := rfl
@[simp] theorem modCtx_draws (s : State) (n : Nat) (f : Ctx → Ctx) : (s.modCtx n f).draws = s.draws := rfl

/- modFunc -/
@[simp] theorem modFunc_pending (s : State) (n : Nat) (f : Func → Func) : (s.modFunc n f).pending = s.pending := rfl
@[simp] theorem modFunc_boot (s : State) (n : Nat) (f : Func → Func) : (s.modFunc n f).boot = s.boot := rfl
@[simp] theorem modFunc_nv (s : State) (n : Nat) (f : Func → Func) : (s.modFunc n f).nv = s.nv := rfl
@[simp] theorem modFunc_params (s : State) (n : Nat) (f : Func → Func) : (s.modFunc n f).params = s.params := rfl
@[simp] theorem modFunc_cfgm (s : State) (n : Nat) (f : Func → Func) : (s.modFunc n f).cfgm = s.cfgm := rfl
@[simp] theorem modFunc_fw (s : State) (n : Nat) (f : Func → Func) : (s.modFunc n f).fw = s.fw := rfl
@[simp] theorem modFunc_power (s : State) (n : Nat) (f : Func → Func) : (s.modFunc n f).power = s.power := rfl
@[simp] theorem modFunc_link (s : State) (n : Nat) (f : Func → Func) : (s.modFunc n f).link = s.link := rfl
@[simp] theorem modFunc_pf (s : State) (n : Nat) (f : Func → Func) : (s.modFunc n f).pf = s.pf := rfl
@[simp] theorem modFunc_sparing (s : State) (n : Nat) (f : Func → Func) : (s.modFunc n f).sparing = s.sparing := rfl
@[simp] theorem modFunc_funcs (s : State) (n : Nat) (f : Func → Func) : (s.modFunc n f).funcs = s.funcs.set n (f (s.func n)) := rfl
@[simp] theorem modFunc_queues (s : State) (n : Nat) (f : Func → Func) : (s.modFunc n f).queues = s.queues := rfl
@[simp] theorem modFunc_cmds (s : State) (n : Nat) (f : Func → Func) : (s.modFunc n f).cmds = s.cmds := rfl
@[simp] theorem modFunc_ctxs (s : State) (n : Nat) (f : Func → Func) : (s.modFunc n f).ctxs = s.ctxs := rfl
@[simp] theorem modFunc_strms (s : State) (n : Nat) (f : Func → Func) : (s.modFunc n f).strms = s.strms := rfl
@[simp] theorem modFunc_images (s : State) (n : Nat) (f : Func → Func) : (s.modFunc n f).images = s.images := rfl
@[simp] theorem modFunc_steps (s : State) (n : Nat) (f : Func → Func) : (s.modFunc n f).steps = s.steps := rfl
@[simp] theorem modFunc_lcores (s : State) (n : Nat) (f : Func → Func) : (s.modFunc n f).lcores = s.lcores := rfl
@[simp] theorem modFunc_pcores (s : State) (n : Nat) (f : Func → Func) : (s.modFunc n f).pcores = s.pcores := rfl
@[simp] theorem modFunc_rope (s : State) (n : Nat) (f : Func → Func) : (s.modFunc n f).rope = s.rope := rfl
@[simp] theorem modFunc_coll (s : State) (n : Nat) (f : Func → Func) : (s.modFunc n f).coll = s.coll := rfl
@[simp] theorem modFunc_tier (s : State) (n : Nat) (f : Func → Func) : (s.modFunc n f).tier = s.tier := rfl
@[simp] theorem modFunc_cmp (s : State) (n : Nat) (f : Func → Func) : (s.modFunc n f).cmp = s.cmp := rfl
@[simp] theorem modFunc_dram (s : State) (n : Nat) (f : Func → Func) : (s.modFunc n f).dram = s.dram := rfl
@[simp] theorem modFunc_flash (s : State) (n : Nat) (f : Func → Func) : (s.modFunc n f).flash = s.flash := rfl
@[simp] theorem modFunc_out (s : State) (n : Nat) (f : Func → Func) : (s.modFunc n f).out = s.out := rfl
@[simp] theorem modFunc_draws (s : State) (n : Nat) (f : Func → Func) : (s.modFunc n f).draws = s.draws := rfl

/- modLc -/
@[simp] theorem modLc_pending (s : State) (c : Nat) (f : LCore → LCore) : (s.modLc c f).pending = s.pending := rfl
@[simp] theorem modLc_boot (s : State) (c : Nat) (f : LCore → LCore) : (s.modLc c f).boot = s.boot := rfl
@[simp] theorem modLc_nv (s : State) (c : Nat) (f : LCore → LCore) : (s.modLc c f).nv = s.nv := rfl
@[simp] theorem modLc_params (s : State) (c : Nat) (f : LCore → LCore) : (s.modLc c f).params = s.params := rfl
@[simp] theorem modLc_cfgm (s : State) (c : Nat) (f : LCore → LCore) : (s.modLc c f).cfgm = s.cfgm := rfl
@[simp] theorem modLc_fw (s : State) (c : Nat) (f : LCore → LCore) : (s.modLc c f).fw = s.fw := rfl
@[simp] theorem modLc_power (s : State) (c : Nat) (f : LCore → LCore) : (s.modLc c f).power = s.power := rfl
@[simp] theorem modLc_link (s : State) (c : Nat) (f : LCore → LCore) : (s.modLc c f).link = s.link := rfl
@[simp] theorem modLc_pf (s : State) (c : Nat) (f : LCore → LCore) : (s.modLc c f).pf = s.pf := rfl
@[simp] theorem modLc_sparing (s : State) (c : Nat) (f : LCore → LCore) : (s.modLc c f).sparing = s.sparing := rfl
@[simp] theorem modLc_funcs (s : State) (c : Nat) (f : LCore → LCore) : (s.modLc c f).funcs = s.funcs := rfl
@[simp] theorem modLc_queues (s : State) (c : Nat) (f : LCore → LCore) : (s.modLc c f).queues = s.queues := rfl
@[simp] theorem modLc_cmds (s : State) (c : Nat) (f : LCore → LCore) : (s.modLc c f).cmds = s.cmds := rfl
@[simp] theorem modLc_ctxs (s : State) (c : Nat) (f : LCore → LCore) : (s.modLc c f).ctxs = s.ctxs := rfl
@[simp] theorem modLc_strms (s : State) (c : Nat) (f : LCore → LCore) : (s.modLc c f).strms = s.strms := rfl
@[simp] theorem modLc_images (s : State) (c : Nat) (f : LCore → LCore) : (s.modLc c f).images = s.images := rfl
@[simp] theorem modLc_steps (s : State) (c : Nat) (f : LCore → LCore) : (s.modLc c f).steps = s.steps := rfl
@[simp] theorem modLc_lcores (s : State) (c : Nat) (f : LCore → LCore) : (s.modLc c f).lcores = s.lcores.modify c f := rfl
@[simp] theorem modLc_pcores (s : State) (c : Nat) (f : LCore → LCore) : (s.modLc c f).pcores = s.pcores := rfl
@[simp] theorem modLc_rope (s : State) (c : Nat) (f : LCore → LCore) : (s.modLc c f).rope = s.rope := rfl
@[simp] theorem modLc_coll (s : State) (c : Nat) (f : LCore → LCore) : (s.modLc c f).coll = s.coll := rfl
@[simp] theorem modLc_tier (s : State) (c : Nat) (f : LCore → LCore) : (s.modLc c f).tier = s.tier := rfl
@[simp] theorem modLc_cmp (s : State) (c : Nat) (f : LCore → LCore) : (s.modLc c f).cmp = s.cmp := rfl
@[simp] theorem modLc_dram (s : State) (c : Nat) (f : LCore → LCore) : (s.modLc c f).dram = s.dram := rfl
@[simp] theorem modLc_flash (s : State) (c : Nat) (f : LCore → LCore) : (s.modLc c f).flash = s.flash := rfl
@[simp] theorem modLc_out (s : State) (c : Nat) (f : LCore → LCore) : (s.modLc c f).out = s.out := rfl
@[simp] theorem modLc_draws (s : State) (c : Nat) (f : LCore → LCore) : (s.modLc c f).draws = s.draws := rfl

/- modPc -/
@[simp] theorem modPc_pending (s : State) (p : Nat) (f : PCore → PCore) : (s.modPc p f).pending = s.pending := rfl
@[simp] theorem modPc_boot (s : State) (p : Nat) (f : PCore → PCore) : (s.modPc p f).boot = s.boot := rfl
@[simp] theorem modPc_nv (s : State) (p : Nat) (f : PCore → PCore) : (s.modPc p f).nv = s.nv := rfl
@[simp] theorem modPc_params (s : State) (p : Nat) (f : PCore → PCore) : (s.modPc p f).params = s.params := rfl
@[simp] theorem modPc_cfgm (s : State) (p : Nat) (f : PCore → PCore) : (s.modPc p f).cfgm = s.cfgm := rfl
@[simp] theorem modPc_fw (s : State) (p : Nat) (f : PCore → PCore) : (s.modPc p f).fw = s.fw := rfl
@[simp] theorem modPc_power (s : State) (p : Nat) (f : PCore → PCore) : (s.modPc p f).power = s.power := rfl
@[simp] theorem modPc_link (s : State) (p : Nat) (f : PCore → PCore) : (s.modPc p f).link = s.link := rfl
@[simp] theorem modPc_pf (s : State) (p : Nat) (f : PCore → PCore) : (s.modPc p f).pf = s.pf := rfl
@[simp] theorem modPc_sparing (s : State) (p : Nat) (f : PCore → PCore) : (s.modPc p f).sparing = s.sparing := rfl
@[simp] theorem modPc_funcs (s : State) (p : Nat) (f : PCore → PCore) : (s.modPc p f).funcs = s.funcs := rfl
@[simp] theorem modPc_queues (s : State) (p : Nat) (f : PCore → PCore) : (s.modPc p f).queues = s.queues := rfl
@[simp] theorem modPc_cmds (s : State) (p : Nat) (f : PCore → PCore) : (s.modPc p f).cmds = s.cmds := rfl
@[simp] theorem modPc_ctxs (s : State) (p : Nat) (f : PCore → PCore) : (s.modPc p f).ctxs = s.ctxs := rfl
@[simp] theorem modPc_strms (s : State) (p : Nat) (f : PCore → PCore) : (s.modPc p f).strms = s.strms := rfl
@[simp] theorem modPc_images (s : State) (p : Nat) (f : PCore → PCore) : (s.modPc p f).images = s.images := rfl
@[simp] theorem modPc_steps (s : State) (p : Nat) (f : PCore → PCore) : (s.modPc p f).steps = s.steps := rfl
@[simp] theorem modPc_lcores (s : State) (p : Nat) (f : PCore → PCore) : (s.modPc p f).lcores = s.lcores := rfl
@[simp] theorem modPc_pcores (s : State) (p : Nat) (f : PCore → PCore) : (s.modPc p f).pcores = s.pcores.modify p f := rfl
@[simp] theorem modPc_rope (s : State) (p : Nat) (f : PCore → PCore) : (s.modPc p f).rope = s.rope := rfl
@[simp] theorem modPc_coll (s : State) (p : Nat) (f : PCore → PCore) : (s.modPc p f).coll = s.coll := rfl
@[simp] theorem modPc_tier (s : State) (p : Nat) (f : PCore → PCore) : (s.modPc p f).tier = s.tier := rfl
@[simp] theorem modPc_cmp (s : State) (p : Nat) (f : PCore → PCore) : (s.modPc p f).cmp = s.cmp := rfl
@[simp] theorem modPc_dram (s : State) (p : Nat) (f : PCore → PCore) : (s.modPc p f).dram = s.dram := rfl
@[simp] theorem modPc_flash (s : State) (p : Nat) (f : PCore → PCore) : (s.modPc p f).flash = s.flash := rfl
@[simp] theorem modPc_out (s : State) (p : Nat) (f : PCore → PCore) : (s.modPc p f).out = s.out := rfl
@[simp] theorem modPc_draws (s : State) (p : Nat) (f : PCore → PCore) : (s.modPc p f).draws = s.draws := rfl

/- modStep -/
@[simp] theorem modStep_pending (s : State) (n : Nat) (f : StepRec → StepRec) : (s.modStep n f).pending = s.pending := rfl
@[simp] theorem modStep_boot (s : State) (n : Nat) (f : StepRec → StepRec) : (s.modStep n f).boot = s.boot := rfl
@[simp] theorem modStep_nv (s : State) (n : Nat) (f : StepRec → StepRec) : (s.modStep n f).nv = s.nv := rfl
@[simp] theorem modStep_params (s : State) (n : Nat) (f : StepRec → StepRec) : (s.modStep n f).params = s.params := rfl
@[simp] theorem modStep_cfgm (s : State) (n : Nat) (f : StepRec → StepRec) : (s.modStep n f).cfgm = s.cfgm := rfl
@[simp] theorem modStep_fw (s : State) (n : Nat) (f : StepRec → StepRec) : (s.modStep n f).fw = s.fw := rfl
@[simp] theorem modStep_power (s : State) (n : Nat) (f : StepRec → StepRec) : (s.modStep n f).power = s.power := rfl
@[simp] theorem modStep_link (s : State) (n : Nat) (f : StepRec → StepRec) : (s.modStep n f).link = s.link := rfl
@[simp] theorem modStep_pf (s : State) (n : Nat) (f : StepRec → StepRec) : (s.modStep n f).pf = s.pf := rfl
@[simp] theorem modStep_sparing (s : State) (n : Nat) (f : StepRec → StepRec) : (s.modStep n f).sparing = s.sparing := rfl
@[simp] theorem modStep_funcs (s : State) (n : Nat) (f : StepRec → StepRec) : (s.modStep n f).funcs = s.funcs := rfl
@[simp] theorem modStep_queues (s : State) (n : Nat) (f : StepRec → StepRec) : (s.modStep n f).queues = s.queues := rfl
@[simp] theorem modStep_cmds (s : State) (n : Nat) (f : StepRec → StepRec) : (s.modStep n f).cmds = s.cmds := rfl
@[simp] theorem modStep_ctxs (s : State) (n : Nat) (f : StepRec → StepRec) : (s.modStep n f).ctxs = s.ctxs := rfl
@[simp] theorem modStep_strms (s : State) (n : Nat) (f : StepRec → StepRec) : (s.modStep n f).strms = s.strms := rfl
@[simp] theorem modStep_images (s : State) (n : Nat) (f : StepRec → StepRec) : (s.modStep n f).images = s.images := rfl
@[simp] theorem modStep_steps (s : State) (n : Nat) (f : StepRec → StepRec) : (s.modStep n f).steps =
    { s.steps with list := s.steps.list.upd n f } := rfl
@[simp] theorem modStep_lcores (s : State) (n : Nat) (f : StepRec → StepRec) : (s.modStep n f).lcores = s.lcores := rfl
@[simp] theorem modStep_pcores (s : State) (n : Nat) (f : StepRec → StepRec) : (s.modStep n f).pcores = s.pcores := rfl
@[simp] theorem modStep_rope (s : State) (n : Nat) (f : StepRec → StepRec) : (s.modStep n f).rope = s.rope := rfl
@[simp] theorem modStep_coll (s : State) (n : Nat) (f : StepRec → StepRec) : (s.modStep n f).coll = s.coll := rfl
@[simp] theorem modStep_tier (s : State) (n : Nat) (f : StepRec → StepRec) : (s.modStep n f).tier = s.tier := rfl
@[simp] theorem modStep_cmp (s : State) (n : Nat) (f : StepRec → StepRec) : (s.modStep n f).cmp = s.cmp := rfl
@[simp] theorem modStep_dram (s : State) (n : Nat) (f : StepRec → StepRec) : (s.modStep n f).dram = s.dram := rfl
@[simp] theorem modStep_flash (s : State) (n : Nat) (f : StepRec → StepRec) : (s.modStep n f).flash = s.flash := rfl
@[simp] theorem modStep_out (s : State) (n : Nat) (f : StepRec → StepRec) : (s.modStep n f).out = s.out := rfl
@[simp] theorem modStep_draws (s : State) (n : Nat) (f : StepRec → StepRec) : (s.modStep n f).draws = s.draws := rfl

/- modCmd -/
@[simp] theorem modCmd_pending (s : State) (n : Nat) (f : Cmd → Cmd) : (s.modCmd n f).pending = s.pending := rfl
@[simp] theorem modCmd_boot (s : State) (n : Nat) (f : Cmd → Cmd) : (s.modCmd n f).boot = s.boot := rfl
@[simp] theorem modCmd_nv (s : State) (n : Nat) (f : Cmd → Cmd) : (s.modCmd n f).nv = s.nv := rfl
@[simp] theorem modCmd_params (s : State) (n : Nat) (f : Cmd → Cmd) : (s.modCmd n f).params = s.params := rfl
@[simp] theorem modCmd_cfgm (s : State) (n : Nat) (f : Cmd → Cmd) : (s.modCmd n f).cfgm = s.cfgm := rfl
@[simp] theorem modCmd_fw (s : State) (n : Nat) (f : Cmd → Cmd) : (s.modCmd n f).fw = s.fw := rfl
@[simp] theorem modCmd_power (s : State) (n : Nat) (f : Cmd → Cmd) : (s.modCmd n f).power = s.power := rfl
@[simp] theorem modCmd_link (s : State) (n : Nat) (f : Cmd → Cmd) : (s.modCmd n f).link = s.link := rfl
@[simp] theorem modCmd_pf (s : State) (n : Nat) (f : Cmd → Cmd) : (s.modCmd n f).pf = s.pf := rfl
@[simp] theorem modCmd_sparing (s : State) (n : Nat) (f : Cmd → Cmd) : (s.modCmd n f).sparing = s.sparing := rfl
@[simp] theorem modCmd_funcs (s : State) (n : Nat) (f : Cmd → Cmd) : (s.modCmd n f).funcs = s.funcs := rfl
@[simp] theorem modCmd_queues (s : State) (n : Nat) (f : Cmd → Cmd) : (s.modCmd n f).queues = s.queues := rfl
@[simp] theorem modCmd_cmds (s : State) (n : Nat) (f : Cmd → Cmd) : (s.modCmd n f).cmds =
    { s.cmds with list := s.cmds.list.map (fun c => if c.fid = n then f c else c) } := rfl
@[simp] theorem modCmd_ctxs (s : State) (n : Nat) (f : Cmd → Cmd) : (s.modCmd n f).ctxs = s.ctxs := rfl
@[simp] theorem modCmd_strms (s : State) (n : Nat) (f : Cmd → Cmd) : (s.modCmd n f).strms = s.strms := rfl
@[simp] theorem modCmd_images (s : State) (n : Nat) (f : Cmd → Cmd) : (s.modCmd n f).images = s.images := rfl
@[simp] theorem modCmd_steps (s : State) (n : Nat) (f : Cmd → Cmd) : (s.modCmd n f).steps = s.steps := rfl
@[simp] theorem modCmd_lcores (s : State) (n : Nat) (f : Cmd → Cmd) : (s.modCmd n f).lcores = s.lcores := rfl
@[simp] theorem modCmd_pcores (s : State) (n : Nat) (f : Cmd → Cmd) : (s.modCmd n f).pcores = s.pcores := rfl
@[simp] theorem modCmd_rope (s : State) (n : Nat) (f : Cmd → Cmd) : (s.modCmd n f).rope = s.rope := rfl
@[simp] theorem modCmd_coll (s : State) (n : Nat) (f : Cmd → Cmd) : (s.modCmd n f).coll = s.coll := rfl
@[simp] theorem modCmd_tier (s : State) (n : Nat) (f : Cmd → Cmd) : (s.modCmd n f).tier = s.tier := rfl
@[simp] theorem modCmd_cmp (s : State) (n : Nat) (f : Cmd → Cmd) : (s.modCmd n f).cmp = s.cmp := rfl
@[simp] theorem modCmd_dram (s : State) (n : Nat) (f : Cmd → Cmd) : (s.modCmd n f).dram = s.dram := rfl
@[simp] theorem modCmd_flash (s : State) (n : Nat) (f : Cmd → Cmd) : (s.modCmd n f).flash = s.flash := rfl
@[simp] theorem modCmd_out (s : State) (n : Nat) (f : Cmd → Cmd) : (s.modCmd n f).out = s.out := rfl
@[simp] theorem modCmd_draws (s : State) (n : Nat) (f : Cmd → Cmd) : (s.modCmd n f).draws = s.draws := rfl

/- modRope -/
@[simp] theorem modRope_pending (s : State) (f : Rope → Rope) : (s.modRope f).pending = s.pending := rfl
@[simp] theorem modRope_boot (s : State) (f : Rope → Rope) : (s.modRope f).boot = s.boot := rfl
@[simp] theorem modRope_nv (s : State) (f : Rope → Rope) : (s.modRope f).nv = s.nv := rfl
@[simp] theorem modRope_params (s : State) (f : Rope → Rope) : (s.modRope f).params = s.params := rfl
@[simp] theorem modRope_cfgm (s : State) (f : Rope → Rope) : (s.modRope f).cfgm = s.cfgm := rfl
@[simp] theorem modRope_fw (s : State) (f : Rope → Rope) : (s.modRope f).fw = s.fw := rfl
@[simp] theorem modRope_power (s : State) (f : Rope → Rope) : (s.modRope f).power = s.power := rfl
@[simp] theorem modRope_link (s : State) (f : Rope → Rope) : (s.modRope f).link = s.link := rfl
@[simp] theorem modRope_pf (s : State) (f : Rope → Rope) : (s.modRope f).pf = s.pf := rfl
@[simp] theorem modRope_sparing (s : State) (f : Rope → Rope) : (s.modRope f).sparing = s.sparing := rfl
@[simp] theorem modRope_funcs (s : State) (f : Rope → Rope) : (s.modRope f).funcs = s.funcs := rfl
@[simp] theorem modRope_queues (s : State) (f : Rope → Rope) : (s.modRope f).queues = s.queues := rfl
@[simp] theorem modRope_cmds (s : State) (f : Rope → Rope) : (s.modRope f).cmds = s.cmds := rfl
@[simp] theorem modRope_ctxs (s : State) (f : Rope → Rope) : (s.modRope f).ctxs = s.ctxs := rfl
@[simp] theorem modRope_strms (s : State) (f : Rope → Rope) : (s.modRope f).strms = s.strms := rfl
@[simp] theorem modRope_images (s : State) (f : Rope → Rope) : (s.modRope f).images = s.images := rfl
@[simp] theorem modRope_steps (s : State) (f : Rope → Rope) : (s.modRope f).steps = s.steps := rfl
@[simp] theorem modRope_lcores (s : State) (f : Rope → Rope) : (s.modRope f).lcores = s.lcores := rfl
@[simp] theorem modRope_pcores (s : State) (f : Rope → Rope) : (s.modRope f).pcores = s.pcores := rfl
@[simp] theorem modRope_rope (s : State) (f : Rope → Rope) : (s.modRope f).rope = f s.rope := rfl
@[simp] theorem modRope_coll (s : State) (f : Rope → Rope) : (s.modRope f).coll = s.coll := rfl
@[simp] theorem modRope_tier (s : State) (f : Rope → Rope) : (s.modRope f).tier = s.tier := rfl
@[simp] theorem modRope_cmp (s : State) (f : Rope → Rope) : (s.modRope f).cmp = s.cmp := rfl
@[simp] theorem modRope_dram (s : State) (f : Rope → Rope) : (s.modRope f).dram = s.dram := rfl
@[simp] theorem modRope_flash (s : State) (f : Rope → Rope) : (s.modRope f).flash = s.flash := rfl
@[simp] theorem modRope_out (s : State) (f : Rope → Rope) : (s.modRope f).out = s.out := rfl
@[simp] theorem modRope_draws (s : State) (f : Rope → Rope) : (s.modRope f).draws = s.draws := rfl

/- modStrm -/
@[simp] theorem modStrm_pending (s : State) (i : Nat) (f : Strm → Strm) : (s.modStrm i f).pending = s.pending := rfl
@[simp] theorem modStrm_boot (s : State) (i : Nat) (f : Strm → Strm) : (s.modStrm i f).boot = s.boot := rfl
@[simp] theorem modStrm_nv (s : State) (i : Nat) (f : Strm → Strm) : (s.modStrm i f).nv = s.nv := rfl
@[simp] theorem modStrm_params (s : State) (i : Nat) (f : Strm → Strm) : (s.modStrm i f).params = s.params := rfl
@[simp] theorem modStrm_cfgm (s : State) (i : Nat) (f : Strm → Strm) : (s.modStrm i f).cfgm = s.cfgm := rfl
@[simp] theorem modStrm_fw (s : State) (i : Nat) (f : Strm → Strm) : (s.modStrm i f).fw = s.fw := rfl
@[simp] theorem modStrm_power (s : State) (i : Nat) (f : Strm → Strm) : (s.modStrm i f).power = s.power := rfl
@[simp] theorem modStrm_link (s : State) (i : Nat) (f : Strm → Strm) : (s.modStrm i f).link = s.link := rfl
@[simp] theorem modStrm_pf (s : State) (i : Nat) (f : Strm → Strm) : (s.modStrm i f).pf = s.pf := rfl
@[simp] theorem modStrm_sparing (s : State) (i : Nat) (f : Strm → Strm) : (s.modStrm i f).sparing = s.sparing := rfl
@[simp] theorem modStrm_funcs (s : State) (i : Nat) (f : Strm → Strm) : (s.modStrm i f).funcs = s.funcs := rfl
@[simp] theorem modStrm_queues (s : State) (i : Nat) (f : Strm → Strm) : (s.modStrm i f).queues = s.queues := rfl
@[simp] theorem modStrm_cmds (s : State) (i : Nat) (f : Strm → Strm) : (s.modStrm i f).cmds = s.cmds := rfl
@[simp] theorem modStrm_ctxs (s : State) (i : Nat) (f : Strm → Strm) : (s.modStrm i f).ctxs = s.ctxs := rfl
@[simp] theorem modStrm_strms (s : State) (i : Nat) (f : Strm → Strm) : (s.modStrm i f).strms = s.strms.upd i f := rfl
@[simp] theorem modStrm_images (s : State) (i : Nat) (f : Strm → Strm) : (s.modStrm i f).images = s.images := rfl
@[simp] theorem modStrm_steps (s : State) (i : Nat) (f : Strm → Strm) : (s.modStrm i f).steps = s.steps := rfl
@[simp] theorem modStrm_lcores (s : State) (i : Nat) (f : Strm → Strm) : (s.modStrm i f).lcores = s.lcores := rfl
@[simp] theorem modStrm_pcores (s : State) (i : Nat) (f : Strm → Strm) : (s.modStrm i f).pcores = s.pcores := rfl
@[simp] theorem modStrm_rope (s : State) (i : Nat) (f : Strm → Strm) : (s.modStrm i f).rope = s.rope := rfl
@[simp] theorem modStrm_coll (s : State) (i : Nat) (f : Strm → Strm) : (s.modStrm i f).coll = s.coll := rfl
@[simp] theorem modStrm_tier (s : State) (i : Nat) (f : Strm → Strm) : (s.modStrm i f).tier = s.tier := rfl
@[simp] theorem modStrm_cmp (s : State) (i : Nat) (f : Strm → Strm) : (s.modStrm i f).cmp = s.cmp := rfl
@[simp] theorem modStrm_dram (s : State) (i : Nat) (f : Strm → Strm) : (s.modStrm i f).dram = s.dram := rfl
@[simp] theorem modStrm_flash (s : State) (i : Nat) (f : Strm → Strm) : (s.modStrm i f).flash = s.flash := rfl
@[simp] theorem modStrm_out (s : State) (i : Nat) (f : Strm → Strm) : (s.modStrm i f).out = s.out := rfl
@[simp] theorem modStrm_draws (s : State) (i : Nat) (f : Strm → Strm) : (s.modStrm i f).draws = s.draws := rfl

/- modPower -/
@[simp] theorem modPower_pending (s : State) (f : Power → Power) : (s.modPower f).pending = s.pending := rfl
@[simp] theorem modPower_boot (s : State) (f : Power → Power) : (s.modPower f).boot = s.boot := rfl
@[simp] theorem modPower_nv (s : State) (f : Power → Power) : (s.modPower f).nv = s.nv := rfl
@[simp] theorem modPower_params (s : State) (f : Power → Power) : (s.modPower f).params = s.params := rfl
@[simp] theorem modPower_cfgm (s : State) (f : Power → Power) : (s.modPower f).cfgm = s.cfgm := rfl
@[simp] theorem modPower_fw (s : State) (f : Power → Power) : (s.modPower f).fw = s.fw := rfl
@[simp] theorem modPower_power (s : State) (f : Power → Power) : (s.modPower f).power = f s.power := rfl
@[simp] theorem modPower_link (s : State) (f : Power → Power) : (s.modPower f).link = s.link := rfl
@[simp] theorem modPower_pf (s : State) (f : Power → Power) : (s.modPower f).pf = s.pf := rfl
@[simp] theorem modPower_sparing (s : State) (f : Power → Power) : (s.modPower f).sparing = s.sparing := rfl
@[simp] theorem modPower_funcs (s : State) (f : Power → Power) : (s.modPower f).funcs = s.funcs := rfl
@[simp] theorem modPower_queues (s : State) (f : Power → Power) : (s.modPower f).queues = s.queues := rfl
@[simp] theorem modPower_cmds (s : State) (f : Power → Power) : (s.modPower f).cmds = s.cmds := rfl
@[simp] theorem modPower_ctxs (s : State) (f : Power → Power) : (s.modPower f).ctxs = s.ctxs := rfl
@[simp] theorem modPower_strms (s : State) (f : Power → Power) : (s.modPower f).strms = s.strms := rfl
@[simp] theorem modPower_images (s : State) (f : Power → Power) : (s.modPower f).images = s.images := rfl
@[simp] theorem modPower_steps (s : State) (f : Power → Power) : (s.modPower f).steps = s.steps := rfl
@[simp] theorem modPower_lcores (s : State) (f : Power → Power) : (s.modPower f).lcores = s.lcores := rfl
@[simp] theorem modPower_pcores (s : State) (f : Power → Power) : (s.modPower f).pcores = s.pcores := rfl
@[simp] theorem modPower_rope (s : State) (f : Power → Power) : (s.modPower f).rope = s.rope := rfl
@[simp] theorem modPower_coll (s : State) (f : Power → Power) : (s.modPower f).coll = s.coll := rfl
@[simp] theorem modPower_tier (s : State) (f : Power → Power) : (s.modPower f).tier = s.tier := rfl
@[simp] theorem modPower_cmp (s : State) (f : Power → Power) : (s.modPower f).cmp = s.cmp := rfl
@[simp] theorem modPower_dram (s : State) (f : Power → Power) : (s.modPower f).dram = s.dram := rfl
@[simp] theorem modPower_flash (s : State) (f : Power → Power) : (s.modPower f).flash = s.flash := rfl
@[simp] theorem modPower_out (s : State) (f : Power → Power) : (s.modPower f).out = s.out := rfl
@[simp] theorem modPower_draws (s : State) (f : Power → Power) : (s.modPower f).draws = s.draws := rfl

/- setFrame -/
@[simp] theorem setFrame_pending (s : State) (f : Nat) (u : FrameUse) : (s.setFrame f u).pending = s.pending := rfl
@[simp] theorem setFrame_boot (s : State) (f : Nat) (u : FrameUse) : (s.setFrame f u).boot = s.boot := rfl
@[simp] theorem setFrame_nv (s : State) (f : Nat) (u : FrameUse) : (s.setFrame f u).nv = s.nv := rfl
@[simp] theorem setFrame_params (s : State) (f : Nat) (u : FrameUse) : (s.setFrame f u).params = s.params := rfl
@[simp] theorem setFrame_cfgm (s : State) (f : Nat) (u : FrameUse) : (s.setFrame f u).cfgm = s.cfgm := rfl
@[simp] theorem setFrame_fw (s : State) (f : Nat) (u : FrameUse) : (s.setFrame f u).fw = s.fw := rfl
@[simp] theorem setFrame_power (s : State) (f : Nat) (u : FrameUse) : (s.setFrame f u).power = s.power := rfl
@[simp] theorem setFrame_link (s : State) (f : Nat) (u : FrameUse) : (s.setFrame f u).link = s.link := rfl
@[simp] theorem setFrame_pf (s : State) (f : Nat) (u : FrameUse) : (s.setFrame f u).pf = s.pf := rfl
@[simp] theorem setFrame_sparing (s : State) (f : Nat) (u : FrameUse) : (s.setFrame f u).sparing = s.sparing := rfl
@[simp] theorem setFrame_funcs (s : State) (f : Nat) (u : FrameUse) : (s.setFrame f u).funcs = s.funcs := rfl
@[simp] theorem setFrame_queues (s : State) (f : Nat) (u : FrameUse) : (s.setFrame f u).queues = s.queues := rfl
@[simp] theorem setFrame_cmds (s : State) (f : Nat) (u : FrameUse) : (s.setFrame f u).cmds = s.cmds := rfl
@[simp] theorem setFrame_ctxs (s : State) (f : Nat) (u : FrameUse) : (s.setFrame f u).ctxs = s.ctxs := rfl
@[simp] theorem setFrame_strms (s : State) (f : Nat) (u : FrameUse) : (s.setFrame f u).strms = s.strms := rfl
@[simp] theorem setFrame_images (s : State) (f : Nat) (u : FrameUse) : (s.setFrame f u).images = s.images := rfl
@[simp] theorem setFrame_steps (s : State) (f : Nat) (u : FrameUse) : (s.setFrame f u).steps = s.steps := rfl
@[simp] theorem setFrame_lcores (s : State) (f : Nat) (u : FrameUse) : (s.setFrame f u).lcores = s.lcores := rfl
@[simp] theorem setFrame_pcores (s : State) (f : Nat) (u : FrameUse) : (s.setFrame f u).pcores = s.pcores := rfl
@[simp] theorem setFrame_rope (s : State) (f : Nat) (u : FrameUse) : (s.setFrame f u).rope = s.rope := rfl
@[simp] theorem setFrame_coll (s : State) (f : Nat) (u : FrameUse) : (s.setFrame f u).coll = s.coll := rfl
@[simp] theorem setFrame_tier (s : State) (f : Nat) (u : FrameUse) : (s.setFrame f u).tier = { s.tier with frames := s.tier.frames.set f u } := rfl
@[simp] theorem setFrame_cmp (s : State) (f : Nat) (u : FrameUse) : (s.setFrame f u).cmp = s.cmp := rfl
@[simp] theorem setFrame_dram (s : State) (f : Nat) (u : FrameUse) : (s.setFrame f u).dram = s.dram := rfl
@[simp] theorem setFrame_flash (s : State) (f : Nat) (u : FrameUse) : (s.setFrame f u).flash = s.flash := rfl
@[simp] theorem setFrame_out (s : State) (f : Nat) (u : FrameUse) : (s.setFrame f u).out = s.out := rfl
@[simp] theorem setFrame_draws (s : State) (f : Nat) (u : FrameUse) : (s.setFrame f u).draws = s.draws := rfl

/- freeFrame -/
@[simp] theorem freeFrame_pending (s : State) (f : Nat) : (s.freeFrame f).pending = s.pending := rfl
@[simp] theorem freeFrame_boot (s : State) (f : Nat) : (s.freeFrame f).boot = s.boot := rfl
@[simp] theorem freeFrame_nv (s : State) (f : Nat) : (s.freeFrame f).nv = s.nv := rfl
@[simp] theorem freeFrame_params (s : State) (f : Nat) : (s.freeFrame f).params = s.params := rfl
@[simp] theorem freeFrame_cfgm (s : State) (f : Nat) : (s.freeFrame f).cfgm = s.cfgm := rfl
@[simp] theorem freeFrame_fw (s : State) (f : Nat) : (s.freeFrame f).fw = s.fw := rfl
@[simp] theorem freeFrame_power (s : State) (f : Nat) : (s.freeFrame f).power = s.power := rfl
@[simp] theorem freeFrame_link (s : State) (f : Nat) : (s.freeFrame f).link = s.link := rfl
@[simp] theorem freeFrame_pf (s : State) (f : Nat) : (s.freeFrame f).pf = s.pf := rfl
@[simp] theorem freeFrame_sparing (s : State) (f : Nat) : (s.freeFrame f).sparing = s.sparing := rfl
@[simp] theorem freeFrame_funcs (s : State) (f : Nat) : (s.freeFrame f).funcs = s.funcs := rfl
@[simp] theorem freeFrame_queues (s : State) (f : Nat) : (s.freeFrame f).queues = s.queues := rfl
@[simp] theorem freeFrame_cmds (s : State) (f : Nat) : (s.freeFrame f).cmds = s.cmds := rfl
@[simp] theorem freeFrame_ctxs (s : State) (f : Nat) : (s.freeFrame f).ctxs = s.ctxs := rfl
@[simp] theorem freeFrame_strms (s : State) (f : Nat) : (s.freeFrame f).strms = s.strms := rfl
@[simp] theorem freeFrame_images (s : State) (f : Nat) : (s.freeFrame f).images = s.images := rfl
@[simp] theorem freeFrame_steps (s : State) (f : Nat) : (s.freeFrame f).steps = s.steps := rfl
@[simp] theorem freeFrame_lcores (s : State) (f : Nat) : (s.freeFrame f).lcores = s.lcores := rfl
@[simp] theorem freeFrame_pcores (s : State) (f : Nat) : (s.freeFrame f).pcores = s.pcores := rfl
@[simp] theorem freeFrame_rope (s : State) (f : Nat) : (s.freeFrame f).rope = s.rope := rfl
@[simp] theorem freeFrame_coll (s : State) (f : Nat) : (s.freeFrame f).coll = s.coll := rfl
@[simp] theorem freeFrame_tier (s : State) (f : Nat) : (s.freeFrame f).tier = { s.tier with frames := s.tier.frames.erase f } := rfl
@[simp] theorem freeFrame_cmp (s : State) (f : Nat) : (s.freeFrame f).cmp = s.cmp := rfl
@[simp] theorem freeFrame_dram (s : State) (f : Nat) : (s.freeFrame f).dram = s.dram := rfl
@[simp] theorem freeFrame_flash (s : State) (f : Nat) : (s.freeFrame f).flash = s.flash := rfl
@[simp] theorem freeFrame_out (s : State) (f : Nat) : (s.freeFrame f).out = s.out := rfl
@[simp] theorem freeFrame_draws (s : State) (f : Nat) : (s.freeFrame f).draws = s.draws := rfl

/- signal -/
@[simp] theorem signal_pending (s : State) (o : Out) : (s.signal o).pending = s.pending := rfl
@[simp] theorem signal_boot (s : State) (o : Out) : (s.signal o).boot = s.boot := rfl
@[simp] theorem signal_nv (s : State) (o : Out) : (s.signal o).nv = s.nv := rfl
@[simp] theorem signal_params (s : State) (o : Out) : (s.signal o).params = s.params := rfl
@[simp] theorem signal_cfgm (s : State) (o : Out) : (s.signal o).cfgm = s.cfgm := rfl
@[simp] theorem signal_fw (s : State) (o : Out) : (s.signal o).fw = s.fw := rfl
@[simp] theorem signal_power (s : State) (o : Out) : (s.signal o).power = s.power := rfl
@[simp] theorem signal_link (s : State) (o : Out) : (s.signal o).link = s.link := rfl
@[simp] theorem signal_pf (s : State) (o : Out) : (s.signal o).pf = s.pf := rfl
@[simp] theorem signal_sparing (s : State) (o : Out) : (s.signal o).sparing = s.sparing := rfl
@[simp] theorem signal_funcs (s : State) (o : Out) : (s.signal o).funcs = s.funcs := rfl
@[simp] theorem signal_queues (s : State) (o : Out) : (s.signal o).queues = s.queues := rfl
@[simp] theorem signal_cmds (s : State) (o : Out) : (s.signal o).cmds = s.cmds := rfl
@[simp] theorem signal_ctxs (s : State) (o : Out) : (s.signal o).ctxs = s.ctxs := rfl
@[simp] theorem signal_strms (s : State) (o : Out) : (s.signal o).strms = s.strms := rfl
@[simp] theorem signal_images (s : State) (o : Out) : (s.signal o).images = s.images := rfl
@[simp] theorem signal_steps (s : State) (o : Out) : (s.signal o).steps = s.steps := rfl
@[simp] theorem signal_lcores (s : State) (o : Out) : (s.signal o).lcores = s.lcores := rfl
@[simp] theorem signal_pcores (s : State) (o : Out) : (s.signal o).pcores = s.pcores := rfl
@[simp] theorem signal_rope (s : State) (o : Out) : (s.signal o).rope = s.rope := rfl
@[simp] theorem signal_coll (s : State) (o : Out) : (s.signal o).coll = s.coll := rfl
@[simp] theorem signal_tier (s : State) (o : Out) : (s.signal o).tier = s.tier := rfl
@[simp] theorem signal_cmp (s : State) (o : Out) : (s.signal o).cmp = s.cmp := rfl
@[simp] theorem signal_dram (s : State) (o : Out) : (s.signal o).dram = s.dram := rfl
@[simp] theorem signal_flash (s : State) (o : Out) : (s.signal o).flash = s.flash := rfl
@[simp] theorem signal_out (s : State) (o : Out) : (s.signal o).out = s.out ++ [o] := rfl
@[simp] theorem signal_draws (s : State) (o : Out) : (s.signal o).draws = s.draws := rfl

/- dramEvent -/
@[simp] theorem dramEvent_pending (s : State) (b : Nat) : (s.dramEvent b).pending = s.pending := rfl
@[simp] theorem dramEvent_boot (s : State) (b : Nat) : (s.dramEvent b).boot = s.boot := rfl
@[simp] theorem dramEvent_nv (s : State) (b : Nat) : (s.dramEvent b).nv = s.nv := rfl
@[simp] theorem dramEvent_params (s : State) (b : Nat) : (s.dramEvent b).params = s.params := rfl
@[simp] theorem dramEvent_cfgm (s : State) (b : Nat) : (s.dramEvent b).cfgm = s.cfgm := rfl
@[simp] theorem dramEvent_fw (s : State) (b : Nat) : (s.dramEvent b).fw = s.fw := rfl
@[simp] theorem dramEvent_power (s : State) (b : Nat) : (s.dramEvent b).power = s.power := rfl
@[simp] theorem dramEvent_link (s : State) (b : Nat) : (s.dramEvent b).link = s.link := rfl
@[simp] theorem dramEvent_pf (s : State) (b : Nat) : (s.dramEvent b).pf = { s.pf with dramEv := s.pf.dramEv.raise b s.pf.arrivals } := rfl
@[simp] theorem dramEvent_sparing (s : State) (b : Nat) : (s.dramEvent b).sparing = s.sparing := rfl
@[simp] theorem dramEvent_funcs (s : State) (b : Nat) : (s.dramEvent b).funcs = s.funcs := rfl
@[simp] theorem dramEvent_queues (s : State) (b : Nat) : (s.dramEvent b).queues = s.queues := rfl
@[simp] theorem dramEvent_cmds (s : State) (b : Nat) : (s.dramEvent b).cmds = s.cmds := rfl
@[simp] theorem dramEvent_ctxs (s : State) (b : Nat) : (s.dramEvent b).ctxs = s.ctxs := rfl
@[simp] theorem dramEvent_strms (s : State) (b : Nat) : (s.dramEvent b).strms = s.strms := rfl
@[simp] theorem dramEvent_images (s : State) (b : Nat) : (s.dramEvent b).images = s.images := rfl
@[simp] theorem dramEvent_steps (s : State) (b : Nat) : (s.dramEvent b).steps = s.steps := rfl
@[simp] theorem dramEvent_lcores (s : State) (b : Nat) : (s.dramEvent b).lcores = s.lcores := rfl
@[simp] theorem dramEvent_pcores (s : State) (b : Nat) : (s.dramEvent b).pcores = s.pcores := rfl
@[simp] theorem dramEvent_rope (s : State) (b : Nat) : (s.dramEvent b).rope = s.rope := rfl
@[simp] theorem dramEvent_coll (s : State) (b : Nat) : (s.dramEvent b).coll = s.coll := rfl
@[simp] theorem dramEvent_tier (s : State) (b : Nat) : (s.dramEvent b).tier = s.tier := rfl
@[simp] theorem dramEvent_cmp (s : State) (b : Nat) : (s.dramEvent b).cmp = s.cmp := rfl
@[simp] theorem dramEvent_dram (s : State) (b : Nat) : (s.dramEvent b).dram = s.dram := rfl
@[simp] theorem dramEvent_flash (s : State) (b : Nat) : (s.dramEvent b).flash = s.flash := rfl
@[simp] theorem dramEvent_out (s : State) (b : Nat) : (s.dramEvent b).out = s.out := rfl
@[simp] theorem dramEvent_draws (s : State) (b : Nat) : (s.dramEvent b).draws = s.draws := rfl

/- flashEvent -/
@[simp] theorem flashEvent_pending (s : State) (b : Nat) : (s.flashEvent b).pending = s.pending := rfl
@[simp] theorem flashEvent_boot (s : State) (b : Nat) : (s.flashEvent b).boot = s.boot := rfl
@[simp] theorem flashEvent_nv (s : State) (b : Nat) : (s.flashEvent b).nv = s.nv := rfl
@[simp] theorem flashEvent_params (s : State) (b : Nat) : (s.flashEvent b).params = s.params := rfl
@[simp] theorem flashEvent_cfgm (s : State) (b : Nat) : (s.flashEvent b).cfgm = s.cfgm := rfl
@[simp] theorem flashEvent_fw (s : State) (b : Nat) : (s.flashEvent b).fw = s.fw := rfl
@[simp] theorem flashEvent_power (s : State) (b : Nat) : (s.flashEvent b).power = s.power := rfl
@[simp] theorem flashEvent_link (s : State) (b : Nat) : (s.flashEvent b).link = s.link := rfl
@[simp] theorem flashEvent_pf (s : State) (b : Nat) : (s.flashEvent b).pf = { s.pf with flEv := s.pf.flEv.raise b s.pf.arrivals } := rfl
@[simp] theorem flashEvent_sparing (s : State) (b : Nat) : (s.flashEvent b).sparing = s.sparing := rfl
@[simp] theorem flashEvent_funcs (s : State) (b : Nat) : (s.flashEvent b).funcs = s.funcs := rfl
@[simp] theorem flashEvent_queues (s : State) (b : Nat) : (s.flashEvent b).queues = s.queues := rfl
@[simp] theorem flashEvent_cmds (s : State) (b : Nat) : (s.flashEvent b).cmds = s.cmds := rfl
@[simp] theorem flashEvent_ctxs (s : State) (b : Nat) : (s.flashEvent b).ctxs = s.ctxs := rfl
@[simp] theorem flashEvent_strms (s : State) (b : Nat) : (s.flashEvent b).strms = s.strms := rfl
@[simp] theorem flashEvent_images (s : State) (b : Nat) : (s.flashEvent b).images = s.images := rfl
@[simp] theorem flashEvent_steps (s : State) (b : Nat) : (s.flashEvent b).steps = s.steps := rfl
@[simp] theorem flashEvent_lcores (s : State) (b : Nat) : (s.flashEvent b).lcores = s.lcores := rfl
@[simp] theorem flashEvent_pcores (s : State) (b : Nat) : (s.flashEvent b).pcores = s.pcores := rfl
@[simp] theorem flashEvent_rope (s : State) (b : Nat) : (s.flashEvent b).rope = s.rope := rfl
@[simp] theorem flashEvent_coll (s : State) (b : Nat) : (s.flashEvent b).coll = s.coll := rfl
@[simp] theorem flashEvent_tier (s : State) (b : Nat) : (s.flashEvent b).tier = s.tier := rfl
@[simp] theorem flashEvent_cmp (s : State) (b : Nat) : (s.flashEvent b).cmp = s.cmp := rfl
@[simp] theorem flashEvent_dram (s : State) (b : Nat) : (s.flashEvent b).dram = s.dram := rfl
@[simp] theorem flashEvent_flash (s : State) (b : Nat) : (s.flashEvent b).flash = s.flash := rfl
@[simp] theorem flashEvent_out (s : State) (b : Nat) : (s.flashEvent b).out = s.out := rfl
@[simp] theorem flashEvent_draws (s : State) (b : Nat) : (s.flashEvent b).draws = s.draws := rfl

/- cmpEvent -/
@[simp] theorem cmpEvent_pending (s : State) (b : Nat) : (s.cmpEvent b).pending = s.pending := rfl
@[simp] theorem cmpEvent_boot (s : State) (b : Nat) : (s.cmpEvent b).boot = s.boot := rfl
@[simp] theorem cmpEvent_nv (s : State) (b : Nat) : (s.cmpEvent b).nv = s.nv := rfl
@[simp] theorem cmpEvent_params (s : State) (b : Nat) : (s.cmpEvent b).params = s.params := rfl
@[simp] theorem cmpEvent_cfgm (s : State) (b : Nat) : (s.cmpEvent b).cfgm = s.cfgm := rfl
@[simp] theorem cmpEvent_fw (s : State) (b : Nat) : (s.cmpEvent b).fw = s.fw := rfl
@[simp] theorem cmpEvent_power (s : State) (b : Nat) : (s.cmpEvent b).power = s.power := rfl
@[simp] theorem cmpEvent_link (s : State) (b : Nat) : (s.cmpEvent b).link = s.link := rfl
@[simp] theorem cmpEvent_pf (s : State) (b : Nat) : (s.cmpEvent b).pf = { s.pf with cmpEv := s.pf.cmpEv.raise b s.pf.arrivals } := rfl
@[simp] theorem cmpEvent_sparing (s : State) (b : Nat) : (s.cmpEvent b).sparing = s.sparing := rfl
@[simp] theorem cmpEvent_funcs (s : State) (b : Nat) : (s.cmpEvent b).funcs = s.funcs := rfl
@[simp] theorem cmpEvent_queues (s : State) (b : Nat) : (s.cmpEvent b).queues = s.queues := rfl
@[simp] theorem cmpEvent_cmds (s : State) (b : Nat) : (s.cmpEvent b).cmds = s.cmds := rfl
@[simp] theorem cmpEvent_ctxs (s : State) (b : Nat) : (s.cmpEvent b).ctxs = s.ctxs := rfl
@[simp] theorem cmpEvent_strms (s : State) (b : Nat) : (s.cmpEvent b).strms = s.strms := rfl
@[simp] theorem cmpEvent_images (s : State) (b : Nat) : (s.cmpEvent b).images = s.images := rfl
@[simp] theorem cmpEvent_steps (s : State) (b : Nat) : (s.cmpEvent b).steps = s.steps := rfl
@[simp] theorem cmpEvent_lcores (s : State) (b : Nat) : (s.cmpEvent b).lcores = s.lcores := rfl
@[simp] theorem cmpEvent_pcores (s : State) (b : Nat) : (s.cmpEvent b).pcores = s.pcores := rfl
@[simp] theorem cmpEvent_rope (s : State) (b : Nat) : (s.cmpEvent b).rope = s.rope := rfl
@[simp] theorem cmpEvent_coll (s : State) (b : Nat) : (s.cmpEvent b).coll = s.coll := rfl
@[simp] theorem cmpEvent_tier (s : State) (b : Nat) : (s.cmpEvent b).tier = s.tier := rfl
@[simp] theorem cmpEvent_cmp (s : State) (b : Nat) : (s.cmpEvent b).cmp = s.cmp := rfl
@[simp] theorem cmpEvent_dram (s : State) (b : Nat) : (s.cmpEvent b).dram = s.dram := rfl
@[simp] theorem cmpEvent_flash (s : State) (b : Nat) : (s.cmpEvent b).flash = s.flash := rfl
@[simp] theorem cmpEvent_out (s : State) (b : Nat) : (s.cmpEvent b).out = s.out := rfl
@[simp] theorem cmpEvent_draws (s : State) (b : Nat) : (s.cmpEvent b).draws = s.draws := rfl

/- fwEvent -/
@[simp] theorem fwEvent_pending (s : State) (b : Nat) : (s.fwEvent b).pending = s.pending := rfl
@[simp] theorem fwEvent_boot (s : State) (b : Nat) : (s.fwEvent b).boot = s.boot := rfl
@[simp] theorem fwEvent_nv (s : State) (b : Nat) : (s.fwEvent b).nv = s.nv := rfl
@[simp] theorem fwEvent_params (s : State) (b : Nat) : (s.fwEvent b).params = s.params := rfl
@[simp] theorem fwEvent_cfgm (s : State) (b : Nat) : (s.fwEvent b).cfgm = s.cfgm := rfl
@[simp] theorem fwEvent_fw (s : State) (b : Nat) : (s.fwEvent b).fw = s.fw := rfl
@[simp] theorem fwEvent_power (s : State) (b : Nat) : (s.fwEvent b).power = s.power := rfl
@[simp] theorem fwEvent_link (s : State) (b : Nat) : (s.fwEvent b).link = s.link := rfl
@[simp] theorem fwEvent_pf (s : State) (b : Nat) : (s.fwEvent b).pf = { s.pf with fwEv := s.pf.fwEv.raise b s.pf.arrivals } := rfl
@[simp] theorem fwEvent_sparing (s : State) (b : Nat) : (s.fwEvent b).sparing = s.sparing := rfl
@[simp] theorem fwEvent_funcs (s : State) (b : Nat) : (s.fwEvent b).funcs = s.funcs := rfl
@[simp] theorem fwEvent_queues (s : State) (b : Nat) : (s.fwEvent b).queues = s.queues := rfl
@[simp] theorem fwEvent_cmds (s : State) (b : Nat) : (s.fwEvent b).cmds = s.cmds := rfl
@[simp] theorem fwEvent_ctxs (s : State) (b : Nat) : (s.fwEvent b).ctxs = s.ctxs := rfl
@[simp] theorem fwEvent_strms (s : State) (b : Nat) : (s.fwEvent b).strms = s.strms := rfl
@[simp] theorem fwEvent_images (s : State) (b : Nat) : (s.fwEvent b).images = s.images := rfl
@[simp] theorem fwEvent_steps (s : State) (b : Nat) : (s.fwEvent b).steps = s.steps := rfl
@[simp] theorem fwEvent_lcores (s : State) (b : Nat) : (s.fwEvent b).lcores = s.lcores := rfl
@[simp] theorem fwEvent_pcores (s : State) (b : Nat) : (s.fwEvent b).pcores = s.pcores := rfl
@[simp] theorem fwEvent_rope (s : State) (b : Nat) : (s.fwEvent b).rope = s.rope := rfl
@[simp] theorem fwEvent_coll (s : State) (b : Nat) : (s.fwEvent b).coll = s.coll := rfl
@[simp] theorem fwEvent_tier (s : State) (b : Nat) : (s.fwEvent b).tier = s.tier := rfl
@[simp] theorem fwEvent_cmp (s : State) (b : Nat) : (s.fwEvent b).cmp = s.cmp := rfl
@[simp] theorem fwEvent_dram (s : State) (b : Nat) : (s.fwEvent b).dram = s.dram := rfl
@[simp] theorem fwEvent_flash (s : State) (b : Nat) : (s.fwEvent b).flash = s.flash := rfl
@[simp] theorem fwEvent_out (s : State) (b : Nat) : (s.fwEvent b).out = s.out := rfl
@[simp] theorem fwEvent_draws (s : State) (b : Nat) : (s.fwEvent b).draws = s.draws := rfl

/- pwrEvent -/
@[simp] theorem pwrEvent_pending (s : State) (b : Nat) : (s.pwrEvent b).pending = s.pending := rfl
@[simp] theorem pwrEvent_boot (s : State) (b : Nat) : (s.pwrEvent b).boot = s.boot := rfl
@[simp] theorem pwrEvent_nv (s : State) (b : Nat) : (s.pwrEvent b).nv = s.nv := rfl
@[simp] theorem pwrEvent_params (s : State) (b : Nat) : (s.pwrEvent b).params = s.params := rfl
@[simp] theorem pwrEvent_cfgm (s : State) (b : Nat) : (s.pwrEvent b).cfgm = s.cfgm := rfl
@[simp] theorem pwrEvent_fw (s : State) (b : Nat) : (s.pwrEvent b).fw = s.fw := rfl
@[simp] theorem pwrEvent_power (s : State) (b : Nat) : (s.pwrEvent b).power = s.power := rfl
@[simp] theorem pwrEvent_link (s : State) (b : Nat) : (s.pwrEvent b).link = s.link := rfl
@[simp] theorem pwrEvent_pf (s : State) (b : Nat) : (s.pwrEvent b).pf = { s.pf with pwrEv := s.pf.pwrEv.raise b s.pf.arrivals } := rfl
@[simp] theorem pwrEvent_sparing (s : State) (b : Nat) : (s.pwrEvent b).sparing = s.sparing := rfl
@[simp] theorem pwrEvent_funcs (s : State) (b : Nat) : (s.pwrEvent b).funcs = s.funcs := rfl
@[simp] theorem pwrEvent_queues (s : State) (b : Nat) : (s.pwrEvent b).queues = s.queues := rfl
@[simp] theorem pwrEvent_cmds (s : State) (b : Nat) : (s.pwrEvent b).cmds = s.cmds := rfl
@[simp] theorem pwrEvent_ctxs (s : State) (b : Nat) : (s.pwrEvent b).ctxs = s.ctxs := rfl
@[simp] theorem pwrEvent_strms (s : State) (b : Nat) : (s.pwrEvent b).strms = s.strms := rfl
@[simp] theorem pwrEvent_images (s : State) (b : Nat) : (s.pwrEvent b).images = s.images := rfl
@[simp] theorem pwrEvent_steps (s : State) (b : Nat) : (s.pwrEvent b).steps = s.steps := rfl
@[simp] theorem pwrEvent_lcores (s : State) (b : Nat) : (s.pwrEvent b).lcores = s.lcores := rfl
@[simp] theorem pwrEvent_pcores (s : State) (b : Nat) : (s.pwrEvent b).pcores = s.pcores := rfl
@[simp] theorem pwrEvent_rope (s : State) (b : Nat) : (s.pwrEvent b).rope = s.rope := rfl
@[simp] theorem pwrEvent_coll (s : State) (b : Nat) : (s.pwrEvent b).coll = s.coll := rfl
@[simp] theorem pwrEvent_tier (s : State) (b : Nat) : (s.pwrEvent b).tier = s.tier := rfl
@[simp] theorem pwrEvent_cmp (s : State) (b : Nat) : (s.pwrEvent b).cmp = s.cmp := rfl
@[simp] theorem pwrEvent_dram (s : State) (b : Nat) : (s.pwrEvent b).dram = s.dram := rfl
@[simp] theorem pwrEvent_flash (s : State) (b : Nat) : (s.pwrEvent b).flash = s.flash := rfl
@[simp] theorem pwrEvent_out (s : State) (b : Nat) : (s.pwrEvent b).out = s.out := rfl
@[simp] theorem pwrEvent_draws (s : State) (b : Nat) : (s.pwrEvent b).draws = s.draws := rfl

/- uciEvent -/
@[simp] theorem uciEvent_pending (s : State) (b : Nat) : (s.uciEvent b).pending = s.pending := rfl
@[simp] theorem uciEvent_boot (s : State) (b : Nat) : (s.uciEvent b).boot = s.boot := rfl
@[simp] theorem uciEvent_nv (s : State) (b : Nat) : (s.uciEvent b).nv = s.nv := rfl
@[simp] theorem uciEvent_params (s : State) (b : Nat) : (s.uciEvent b).params = s.params := rfl
@[simp] theorem uciEvent_cfgm (s : State) (b : Nat) : (s.uciEvent b).cfgm = s.cfgm := rfl
@[simp] theorem uciEvent_fw (s : State) (b : Nat) : (s.uciEvent b).fw = s.fw := rfl
@[simp] theorem uciEvent_power (s : State) (b : Nat) : (s.uciEvent b).power = s.power := rfl
@[simp] theorem uciEvent_link (s : State) (b : Nat) : (s.uciEvent b).link = s.link := rfl
@[simp] theorem uciEvent_pf (s : State) (b : Nat) : (s.uciEvent b).pf = { s.pf with uciEv := s.pf.uciEv.raise b s.pf.arrivals } := rfl
@[simp] theorem uciEvent_sparing (s : State) (b : Nat) : (s.uciEvent b).sparing = s.sparing := rfl
@[simp] theorem uciEvent_funcs (s : State) (b : Nat) : (s.uciEvent b).funcs = s.funcs := rfl
@[simp] theorem uciEvent_queues (s : State) (b : Nat) : (s.uciEvent b).queues = s.queues := rfl
@[simp] theorem uciEvent_cmds (s : State) (b : Nat) : (s.uciEvent b).cmds = s.cmds := rfl
@[simp] theorem uciEvent_ctxs (s : State) (b : Nat) : (s.uciEvent b).ctxs = s.ctxs := rfl
@[simp] theorem uciEvent_strms (s : State) (b : Nat) : (s.uciEvent b).strms = s.strms := rfl
@[simp] theorem uciEvent_images (s : State) (b : Nat) : (s.uciEvent b).images = s.images := rfl
@[simp] theorem uciEvent_steps (s : State) (b : Nat) : (s.uciEvent b).steps = s.steps := rfl
@[simp] theorem uciEvent_lcores (s : State) (b : Nat) : (s.uciEvent b).lcores = s.lcores := rfl
@[simp] theorem uciEvent_pcores (s : State) (b : Nat) : (s.uciEvent b).pcores = s.pcores := rfl
@[simp] theorem uciEvent_rope (s : State) (b : Nat) : (s.uciEvent b).rope = s.rope := rfl
@[simp] theorem uciEvent_coll (s : State) (b : Nat) : (s.uciEvent b).coll = s.coll := rfl
@[simp] theorem uciEvent_tier (s : State) (b : Nat) : (s.uciEvent b).tier = s.tier := rfl
@[simp] theorem uciEvent_cmp (s : State) (b : Nat) : (s.uciEvent b).cmp = s.cmp := rfl
@[simp] theorem uciEvent_dram (s : State) (b : Nat) : (s.uciEvent b).dram = s.dram := rfl
@[simp] theorem uciEvent_flash (s : State) (b : Nat) : (s.uciEvent b).flash = s.flash := rfl
@[simp] theorem uciEvent_out (s : State) (b : Nat) : (s.uciEvent b).out = s.out := rfl
@[simp] theorem uciEvent_draws (s : State) (b : Nat) : (s.uciEvent b).draws = s.draws := rfl

end Sys2Proof.Machine.State
end

