-- ==== Sys2Proof/Laws/Ops.lean ====
section
/-!
SUPPORT. Laws/Ops.lean: what the shared operations can change: sends, messages, log entries, window accesses of commands, replay records, and
completions, which take the command out of the fetch order and change nothing but functions, queues, contexts, firmware queues and what is sent.
-/
namespace Sys2Proof.Machine

/-- The parts that sending, logging and recording can change. -/
def State.postOf (s r : State) : State := 
  { s with funcs := r.funcs, queues := r.queues, ctxs := r.ctxs, fw := { s.fw with logQ := r.fw.logQ }, out := r.out }

/-- A context without what sending, logging and recording can change of it. -/
def Ctx.masked (x : Ctx) : Ctx :=
  { x with viol := 0, sec := { x.sec with t2h := none, t2hGen := 0, t2hCnt := 0, events := [] }, replay := Replay.idle }

/-- A state differs from another in those parts alone, has the same contexts but for their violation counter, keys and capture, and the same queue
pairs by number and context. -/
structure State.Posts (s t : State) : Prop where
  parts : t = s.postOf t
  ctxs : t.ctxs.map (fun p => (p.1, p.2.masked)) = s.ctxs.map (fun p => (p.1, p.2.masked))
  queues : t.queues.map (fun p => (p.1, p.2.ctx)) = s.queues.map (fun p => (p.1, p.2.ctx))

namespace State

theorem Posts.refl (s : State) : s.Posts s := ⟨by cases s; rfl, rfl, rfl⟩

theorem Posts.trans {s t u : State} (h : s.Posts t) (k : t.Posts u) : s.Posts u := by
  refine ⟨?_, k.ctxs.trans h.ctxs, k.queues.trans h.queues⟩
  rw [k.parts, h.parts]
  rfl

theorem Posts.eq {s t : State} (h : s.Posts t) : t = s.postOf t := h.parts

/-- The contexts that exist stay the same. -/
theorem Posts.ctx_none {s t : State} (h : s.Posts t) (n : Nat) : t.ctx n = none ↔ s.ctx n = none := by
  have hk : t.ctxs.keys = s.ctxs.keys := by
    have := congrArg (List.map Prod.fst) h.ctxs
    simpa [AList.keys, List.map_map, Function.comp_def] using this
  show t.ctxs.get? n = none ↔ s.ctxs.get? n = none
  rw [AList.get?_eq_none, AList.get?_eq_none, hk]

/-- A context keeps everything that a completion cannot change. -/
theorem Posts.ctx_masked {s t : State} (h : s.Posts t) (n : Nat) : (t.ctx n).map Ctx.masked = (s.ctx n).map Ctx.masked := by
  have hm := congrArg (fun l => AList.get? l n) h.ctxs
  simpa [AList.get?_map, State.ctx] using hm

/-- A context that no queue pair belongs to gets none. -/
theorem Posts.queue_ctx {s t : State} (h : s.Posts t) (n : Nat) (hq : ∀ q ∈ s.queues, q.2.ctx ≠ n) : ∀ q ∈ t.queues, q.2.ctx ≠ n := by
  intro q hm
  have hi : (q.1, q.2.ctx) ∈ t.queues.map (fun p => (p.1, p.2.ctx)) := List.mem_map_of_mem hm
  rw [h.queues] at hi
  obtain ⟨r, hr, he⟩ := List.mem_map.mp hi
  have hc : r.2.ctx = q.2.ctx := congrArg Prod.snd he
  exact hc ▸ hq r hr

theorem Posts.foldl {α : Type} (f : State → α → State) (h : ∀ (s : State) (a : α), s.Posts (f s a)) (l : List α) (s : State) : s.Posts (l.foldl f s) := by
  induction l generalizing s with
  | nil => exact Posts.refl s
  | cons a l ih => exact (h s a).trans (ih _)

theorem posts_modFunc (s : State) (n : Nat) (f : Func → Func) : s.Posts (s.modFunc n f) := ⟨rfl, rfl, rfl⟩
theorem posts_modCtx (s : State) (n : Nat) (f : Ctx → Ctx) (h : ∀ x, (f x).masked = x.masked) : s.Posts (s.modCtx n f) :=
  ⟨rfl, AList.map_upd _ _ _ _ (fun k v => by simp [h v]), rfl⟩
theorem posts_fw (s : State) (q : List LogItem) : s.Posts { s with fw := { s.fw with logQ := q } } := ⟨rfl, rfl, rfl⟩
theorem posts_out (s : State) (o : List Out) : s.Posts { s with out := o } := ⟨rfl, rfl, rfl⟩

theorem posts_queue (s : State) (n : Nat) (f : Queue → Queue) (h : ∀ q, (f q).ctx = q.ctx) :
    s.Posts { s with queues := s.queues.upd n f } := ⟨rfl, rfl, AList.map_upd _ _ _ _ (fun k v => by simp [h v])⟩

theorem posts_send (s : State) (o : Out) : s.Posts (s.send o) := by
  unfold State.send
  split
  · exact posts_out _ _
  · exact Posts.refl s

theorem posts_hostWrite (s : State) (f : Nat) (p : Option Nat) (a : Nat) (d : Bytes) : s.Posts (s.hostWrite f p a d) :=
  Posts.foldl _ (fun _ _ => posts_send _ _) _ _

theorem posts_msix (s : State) (f v : Nat) : s.Posts (s.msix f v) := by
  unfold State.msix
  simp only
  split
  · exact posts_modFunc _ _ _
  · exact posts_send _ _

theorem posts_logTo (s : State) (f : Nat) (r : LogRec) : s.Posts (s.logTo f r) := by
  unfold State.logTo
  simp only
  split <;> exact ⟨rfl, rfl, rfl⟩

theorem posts_logBoth (s : State) (f : Nat) (r : LogRec) : s.Posts (s.logBoth f r) := by
  unfold State.logBoth
  simp only
  split
  · exact posts_logTo _ _ _
  · exact (posts_logTo _ _ _).trans (posts_logTo _ _ _)

theorem posts_deliverLog (s : State) (i : LogItem) : s.Posts (s.deliverLog i) := by
  unfold State.deliverLog
  split
  · exact posts_hostWrite _ _ _ _ _
  · exact Posts.refl s

theorem posts_flushLog (s : State) (f : Nat) : s.Posts (s.flushLog f) := by
  unfold State.flushLog
  simp only
  have h := Posts.foldl State.deliverLog (fun _ _ => posts_deliverLog _ _) (s.fw.logQ.filter (fun i => i.func == f)) s
  exact h.trans (posts_fw _ _)

theorem posts_countViol (s : State) (c n : Nat) : s.Posts (s.countViol c n) := posts_modCtx _ _ _ (by intro _; rfl)

theorem posts_logViol (s : State) (c : Nat) (site : Site) (k w a : Nat) : s.Posts (s.logViol c site k w a) := by
  unfold State.logViol
  split
  · exact Posts.refl s
  · exact posts_logBoth _ _ _

theorem posts_secEvent (s : State) (n b : Nat) : s.Posts (s.secEvent n b) := posts_modCtx _ _ _ (by intro _; rfl)

theorem posts_nextSeal {s t : State} {ctx g c : Nat} (h : s.nextSeal ctx = some (g, c, t)) : s.Posts t := by
  unfold State.nextSeal at h
  split at h
  · simp at h
  · split at h
    · simp only [Option.some.injEq, Prod.mk.injEq] at h
      obtain ⟨-, -, rfl⟩ := h
      exact posts_modCtx _ _ _ (by intro _; rfl)
    · split at h
      · simp at h
      · simp only [Option.some.injEq, Prod.mk.injEq] at h
        obtain ⟨-, -, rfl⟩ := h
        exact (posts_modCtx _ _ _ (by intro _; rfl)).trans (posts_secEvent _ _ _)

theorem posts_sealUnit {s t : State} {ctx win u : Nat} {w : Window} {q : Option Nat} {p : Bytes}
    (h : s.sealUnit ctx win u w q p = some t) : s.Posts t := by
  unfold State.sealUnit at h
  split at h
  · simp at h
  · rename_i hs
    split at h
    · cases h; exact posts_nextSeal hs
    · cases h; exact (posts_nextSeal hs).trans (posts_hostWrite _ _ _ _ _)

theorem posts_plainWrite (s : State) (ctx win off : Nat) (d : Bytes) : s.Posts (s.plainWrite ctx win off d).s := by
  unfold State.plainWrite
  split
  · exact Posts.refl s
  · simp only
    split
    · split
      · exact Posts.refl s
      · exact posts_hostWrite _ _ _ _ _
    · exact Posts.refl s

theorem posts_bounceWrite (s : State) (ctx win off : Nat) (q : Option Nat) (d : Bytes) : s.Posts (s.bounceWrite ctx win off q d).s := by
  unfold State.bounceWrite
  split
  · exact Posts.refl s
  · simp only
    split
    · exact Posts.refl s
    · split
      · exact Posts.refl s
      · simp only
        generalize List.filter _ _ = l
        suffices h : ∀ (acc : State × Bool), s.Posts acc.1 → s.Posts (l.foldl _ acc).1 from h (s, false) (Posts.refl s)
        induction l with
        | nil => exact fun acc h => h
        | cons i l ih =>
          intro acc h
          refine ih _ ?_
          dsimp only
          split
          · exact h
          · split
            · rename_i hs; exact h.trans (posts_sealUnit hs)
            · exact h.trans (posts_secEvent _ _ _)

theorem posts_winWrite (s : State) (ctx win off : Nat) (q : Option Nat) (d : Bytes) : s.Posts (s.winWrite ctx win off q d).s := by
  unfold State.winWrite
  split
  · exact posts_bounceWrite _ _ _ _ _ _
  · exact posts_plainWrite _ _ _ _ _

theorem posts_replayPut (s : State) (ctx : Nat) (b : Bytes) : s.Posts (s.replayPut ctx b) := by
  unfold State.replayPut
  split
  · exact Posts.refl s
  · simp only
    exact ((posts_winWrite _ _ _ _ _ _).trans (posts_countViol _ _ _)).trans (posts_modCtx _ _ _ (by intro _; rfl))

theorem posts_replayEnd (s : State) (ctx r : Nat) : s.Posts (s.replayEnd ctx r) := by
  unfold State.replayEnd
  split
  · exact Posts.refl s
  · split
    · exact Posts.refl s
    · simp only
      refine (Posts.trans ?_ (posts_modCtx _ _ _ (by intro _; rfl))).trans (posts_logTo _ _ _)
      split
      · split
        · exact Posts.refl s
        · exact posts_replayPut _ _ _
      · split
        · exact Posts.refl s
        · exact posts_replayPut _ _ _

theorem posts_replayRec (s : State) (ctx t q z : Nat) (f p : Bytes) : s.Posts (s.replayRec ctx t q z f p) := by
  unfold State.replayRec
  split
  · exact Posts.refl s
  · split
    · exact Posts.refl s
    · simp only
      split <;> split <;> first | exact posts_replayEnd _ _ _ | exact posts_replayPut _ _ _

theorem posts_recordCmd (s : State) (c : Cmd) (x : Bytes) : s.Posts (s.recordCmd c x) := by
  unfold State.recordCmd
  split
  · exact posts_replayRec _ _ _ _ _ _ _
  · exact Posts.refl s

theorem posts_recordRun (l : List Nat) (s : State) : s.Posts (s.recordRun l).1 := by
  induction l generalizing s with
  | nil => exact Posts.refl s
  | cons f l ih =>
    unfold State.recordRun
    split
    · exact ih s
    · split
      · exact Posts.refl s
      · exact (posts_recordCmd _ _ _).trans (ih _)

theorem posts_recordWaiting (s : State) (c : Cmd) (x : Bytes) : s.Posts (s.recordWaiting c x) := by
  unfold State.recordWaiting
  split
  · exact Posts.refl s
  · split
    · exact Posts.refl s
    · exact ((posts_recordCmd _ _ _).trans (posts_recordRun _ _)).trans (posts_modCtx _ _ _ (by intro _; rfl))

theorem posts_writeCpl (s : State) (q : QRef) (r : CplRing) (h : HeldCpl) : s.Posts (s.writeCpl q r h) := by
  unfold State.writeCpl
  simp only
  have hw := posts_hostWrite s r.func r.pasid (r.base + 64 * r.tail) (cplBytes h.cid r.sqHead r.qid r.phase r.adminQ h.status.toNat h.result)
  have hu : ∀ t : State, s.Posts t → s.Posts (if h.irq = true then t.msix r.func r.vector else t) := by
    intro t ht
    split
    · exact ht.trans (posts_msix _ _ _)
    · exact ht
  apply hu
  cases q with
  | admin f => exact hw.trans (posts_modFunc _ _ _)
  | pair n => exact hw.trans (posts_queue _ _ _ (fun _ => rfl))

theorem posts_postCpl (s : State) (q : QRef) (h : HeldCpl) : s.Posts (s.postCpl q h) := by
  unfold State.postCpl
  split
  · exact Posts.refl s
  · split
    · exact posts_writeCpl _ _ _ _
    · cases q with
      | admin f => exact posts_modFunc _ _ _
      | pair n => exact posts_queue _ _ _ (fun _ => rfl)

theorem posts_settleAdmin (s : State) (q : QRef) : s.Posts (s.settleAdmin q) := by
  unfold State.settleAdmin
  cases q with
  | admin f =>
    simp only
    split
    · exact posts_modFunc _ _ _
    · exact Posts.refl s
  | pair n => exact Posts.refl s

/-- What stands of the fetched commands once one has completed. -/
def unlisted (s : State) (fid : Nat) : State := { s with cmds := { s.cmds with list := s.cmds.list.filter (fun x => x.fid != fid) } }

theorem Posts.unlisted {s t : State} (h : s.Posts t) (fid : Nat) : (s.unlisted fid).Posts (t.unlisted fid) := by
  refine ⟨?_, h.ctxs, h.queues⟩
  rw [h.parts]
  rfl

/-- A completion takes the command out of the fetched ones, and besides that changes only functions, queues, contexts, firmware queues and
what the tile has sent. -/
theorem complete_posts {s : State} {fid : Nat} {c : Cmd} (h : s.cmds.find fid = some c) (st : Nat) (r : Bytes) :
    (s.unlisted fid).Posts (s.complete fid st r) := by
  unfold State.complete
  rw [h]
  simp only
  refine (Posts.trans ?_ (posts_postCpl _ _ _)).trans (posts_settleAdmin _ _)
  have h1 := ((posts_flushLog s c.func).trans (posts_recordWaiting _ c [])).unlisted fid
  split
  · split
    · exact h1.trans (posts_replayRec _ _ _ _ _ _ _)
    · exact h1
  · exact h1

/-- Completing an event that names no fetched command changes nothing. -/
theorem complete_none {s : State} {fid : Nat} (h : s.cmds.find fid = none) (st : Nat) (r : Bytes) : s.complete fid st r = s := by
  unfold State.complete
  rw [h]

theorem complete_cmds {s : State} {fid : Nat} {c : Cmd} (h : s.cmds.find fid = some c) (st : Nat) (r : Bytes) :
    (s.complete fid st r).cmds.list = s.cmds.list.filter (fun x => x.fid != fid) := by
  rw [(complete_posts h st r).parts]; rfl

/-- A completion changes no more than the parts that a completion can change. -/
theorem cplOf_complete (s : State) (fid st : Nat) (r : Bytes) : s.cplOf (s.complete fid st r) = s.complete fid st r := by
  cases h : s.cmds.find fid with
  | none => rw [complete_none h]; cases s; rfl
  | some c => rw [(complete_posts h st r).parts]; rfl

theorem cplOf_of_posts {s t : State} (h : s.Posts t) : s.cplOf t = t := by rw [h.parts]; rfl

theorem cplOf_cplOf (s t u : State) : (s.cplOf t).cplOf u = s.cplOf u := rfl

end State

/- Commands that stand ready for their row. -/

theorem State.CmdReady.runOp {s : State} {fid op own : Nat} {c : Cmd} (h : s.CmdReady fid op own c) (e : State → Cmd → State) :
    s.runOp fid op own e = e s c := by
  simp [State.runOp, State.runCmd, h.found, h.runs, h.opcode, h.queue, h.fetched, h.permits, h.passes, h.free]

theorem State.CmdReady.runRead {s : State} {fid op own : Nat} {c : Cmd} (h : s.CmdReady fid op own c)
    (hf : 0 < s.freeTags) (e : State → Cmd → State) : s.runRead fid op own e = e s c := by
  simp [State.runRead, State.runCmd, h.found, h.runs, h.opcode, h.queue, h.fetched, h.permits, h.passes, h.free, Nat.pos_iff_ne_zero.mp hf]

theorem State.CmdReady.fid_eq {s : State} {fid op own : Nat} {c : Cmd} (h : s.CmdReady fid op own c) : c.fid = fid := by
  have := List.find?_some h.found
  simpa using this

end Sys2Proof.Machine
end

