-- ==== Sys2Proof/Laws/Release.lean ====
section
/-!
SUPPORT. Laws/Release.lean: what releasing the resources of a context cannot change: the life of the tile, its parameters, its configuration, the PF's
registers, power, the spare core, and the contexts that exist; and that a removed context is gone with its queue pairs.
-/
namespace Sys2Proof.Machine

/-- The parts that no release of resources touches. -/
structure State.Spared (s t : State) : Prop where
  boot : t.boot = s.boot
  params : t.params = s.params
  pf : t.pf = s.pf
  power : t.power = s.power
  sparing : t.sparing = s.sparing
  cfgm : t.cfgm = s.cfgm
  pending : t.pending = s.pending
  flashCells : t.flash.cells = s.flash.cells

namespace State

theorem Spared.refl (s : State) : s.Spared s := ⟨rfl, rfl, rfl, rfl, rfl, rfl, rfl, rfl⟩

theorem Spared.trans {s t u : State} (h : s.Spared t) (k : t.Spared u) : s.Spared u :=
  ⟨k.boot.trans h.boot, k.params.trans h.params, k.pf.trans h.pf, k.power.trans h.power, k.sparing.trans h.sparing, k.cfgm.trans h.cfgm,
    k.pending.trans h.pending, k.flashCells.trans h.flashCells⟩

theorem Posts.spared {s t : State} (h : s.Posts t) : s.Spared t := by
  rw [h.parts]
  exact ⟨rfl, rfl, rfl, rfl, rfl, rfl, rfl, rfl⟩

theorem Spared.foldl {α : Type} (f : State → α → State) (h : ∀ (s : State) (a : α), s.Spared (f s a)) (l : List α) (s : State) :
    s.Spared (l.foldl f s) := by
  induction l generalizing s with
  | nil => exact Spared.refl s
  | cons a l ih => exact (h s a).trans (ih _)

theorem spared_modCtx (s : State) (n : Nat) (f : Ctx → Ctx) : s.Spared (s.modCtx n f) := ⟨rfl, rfl, rfl, rfl, rfl, rfl, rfl, rfl⟩

theorem spared_releaseFrame (s : State) (f : Nat) : s.Spared (s.releaseFrame f) := ⟨rfl, rfl, rfl, rfl, rfl, rfl, rfl, rfl⟩

theorem spared_movePlaces (s : State) (ctx : Nat) (moves : List (Nat × Nat)) : s.Spared (s.movePlaces ctx moves) :=
  ⟨rfl, rfl, rfl, rfl, rfl, rfl, rfl, rfl⟩

theorem spared_giveBack (s : State) (ctx f : Nat) : s.Spared (s.giveBack ctx f) :=
  (spared_movePlaces s ctx _).trans (spared_releaseFrame _ f)

theorem spared_setFrame (s : State) (f : Nat) (u : FrameUse) : s.Spared (s.setFrame f u) := ⟨rfl, rfl, rfl, rfl, rfl, rfl, rfl, rfl⟩

theorem spared_settleGens (s : State) : s.Spared s.settleGens := ⟨rfl, rfl, rfl, rfl, rfl, rfl, rfl, rfl⟩

theorem spared_releaseGens (s : State) (l : List Nat) : s.Spared (s.releaseGens l) := ⟨rfl, rfl, rfl, rfl, rfl, rfl, rfl, rfl⟩

theorem spared_scrubRows (s : State) (c a n : Nat) : s.Spared (s.scrubRows c a n) := by
  unfold State.scrubRows State.modScratch
  split
  · exact ⟨rfl, rfl, rfl, rfl, rfl, rfl, rfl, rfl⟩
  · exact Spared.refl s

/-- The frames that a growing charge takes. -/
theorem spared_growCharge (ctx : Nat) (l : List Nat) (s t : State)
    (h : l.foldl (fun (acc : Option State) _ => acc.bind (fun u => match u.findFrame ctx false with
      | .ok f => some (u.setFrame f (.charged ctx))
      | _ => none)) (some s) = some t) : s.Spared t := by
  induction l generalizing s with
  | nil => cases h; exact Spared.refl _
  | cons a l ih =>
    simp only [List.foldl_cons, Option.bind_some] at h
    split at h
    · exact (spared_setFrame _ _ _).trans (ih _ h)
    · have hn : ∀ m : List Nat, m.foldl (fun (acc : Option State) _ => acc.bind (fun u => match u.findFrame ctx false with
          | .ok f => some (u.setFrame f (.charged ctx))
          | _ => none)) none = none := by
        intro m
        induction m with
        | nil => rfl
        | cons a m im => simpa using im
      rw [hn] at h
      cases h

theorem spared_setCharge {s t : State} {ctx key n : Nat} (h : s.setCharge ctx key n = some t) : s.Spared t := by
  unfold State.setCharge at h
  dsimp only at h
  obtain ⟨u, hu, rfl⟩ := Option.map_eq_some_iff.mp h
  exact ((spared_modCtx s ctx _).trans (spared_growCharge ctx _ _ _ hu)).trans (Spared.foldl _ (fun v f => spared_giveBack v ctx f) _ _)

theorem spared_dropCharge (s : State) (ctx key : Nat) : s.Spared (s.dropCharge ctx key) := by
  unfold State.dropCharge State.lowerCharge
  cases h : s.setCharge ctx key 0 with
  | none => exact Spared.refl s
  | some t => exact spared_setCharge h

theorem spared_dropResidents (s : State) (ctx : Nat) (l : List Nat) : s.Spared (s.dropResidents ctx l) := by
  refine Spared.foldl _ (fun t k => ?_) l s
  split
  · exact Spared.refl t
  · exact (spared_scrubRows _ _ _ _).trans (spared_modCtx _ _ _)

theorem spared_unloadImage (s : State) (slot : Nat) : s.Spared (s.unloadImage slot) := by
  unfold State.unloadImage
  split
  · exact Spared.refl s
  · dsimp only
    refine Spared.trans ?_ (spared_releaseGens _ _)
    refine Spared.trans ?_ (spared_dropCharge _ _ _)
    refine Spared.trans ?_ (spared_modCtx _ _ _)
    refine Spared.trans ?_ (spared_dropResidents _ _ _)
    exact ⟨rfl, rfl, rfl, rfl, rfl, rfl, rfl, rfl⟩

theorem setMaps_cells (l : List (Nat × Nat)) (f : Flash) : (l.foldl (fun (h : Flash) p => h.setMap p.1 none) f).cells = f.cells := by
  induction l generalizing f with
  | nil => rfl
  | cons a l ih => exact ih (f.setMap a.1 none)

/-- Unmapping pages leaves the cells as they are (R318). -/
theorem unmap_cells (f : Flash) (l : List Nat) : (f.unmap l).cells = f.cells := setMaps_cells _ _

theorem spared_releaseTier (s : State) (ctx : Nat) (keep : Bool) : s.Spared (s.releaseTier ctx keep) := by
  unfold State.releaseTier
  dsimp only
  refine Spared.trans ?_ (spared_dropCharge _ _ _)
  refine Spared.trans ?_ (spared_modCtx _ _ _)
  refine ⟨rfl, rfl, rfl, rfl, rfl, rfl, rfl, ?_⟩
  dsimp only
  split
  · rfl
  · exact unmap_cells _ _

theorem spared_teardown (s : State) (ctx : Nat) (keep : Bool) : s.Spared (s.teardown ctx keep) := by
  unfold State.teardown
  dsimp only
  refine Spared.trans ?_ (spared_settleGens _)
  refine Spared.trans ?_ (spared_releaseTier _ _ _)
  refine Spared.trans (t := State.dropResidents _ _ _) ?_ ⟨rfl, rfl, rfl, rfl, rfl, rfl, rfl, rfl⟩
  refine Spared.trans ?_ (spared_dropResidents _ _ _)
  exact (posts_replayEnd s ctx 2).spared.trans (Spared.foldl _ (fun u i => spared_unloadImage u i) _ _)

theorem spared_removeCtx (s : State) (ctx : Nat) : s.Spared (s.removeCtx ctx) := by
  have h := spared_teardown s ctx false
  unfold State.removeCtx
  generalize s.teardown ctx false = t at h ⊢
  exact h.trans ⟨rfl, rfl, rfl, rfl, rfl, rfl, rfl, rfl⟩

theorem spared_clearStep (s : State) (n : Nat) (cores : List Nat) : s.Spared (s.clearStep n cores) := by
  unfold State.clearStep
  dsimp only
  refine Spared.trans (Spared.foldl _ (fun u c => ?_) cores s) ⟨rfl, rfl, rfl, rfl, rfl, rfl, rfl, rfl⟩
  exact ⟨rfl, rfl, rfl, rfl, rfl, rfl, rfl, rfl⟩

theorem spared_killSteps (s : State) (ctx : Nat) : s.Spared (s.killSteps ctx) := by
  unfold State.killSteps
  dsimp only
  refine Spared.trans (Spared.foldl _ (fun u p => ?_) _ s) ⟨rfl, rfl, rfl, rfl, rfl, rfl, rfl, rfl⟩
  split
  · exact spared_clearStep _ _ _
  · exact Spared.refl _

theorem spared_complete (s : State) (fid st : Nat) (r : Bytes) : s.Spared (s.complete fid st r) := by
  cases h : s.cmds.find fid with
  | none => rw [complete_none h]; exact Spared.refl s
  | some c => exact Spared.trans (t := s.unlisted fid) ⟨rfl, rfl, rfl, rfl, rfl, rfl, rfl, rfl⟩ (complete_posts h st r).spared

theorem spared_abortCmds (s : State) (ctx : Nat) : s.Spared (s.abortCmds ctx) := by
  unfold State.abortCmds
  dsimp only
  refine Spared.trans (t := { s with steps := { s.steps with list := s.steps.list.filter (fun p => !(p.2.ctx == ctx && p.2.stage == .waiting)) } })
    ⟨rfl, rfl, rfl, rfl, rfl, rfl, rfl, rfl⟩ (Spared.foldl _ (fun u f => spared_complete _ _ _ _) _ _)

/-- An FLR that destroys a context leaves those parts. -/
theorem spared_destroyNow (s : State) (ctx : Nat) : s.Spared (s.destroyNow ctx) :=
  ((spared_abortCmds s ctx).trans (spared_killSteps _ ctx)).trans (spared_removeCtx _ _)

/-- A removed context is gone. -/
theorem removeCtx_gone (s : State) (ctx : Nat) : (s.removeCtx ctx).ctx ctx = none := AList.get?_erase_self _ _

/-- Its queue pairs are gone with it. -/
theorem removeCtx_queues (s : State) (ctx : Nat) : ∀ q ∈ (s.removeCtx ctx).queues, q.2.ctx ≠ ctx := by
  intro q h
  have := (List.mem_filter.mp h).2
  simpa using this

/- What a release leaves of the contexts. -/

/-- A context without its segments, charges, image copies and resident regions, and without what a completion can change. -/
def bareOf (x : Ctx) : Ctx := { x.masked with segs := [], charges := [], copies := [], residents := [] }

/-- Two states hold the same contexts, but for those parts. -/
def SameBare (s t : State) : Prop := t.ctxs.map (fun p => (p.1, bareOf p.2)) = s.ctxs.map (fun p => (p.1, bareOf p.2))

theorem SameBare.refl (s : State) : s.SameBare s := rfl

theorem SameBare.trans {s t u : State} (h : s.SameBare t) (k : t.SameBare u) : s.SameBare u := Eq.trans k h

theorem SameBare.foldl {α : Type} (f : State → α → State) (h : ∀ (s : State) (a : α), s.SameBare (f s a)) (l : List α) (s : State) :
    s.SameBare (l.foldl f s) := by
  induction l generalizing s with
  | nil => exact SameBare.refl s
  | cons a l ih => exact (h s a).trans (ih _)

theorem Posts.sameBare {s t : State} (h : s.Posts t) : s.SameBare t := by
  have := congrArg (List.map (fun (p : Nat × Ctx) => (p.1, { p.2 with segs := [], charges := [], copies := [], residents := [] }))) h.ctxs
  simpa [List.map_map, Function.comp_def, SameBare, bareOf] using this

theorem SameBare.ctx {s t : State} (h : s.SameBare t) (n : Nat) : (t.ctx n).map bareOf = (s.ctx n).map bareOf := by
  have hm := congrArg (fun l => AList.get? l n) h
  simpa [AList.get?_map, State.ctx] using hm

theorem sameBare_of {s t : State} (h : t.ctxs = s.ctxs) : s.SameBare t := by unfold SameBare; rw [h]

theorem sameBare_settleGens (s : State) : s.SameBare s.settleGens := sameBare_of rfl

theorem sameBare_releaseGens (s : State) (l : List Nat) : s.SameBare (s.releaseGens l) := sameBare_of rfl

theorem sameBare_modCtx (s : State) (n : Nat) (f : Ctx → Ctx) (h : ∀ x, bareOf (f x) = bareOf x) : s.SameBare (s.modCtx n f) :=
  AList.map_upd _ _ _ _ (fun k v => by simp [h v])

/-- What a charge changes: the charges of its context, and the frames. -/
theorem growCharge_eq (ctx : Nat) (l : List Nat) (s t : State)
    (h : l.foldl (fun (acc : Option State) _ => acc.bind (fun u => match u.findFrame ctx false with
      | .ok f => some (u.setFrame f (.charged ctx))
      | _ => none)) (some s) = some t) : t = { s with tier := t.tier } := by
  induction l generalizing s with
  | nil => cases h; rfl
  | cons a l ih =>
    simp only [List.foldl_cons, Option.bind_some] at h
    split at h
    · have k := ih _ h
      exact k
    · have hn : ∀ m : List Nat, m.foldl (fun (acc : Option State) _ => acc.bind (fun u => match u.findFrame ctx false with
          | .ok f => some (u.setFrame f (.charged ctx))
          | _ => none)) none = none := by
        intro m
        induction m with
        | nil => rfl
        | cons a m im => simpa using im
      rw [hn] at h
      cases h

theorem sameBare_giveBack (s : State) (ctx f : Nat) : s.SameBare (s.giveBack ctx f) := by
  refine SameBare.trans (t := s.movePlaces ctx _) ?_ (sameBare_of rfl)
  exact SameBare.trans (sameBare_of rfl) (sameBare_modCtx _ _ _ (fun _ => rfl))

theorem sameBare_setCharge {s t : State} {ctx key n : Nat} (h : s.setCharge ctx key n = some t) : s.SameBare t := by
  unfold State.setCharge at h
  dsimp only at h
  obtain ⟨u, hu, rfl⟩ := Option.map_eq_some_iff.mp h
  have hg := growCharge_eq ctx _ _ _ hu
  refine SameBare.trans (t := u) ?_ (SameBare.foldl _ (fun v f => sameBare_giveBack v ctx f) _ _)
  have k := sameBare_modCtx s ctx
    (fun c => { c with charges := if n = 0 then c.charges.erase key else c.charges.set key n }) (fun _ => rfl)
  refine k.trans (sameBare_of ?_)
  rw [hg]

/-- Frames given back: the contexts, the frames and the DRAM change (R226). -/
theorem giveBacks_eq (ctx : Nat) (l : List Nat) (s : State) : ∃ d, l.foldl (fun v f => State.giveBack v ctx f) s =
    { s with tier := (l.foldl (fun v f => State.giveBack v ctx f) s).tier, ctxs := (l.foldl (fun v f => State.giveBack v ctx f) s).ctxs, dram := d } := by
  induction l generalizing s with
  | nil => exact ⟨_, rfl⟩
  | cons a l ih =>
    obtain ⟨d, h⟩ := ih (s.giveBack ctx a)
    rw [List.foldl_cons]
    exact ⟨d, h.trans rfl⟩

/-- What a charge changes: the contexts, the frames, and the DRAM where image tiles move (R226). -/
theorem setCharge_eq {s t : State} {ctx key n : Nat} (h : s.setCharge ctx key n = some t) :
    t = { s with ctxs := t.ctxs, tier := t.tier, dram := t.dram } := by
  unfold State.setCharge at h
  dsimp only at h
  obtain ⟨u, hu, rfl⟩ := Option.map_eq_some_iff.mp h
  have hg := growCharge_eq ctx _ _ _ hu
  generalize hl : List.take _ _ = l
  obtain ⟨d, hd⟩ := giveBacks_eq ctx l u
  generalize hv : l.foldl (fun v f => State.giveBack v ctx f) u = v at hd
  generalize v.tier = w at hd
  generalize v.ctxs = x at hd
  rw [hd, hg]
  rfl

theorem claimTiles_eq {s t : State} {ctx key n : Nat} (h : s.claimTiles ctx key n = .ok t) :
    t = { s with ctxs := t.ctxs, tier := t.tier, dram := t.dram } := by
  unfold State.claimTiles at h
  dsimp only at h
  split at h
  · cases h
  · split at h
    · rename_i hs
      cases h
      exact setCharge_eq hs
    · cases hl : s.lacks ctx (cdiv n 32) <;> rw [hl] at h <;> cases h

theorem dropCharge_eq (s : State) (ctx key : Nat) :
    s.dropCharge ctx key = { s with ctxs := (s.dropCharge ctx key).ctxs, tier := (s.dropCharge ctx key).tier, dram := (s.dropCharge ctx key).dram } := by
  unfold State.dropCharge State.lowerCharge
  cases h : s.setCharge ctx key 0 with
  | none => rfl
  | some t =>
    rw [Option.getD_some]
    exact setCharge_eq h

theorem sameBare_dropCharge (s : State) (ctx key : Nat) : s.SameBare (s.dropCharge ctx key) := by
  unfold State.dropCharge State.lowerCharge
  cases h : s.setCharge ctx key 0 with
  | none => exact SameBare.refl s
  | some t => exact sameBare_setCharge h

theorem sameBare_scrubRows (s : State) (c a n : Nat) : s.SameBare (s.scrubRows c a n) := by
  unfold State.scrubRows State.modScratch
  split <;> exact SameBare.refl s

theorem sameBare_dropResidents (s : State) (ctx : Nat) (l : List Nat) : s.SameBare (s.dropResidents ctx l) := by
  refine SameBare.foldl _ (fun t k => ?_) l s
  split
  · exact SameBare.refl t
  · exact (sameBare_scrubRows _ _ _ _).trans (sameBare_modCtx _ _ _ (fun _ => rfl))

theorem sameBare_unloadImage (s : State) (slot : Nat) : s.SameBare (s.unloadImage slot) := by
  unfold State.unloadImage
  split
  · exact SameBare.refl s
  · dsimp only
    refine SameBare.trans ?_ (sameBare_releaseGens _ _)
    refine SameBare.trans ?_ (sameBare_dropCharge _ _ _)
    refine SameBare.trans ?_ (sameBare_modCtx _ _ _ (fun _ => rfl))
    refine SameBare.trans ?_ (sameBare_dropResidents _ _ _)
    exact sameBare_of rfl

theorem sameBare_releaseTier (s : State) (ctx : Nat) (keep : Bool) : s.SameBare (s.releaseTier ctx keep) := by
  unfold State.releaseTier
  dsimp only
  refine SameBare.trans ?_ (sameBare_dropCharge _ _ _)
  refine SameBare.trans ?_ (sameBare_modCtx _ _ _ (by intro _; rfl))
  exact sameBare_of rfl

/-- A completion leaves each context what it is, but for those parts. -/
theorem sameBare_complete (s : State) (fid st : Nat) (r : Bytes) : s.SameBare (s.complete fid st r) := by
  cases h : s.cmds.find fid with
  | none => rw [complete_none h]; exact SameBare.refl s
  | some c => exact (sameBare_of (s := s) (t := s.unlisted fid) rfl).trans (complete_posts h st r).sameBare

theorem sameBare_abortCmds (s : State) (ctx : Nat) : s.SameBare (s.abortCmds ctx) := by
  unfold State.abortCmds
  dsimp only
  refine SameBare.trans (sameBare_of ?_) (SameBare.foldl _ (fun u f => sameBare_complete _ _ _ _) _ _)
  rfl

/-- Releasing everything that a context holds leaves each context what it is, but for those parts. -/
theorem sameBare_teardown (s : State) (ctx : Nat) (keep : Bool) : s.SameBare (s.teardown ctx keep) := by
  unfold State.teardown
  dsimp only
  refine SameBare.trans ?_ (sameBare_settleGens _)
  refine SameBare.trans ?_ (sameBare_releaseTier _ _ _)
  refine SameBare.trans (t := State.dropResidents _ _ _) ?_ (sameBare_of rfl)
  refine SameBare.trans ?_ (sameBare_dropResidents _ _ _)
  exact (posts_replayEnd s ctx 2).sameBare.trans (SameBare.foldl _ (fun u i => sameBare_unloadImage u i) _ _)

end State

end Sys2Proof.Machine
end

