-- ==== Sys2Proof/Laws/Cmds.lean ====
section
/-!
SUPPORT. Laws/Cmds.lean: the frame of a command row leaves a completion as it is when the effect before it stays inside the frame.
-/
namespace Sys2Proof.Machine

namespace State

/-- A completion of a state, by the parts that it can change. -/
theorem complete_eq_cplOf (s : State) (fid st : Nat) (r : Bytes) : s.complete fid st r = s.cplOf (s.complete fid st r) := (cplOf_complete s fid st r).symm

theorem streamCmd_complete {s t : State} (h : s.streamCmd t = t) (fid st : Nat) (r : Bytes) : s.streamCmd (t.complete fid st r) = t.complete fid st r := by
  rw [complete_eq_cplOf t]
  exact congrArg (fun u : State => u.cplOf (t.complete fid st r)) h

theorem schedCmd_complete {s t : State} (h : s.schedCmd t = t) (fid st : Nat) (r : Bytes) : s.schedCmd (t.complete fid st r) = t.complete fid st r := by
  rw [complete_eq_cplOf t]
  exact congrArg (fun u : State => u.cplOf (t.complete fid st r)) h

theorem tierCmd_complete {s t : State} (h : s.tierCmd t = t) (fid st : Nat) (r : Bytes) : s.tierCmd (t.complete fid st r) = t.complete fid st r := by
  rw [complete_eq_cplOf t]
  exact congrArg (fun u : State => u.cplOf (t.complete fid st r)) h

theorem ctxCmd_complete {s t : State} (h : s.ctxCmd t = t) (fid st : Nat) (r : Bytes) : s.ctxCmd (t.complete fid st r) = t.complete fid st r := by
  rw [complete_eq_cplOf t]
  exact congrArg (fun u : State => u.cplOf (t.complete fid st r)) h

theorem checkCmd_complete {s t : State} (h : s.checkCmd t = t) (fid st : Nat) (r : Bytes) : s.checkCmd (t.complete fid st r) = t.complete fid st r := by
  rw [complete_eq_cplOf t]
  exact congrArg (fun u : State => u.cplOf (t.complete fid st r)) h

theorem secCmd_complete {s t : State} (h : s.secCmd t = t) (fid st : Nat) (r : Bytes) : s.secCmd (t.complete fid st r) = t.complete fid st r := by
  rw [complete_eq_cplOf t]
  exact congrArg (fun u : State => u.cplOf (t.complete fid st r)) h

theorem fwCmd_complete {s t : State} (h : s.fwCmd t = t) (fid st : Nat) (r : Bytes) : s.fwCmd (t.complete fid st r) = t.complete fid st r := by
  rw [complete_eq_cplOf t]
  exact congrArg (fun u : State => u.cplOf (t.complete fid st r)) h

theorem cplOf_complete_of {s t : State} (h : s.cplOf t = t) (fid st : Nat) (r : Bytes) : s.cplOf (t.complete fid st r) = t.complete fid st r := by
  rw [complete_eq_cplOf t]
  have k := congrArg (fun u : State => u.cplOf (t.complete fid st r)) h
  exact k

/-- A completed command is gone. -/
theorem complete_gone (s : State) (fid st : Nat) (r : Bytes) : (s.complete fid st r).cmds.find fid = none := by
  cases h : s.cmds.find fid with
  | none => rw [complete_none h, h]
  | some c =>
    unfold Cmds.find
    rw [complete_cmds h]
    simp

/-- A command that ends with a status alone has an empty result, but for a SUBMIT_STEP. -/
theorem CmdReady.refused {s : State} {fid op own : Nat} {c : Cmd} (h : s.CmdReady fid op own c) (ho : op ≠ 1) : c.refused = [] := by
  unfold Cmd.refused
  rw [if_neg]
  rw [h.opcode]
  exact fun k => ho k.1

end State

end Sys2Proof.Machine
end

