-- ==== Sys2Proof/Laws/Host.lean ====
section
/-!
SUPPORT. Laws/Host.lean: what draining a register write does: its entry leaves the mailbox, its effect follows, and reads that waited are answered.
-/
namespace Sys2Proof.Machine

@[simp] theorem State.func_modFunc_self (s : State) (f : Nat) (g : Func → Func) : (s.modFunc f g).func f = g (s.func f) := by
  simp [State.modFunc, State.func]

theorem State.func_modFunc_ne (s : State) {f k : Nat} (g : Func → Func) (h : k ≠ f) : (s.modFunc f g).func k = s.func k := by
  simp [State.modFunc, State.func, AList.getD_set_ne _ _ _ h]

/-- The state in which the effect of a drained write begins. -/
def State.drainStart (s : State) (f : Nat) : State :=
  { s.modFunc f (fun x => { x with mbox := x.mbox.tail }) with pf := { s.pf with turn := f, sharedTurn := if s.ownsCtx f then s.pf.sharedTurn else f } }

theorem State.drain_eq {s : State} {f : Nat} {e : MboxEntry} {row : DrainRow} (h : s.nextEntry = some (f, e)) (hr : s.drainRow f e = row)
    (k : State → Nat → MboxEntry → State) : s.drain row k = (k (s.drainStart f) f e).answerReads f := by
  simp [State.drain, h, hr, State.drainStart]

theorem State.drainStart_func (s : State) (f : Nat) : (s.drainStart f).func f = { s.func f with mbox := (s.func f).mbox.tail } :=
  State.func_modFunc_self s f (fun x => { x with mbox := x.mbox.tail })

/-- What sending changes. -/
theorem State.send_eq (s : State) (o : Out) : s.send o = { s with out := (s.send o).out } := by
  unfold State.send
  split <;> rfl

theorem State.sends_eq {α : Type} (g : State → α → Out) (l : List α) (s : State) :
    l.foldl (fun (u : State) r => u.send (g u r)) s = { s with out := (l.foldl (fun (u : State) r => u.send (g u r)) s).out } := by
  induction l generalizing s with
  | nil => rfl
  | cons a l ih =>
    rw [List.foldl_cons, ih, State.send_eq]

/-- Answering held reads changes them and what is sent. -/
theorem State.answerReads_eq (s : State) (f : Nat) : ∃ rs o, s.answerReads f =
    { s.modFunc f (fun x => { x with reads := rs }) with out := o } := by
  unfold State.answerReads
  dsimp only
  rw [State.sends_eq (fun u (r : HeldRead) => Out.answer f r.off (u.readWindow f r.off r.size))]
  exact ⟨_, _, rfl⟩

theorem State.answerReads_func (s : State) (f : Nat) : ∃ rs, (s.answerReads f).func f = { s.func f with reads := rs } := by
  obtain ⟨rs, o, h⟩ := s.answerReads_eq f
  exact ⟨rs, by rw [h]; exact State.func_modFunc_self s f (fun x => { x with reads := rs })⟩

/-- Which reads wait does not show in what a read returns. -/
theorem State.shown_reads (s : State) (f : Nat) (rs : List HeldRead) (k : Nat) :
    (s.modFunc f (fun x => { x with reads := rs })).shown k = s.shown k := by
  unfold State.shown
  by_cases h : k = f
  · subst h; rw [State.func_modFunc_self]; rfl
  · rw [State.func_modFunc_ne _ _ h]; rfl

theorem State.shownQ_reads (s : State) (f : Nat) (rs : List HeldRead) (k : Nat) :
    (s.modFunc f (fun x => { x with reads := rs })).shownQueue k = s.shownQueue k := by
  unfold State.shownQueue
  by_cases h : k = f
  · subst h; rw [State.func_modFunc_self]; rfl
  · rw [State.func_modFunc_ne _ _ h]; rfl

theorem State.readQ_reads (s : State) (f : Nat) (rs : List HeldRead) (k o : Nat) :
    (s.modFunc f (fun x => { x with reads := rs })).readQ k o = s.readQ k o := by
  unfold State.readQ
  rw [State.shownQ_reads]
  by_cases h : k = f
  · subst h; rw [State.func_modFunc_self]
  · rw [State.func_modFunc_ne _ _ h]

theorem State.readLog_reads (s : State) (f : Nat) (rs : List HeldRead) (k o : Nat) :
    (s.modFunc f (fun x => { x with reads := rs })).readLog k o = s.readLog k o := by
  unfold State.readLog
  by_cases h : k = f
  · subst h; rw [State.func_modFunc_self]
  · rw [State.func_modFunc_ne _ _ h]

theorem State.readReg_reads (s : State) (f : Nat) (rs : List HeldRead) (k o : Nat) :
    (s.modFunc f (fun x => { x with reads := rs })).readReg k o = s.readReg k o := by
  unfold State.readReg
  rw [State.shown_reads, State.readQ_reads, State.readLog_reads]
  have : ((s.modFunc f (fun x => { x with reads := rs })).func k).ctxSel = (s.func k).ctxSel := by
    by_cases h : k = f
    · subst h; rw [State.func_modFunc_self]
    · rw [State.func_modFunc_ne _ _ h]
  rw [this]
  rfl

theorem State.readWindow_reads (s : State) (f : Nat) (rs : List HeldRead) (k o z : Nat) :
    (s.modFunc f (fun x => { x with reads := rs })).readWindow k o z = s.readWindow k o z := by
  unfold State.readWindow
  rw [State.readReg_reads, State.readReg_reads]

end Sys2Proof.Machine
end

