-- ==== Sys2Proof/Laws/Mem.lean ====
section
/-!
SUPPORT. Laws/Mem.lean: every memory operation keeps the canonical form, and what a read gives after one; the same for the scratchpads, the DRAM
and the flash that hold such memories.
-/
namespace Sys2Proof.Machine

/- The canonical form. -/

theorem Mem.wf_nil : Mem.wf [] := by simp [Mem.wf]

theorem Mem.wf_filter {m : Mem} (h : Mem.wf m) (p : Host.Cell → Bool) : Mem.wf (m.filter p) :=
  ⟨h.1.filter p, fun c hc => h.2 c (List.mem_filter.mp hc).1⟩

theorem Mem.cellsOf_mem {bs : Bytes} {a : Nat} {c : Host.Cell} (h : c ∈ Mem.cellsOf a bs) :
    a ≤ c.1 ∧ c.1 < a + bs.length ∧ c.2 ≠ Mem.blank := by
  induction bs generalizing a with
  | nil => simp [Mem.cellsOf] at h
  | cons b t ih =>
    simp only [Mem.cellsOf] at h
    split at h
    · obtain ⟨h1, h2, h3⟩ := ih h
      exact ⟨by omega, by simp only [List.length_cons]; omega, h3⟩
    · rename_i hb
      rcases List.mem_cons.mp h with rfl | h
      · exact ⟨le_refl _, by simp, hb⟩
      · obtain ⟨h1, h2, h3⟩ := ih h
        exact ⟨by omega, by simp only [List.length_cons]; omega, h3⟩

theorem Mem.cellsOf_sorted (bs : Bytes) (a : Nat) : (Mem.cellsOf a bs).Pairwise (fun x y => x.1 < y.1) := by
  induction bs generalizing a with
  | nil => simp [Mem.cellsOf]
  | cons b t ih =>
    simp only [Mem.cellsOf]
    split
    · exact ih _
    · exact List.pairwise_cons.mpr ⟨fun c hc => by have := Mem.cellsOf_mem hc; simp only; omega, ih _⟩

/-- Three runs of cells, one below the other, make a canonical memory. -/
theorem Mem.wf_join {x y z : Mem} {lo hi : Nat} (hx : Mem.wf x) (hy : Mem.wf y) (hz : Mem.wf z) (bx : ∀ c ∈ x, c.1 < lo)
    (by' : ∀ c ∈ y, lo ≤ c.1 ∧ c.1 < hi) (bz : ∀ c ∈ z, hi ≤ c.1) (hlh : lo ≤ hi) : Mem.wf (x ++ (y ++ z)) := by
  refine ⟨?_, ?_⟩
  · simp only [List.pairwise_append]
    refine ⟨hx.1, ⟨hy.1, hz.1, fun a ha b hb => ?_⟩, fun a ha b hb => ?_⟩
    · have := by' a ha; have := bz b hb; omega
    · have h1 := bx a ha
      rcases List.mem_append.mp hb with h | h
      · have := by' b h; omega
      · have := bz b h; omega
  · intro c hc
    rcases List.mem_append.mp hc with h | h
    · exact hx.2 c h
    · rcases List.mem_append.mp h with h | h
      · exact hy.2 c h
      · exact hz.2 c h

theorem Mem.wf_write {m : Mem} (h : Mem.wf m) (a : Nat) (bs : Bytes) : Mem.wf (m.write a bs) := by
  refine Mem.wf_join (lo := a) (hi := a + bs.length) (Mem.wf_filter h _) ⟨Mem.cellsOf_sorted bs a, fun c hc => (Mem.cellsOf_mem hc).2.2⟩
    (Mem.wf_filter h _) ?_ ?_ ?_ (by omega)
  · intro c hc; simpa using (List.mem_filter.mp hc).2
  · intro c hc; have := Mem.cellsOf_mem hc; omega
  · intro c hc; simpa using (List.mem_filter.mp hc).2

theorem Mem.wf_clear {m : Mem} (h : Mem.wf m) (a n : Nat) : Mem.wf (m.clear a n) := Mem.wf_filter h _

theorem Mem.wf_clears {α : Type} {m : Mem} (h : Mem.wf m) (l : List α) (f : α → Nat × Nat) :
    Mem.wf (l.foldl (fun m i => m.clear (f i).1 (f i).2) m) := by
  induction l generalizing m with
  | nil => exact h
  | cons i t ih => exact ih (Mem.wf_clear h _ _)

theorem Mem.wf_copy {m : Mem} (h : Mem.wf m) (a b n : Nat) : Mem.wf (m.copy a b n) := by
  have hf := Mem.wf_filter h (fun c => decide (a ≤ c.1) && decide (c.1 < a + n))
  refine Mem.wf_join (lo := b) (hi := b + n) (Mem.wf_filter h _) ⟨?_, ?_⟩ (Mem.wf_filter h _) ?_ ?_ ?_ (by omega)
  · refine List.pairwise_map.mpr (hf.1.imp_of_mem ?_)
    intro x y hx hy hxy
    have := (List.mem_filter.mp hx).2
    have := (List.mem_filter.mp hy).2
    simp only [Bool.and_eq_true, decide_eq_true_eq] at *
    omega
  · intro c hc
    obtain ⟨d, hd, rfl⟩ := List.mem_map.mp hc
    exact hf.2 d hd
  · intro c hc; simpa using (List.mem_filter.mp hc).2
  · intro c hc
    obtain ⟨d, hd, rfl⟩ := List.mem_map.mp hc
    have := (List.mem_filter.mp hd).2
    simp only [Bool.and_eq_true, decide_eq_true_eq] at this
    simp only
    omega
  · intro c hc; simpa using (List.mem_filter.mp hc).2

/- What reads give. -/

theorem Mem.read_of_not_mem {m : Mem} {a : Nat} (h : ∀ c ∈ m, c.1 ≠ a) : m.read a = Mem.blank := by
  induction m with
  | nil => rfl
  | cons c t ih =>
    obtain ⟨k, v⟩ := c
    have hk : k ≠ a := h (k, v) (by simp)
    simp only [Mem.read, hk, if_false]
    exact ih (fun c hc => h c (by simp [hc]))

theorem Mem.read_append (x y : Mem) (a : Nat) : Mem.read (x ++ y) a = if ∃ c ∈ x, c.1 = a then x.read a else y.read a := by
  induction x with
  | nil => simp
  | cons c t ih =>
    obtain ⟨k, v⟩ := c
    simp only [List.cons_append, Mem.read]
    by_cases hk : k = a
    · simp [hk]
    · simp [hk, ih]

/-- Cells that a test refuses are not read. -/
theorem Mem.read_filter {m : Mem} {p : Host.Cell → Bool} {a : Nat} (h : ∀ v, p (a, v) = true) : Mem.read (m.filter p) a = m.read a := by
  induction m with
  | nil => rfl
  | cons c t ih =>
    obtain ⟨k, v⟩ := c
    by_cases hp : p (k, v) = true
    · simp only [List.filter_cons_of_pos hp, Mem.read, ih]
    · have hk : k ≠ a := fun e => hp (e ▸ h v)
      simp only [List.filter_cons_of_neg hp, Mem.read, hk, if_false, ih]

theorem Mem.read_filter_none {m : Mem} {p : Host.Cell → Bool} {a : Nat} (h : ∀ v, p (a, v) = false) : Mem.read (m.filter p) a = Mem.blank := by
  refine Mem.read_of_not_mem (fun c hc e => ?_)
  have := (List.mem_filter.mp hc).2
  have h2 := h c.2
  rw [← e] at h2
  simp_all

theorem Mem.read_cellsOf (bs : Bytes) (a x : Nat) : Mem.read (Mem.cellsOf a bs) x = if a ≤ x ∧ x < a + bs.length then bs.getD (x - a) Mem.blank else Mem.blank := by
  induction bs generalizing a with
  | nil => simp [Mem.cellsOf, Mem.read]
  | cons b t ih =>
    simp only [Mem.cellsOf]
    by_cases hx : x = a
    · subst hx
      have hn : Mem.read (Mem.cellsOf (x + 1) t) x = Mem.blank := by rw [ih]; simp
      split
      · rename_i hb; rw [hn]; simp [hb]
      · simp [Mem.read]
    · have hr : Mem.read (Mem.cellsOf (a + 1) t) x =
          if a ≤ x ∧ x < a + (b :: t).length then (b :: t).getD (x - a) Mem.blank else Mem.blank := by
        rw [ih]
        by_cases hin : a + 1 ≤ x ∧ x < a + 1 + t.length
        · have h1 : a ≤ x ∧ x < a + (b :: t).length := by simp only [List.length_cons]; omega
          rw [if_pos hin, if_pos h1]
          obtain ⟨k, hk⟩ : ∃ k, x - a = k + 1 := ⟨x - a - 1, by omega⟩
          have : x - (a + 1) = k := by omega
          rw [hk, this]; simp
        · have h1 : ¬(a ≤ x ∧ x < a + (b :: t).length) := by simp only [List.length_cons]; omega
          rw [if_neg hin, if_neg h1]
      split
      · exact hr
      · simp only [Mem.read, Ne.symm hx, if_false]; exact hr

/-- A read after a write: the bytes written inside the run, what was there before outside it. -/
theorem Mem.read_write (m : Mem) (a x : Nat) (bs : Bytes) :
    (m.write a bs).read x = if a ≤ x ∧ x < a + bs.length then bs.getD (x - a) Mem.blank else m.read x := by
  unfold Mem.write
  by_cases hlo : x < a
  · have h0 : Mem.read (m.filter (fun c => decide (c.1 < a))) x = m.read x := Mem.read_filter (by simp [hlo])
    have hc : Mem.read (Mem.cellsOf a bs ++ m.filter (fun c => decide (a + bs.length ≤ c.1))) x = Mem.blank := by
      rw [Mem.read_append, Mem.read_cellsOf, if_neg (by omega : ¬(a ≤ x ∧ x < a + bs.length)),
        Mem.read_filter_none (by intro v; simp; omega)]
      simp
    rw [Mem.read_append, h0, hc, if_neg (by omega : ¬(a ≤ x ∧ x < a + bs.length))]
    split
    · rfl
    · rename_i hne
      rw [← h0]
      exact (Mem.read_of_not_mem (fun c hm e => hne ⟨c, hm, e⟩)).symm
  · have h0 : ¬∃ c ∈ m.filter (fun c => decide (c.1 < a)), c.1 = x := by
      rintro ⟨c, hm, e⟩
      have := (List.mem_filter.mp hm).2
      simp only [decide_eq_true_eq] at this
      omega
    rw [Mem.read_append, if_neg h0, Mem.read_append, Mem.read_cellsOf]
    by_cases hin : x < a + bs.length
    · have hin' : a ≤ x ∧ x < a + bs.length := ⟨by omega, hin⟩
      simp only [if_pos hin']
      rw [Mem.read_filter_none (by intro v; simp; omega)]
      split
      · rfl
      · rename_i hne
        have := Mem.read_of_not_mem (m := Mem.cellsOf a bs) (a := x) (fun c hm e => hne ⟨c, hm, e⟩)
        rw [Mem.read_cellsOf, if_pos (⟨by omega, hin⟩ : a ≤ x ∧ x < a + bs.length)] at this
        exact this.symm
    · have hne : ¬∃ c ∈ Mem.cellsOf a bs, c.1 = x := by
        rintro ⟨c, hm, e⟩
        have := Mem.cellsOf_mem hm
        omega
      rw [if_neg hne, if_neg (by omega : ¬(a ≤ x ∧ x < a + bs.length))]
      exact Mem.read_filter (by intro v; simp; omega)

theorem Mem.read_clear (m : Mem) (a n x : Nat) : (m.clear a n).read x = if a ≤ x ∧ x < a + n then Mem.blank else m.read x := by
  unfold Mem.clear
  split
  · exact Mem.read_filter_none (by intro v; simp; omega)
  · exact Mem.read_filter (by intro v; simp; omega)

theorem Mem.readN_length (m : Mem) (a n : Nat) : (m.readN a n).length = n := by simp [Mem.readN]

theorem Mem.readN_eq (m : Mem) (a n : Nat) : m.readN a n = (List.range n).map (fun i => m.read (a + i)) := by
  unfold Mem.readN
  refine List.map_congr_left (fun i hi => ?_)
  have hi : i < n := List.mem_range.mp hi
  exact Mem.read_filter (by intro v; simp [hi])

/-- Memories that read alike over a run give the same bytes there. -/
theorem Mem.readN_congr {m k : Mem} {a n : Nat} (h : ∀ i < n, m.read (a + i) = k.read (a + i)) : m.readN a n = k.readN a n := by
  rw [Mem.readN_eq, Mem.readN_eq]
  exact List.map_congr_left (fun i hi => h i (List.mem_range.mp hi))

/- The memories of the tile. -/

theorem Dram.keepReads_data (d : Dram) (c : Nat) (hit : Nat → Bool) : (d.keepReads c hit).data = d.data := by
  unfold Dram.keepReads
  simp only
  split <;> rfl

theorem Dram.wf_store {d : Dram} (h : d.data.wf) (k : Nat) (b : Bytes) : (d.store k b).data.wf :=
  Mem.wf_write (by rw [Dram.keepReads_data]; exact h) _ _

theorem Dram.wf_writeKey {d : Dram} (h : d.data.wf) (k : Nat) (b : Bytes) : (d.writeKey k b).data.wf := by
  unfold Dram.writeKey
  simp only
  split
  · exact h
  · split
    · exact h
    · exact Dram.wf_store h k b

theorem Dram.wf_writeBlock {d : Dram} (h : d.data.wf) (f b : Nat) (bs : Bytes) : (d.writeBlock f b bs).data.wf := by
  unfold Dram.writeBlock
  simp only
  split
  · exact Dram.wf_writeKey (Dram.wf_writeKey h _ _) _ _
  · exact Dram.wf_writeKey h _ _

theorem Dram.wf_writePart {d : Dram} (h : d.data.wf) (f off : Nat) (bs : Bytes) (p : Nat × Nat × Nat) :
    (d.writePart f off bs p).data.wf := by
  unfold Dram.writePart
  simp only
  split
  · exact Dram.wf_writeBlock h _ _ _
  · split
    · exact Dram.wf_writeBlock h _ _ _
    · exact h

theorem Dram.wf_writeFrame {d : Dram} (h : d.data.wf) (f off : Nat) (bs : Bytes) : (d.writeFrame f off bs).data.wf := by
  unfold Dram.writeFrame
  generalize blockParts off bs.length = l
  induction l generalizing d with
  | nil => exact h
  | cons i t ih => exact ih (Dram.wf_writePart h _ _ _ _)

theorem Dram.wf_zeroKeys {d : Dram} (h : d.data.wf) (k m : Nat) : (d.zeroKeys k m).data.wf :=
  Mem.wf_clear (by rw [Dram.keepReads_data]; exact h) _ _

theorem Dram.wf_zeroFrame {d : Dram} (h : d.data.wf) (f off n : Nat) : (d.zeroFrame f off n).data.wf := by
  unfold Dram.zeroFrame
  simp only
  split
  · exact Dram.wf_zeroKeys (Dram.wf_zeroKeys h _ _) _ _
  · exact Dram.wf_zeroKeys h _ _

theorem Dram.wf_moveTile {d : Dram} (h : d.data.wf) (src dst : Nat) : (d.moveTile src dst).data.wf := by
  unfold Dram.moveTile
  generalize List.range 1024 = l
  induction l generalizing d with
  | nil => exact h
  | cons b t ih =>
    refine ih ?_
    dsimp only
    split
    · exact Dram.wf_writeBlock h _ _ _
    · exact h

theorem Dram.wf_copyFrame {d : Dram} (h : d.data.wf) (a b : Nat) (ue : List Nat) : (d.copyFrame a b ue).data.wf := by
  unfold Dram.copyFrame
  simp only
  have hc := Mem.wf_copy h (a * 64) (b * 64) (frameBlocks * 64)
  split
  · exact h
  · generalize List.filter _ (d.chan (keyChan a)).writes = ws
    generalize hd : (Dram.mk _ _ _ _ _ _ _ _ _ _ _ _ _) = e
    have he : e.data.wf := by rw [← hd]; exact hc
    clear hd hc
    induction ws generalizing e with
    | nil => exact he
    | cons w t ih => exact ih _ (Dram.wf_store he _ _)

theorem Flash.wf_place {f : Flash} (h : f.cells.wf) (a : Nat) (b : Bytes) : (f.place a b).cells.wf := Mem.wf_write h _ _

theorem Flash.wf_erased {f : Flash} (h : f.cells.wf) (b : Nat) : (f.erased b).cells.wf := by
  simp only [Flash.erased]
  generalize List.range 1024 = l
  exact Mem.wf_clears h l (fun p => (blockPage b p * pageBytes, pageBytes))

theorem PCore.wf_writeRow {p : PCore} (h : p.mem.wf) (r : Nat) (b : Bytes) : (p.writeRow r b).mem.wf := Mem.wf_write h _ _

theorem PCore.wf_writeWord {p : PCore} (h : p.mem.wf) (r w : Nat) (b : Bytes) : (p.writeWord r w b).mem.wf := by
  unfold PCore.writeWord
  simp only
  split
  · exact Mem.wf_write (Mem.wf_clear h _ _) _ _
  · exact Mem.wf_write h _ _

theorem PCore.wf_writeBytes {p : PCore} (h : p.mem.wf) (a : Nat) (b : Bytes) : (p.writeBytes a b).mem.wf := by
  unfold PCore.writeBytes
  split
  · exact h
  · exact Mem.wf_write h _ _

theorem PCore.wf_scrubRow {p : PCore} (h : p.mem.wf) (r : Nat) : (p.scrubRow r).mem.wf := by
  unfold PCore.scrubRow
  split
  · exact Mem.wf_clear h _ _
  · exact h

/-- The memories of the tile after reset have the canonical form. -/
theorem reset_mem_wf : State.reset.dram.data.wf ∧ State.reset.flash.cells.wf ∧ ∀ p ∈ State.reset.pcores, p.mem.wf := by
  refine ⟨Mem.wf_nil, Mem.wf_nil, ?_⟩
  intro p hp
  obtain ⟨i, -, rfl⟩ := List.mem_map.mp hp
  exact Mem.wf_nil

end Sys2Proof.Machine
end

