-- ==== Sys2Proof/Tests/Slice0.lean ====
section
/-!
SUPPORT. Tests/Slice0.lean: the checks of WellFormed refuse ill-formed events; for every statement with premises, states and operands that meet them; and small
tests of one operation or one event, with expected values worked out by hand from the rules named.
-/
namespace Sys2Proof.Tests

open Sys2Proof Sys2Proof.Machine

set_option Elab.async false

/- Helpers: a tile that serves, a command entry, a context, a queue pair. -/

/-- The reset state, serving, with the spare core usable. -/
def up : State :=
  { State.reset with boot := { State.reset.boot with life := .serving, ready := true, phase := 6 }
                     sparing := { State.reset.sparing with usable := true } }

def withLife (l : Life) : State := { up with boot := { up.boot with life := l, ready := l == .serving || l == .entering } }

/-- A fetched command number 7 with an opcode and argument fields given by (first bit, value). -/
def cmdOf (op : Nat) (q : QRef) (ctx : Option Nat) (fields : List (Nat × Nat)) : Cmd :=
  { fid := 7, q := q, func := 0, ctx := ctx, entry := toLe (packBits ((0, op) :: fields)) 64, stage := .fetched, recorded := false }

/-- A command of the queue pair 3 of context 5, and one of the PF's admin queue. -/
def ctxC (op : Nat) (fields : List (Nat × Nat)) : Cmd := cmdOf op (.pair 3) (some 5) fields
def admC (op : Nat) (fields : List (Nat × Nat)) : Cmd := cmdOf op (.admin 0) none fields

/-- A context of the PF with 64 stream entries from 64 on, all eight cores, and 64 frames. -/
def ctx5 : Ctx :=
  { (admC 0x80 []).newCtx up 64 [] with func := 0, state := 1, cores := 255, size := 64, guarantee := 64, partition := 0, confidential := false }

def pair3 : Queue :=
  { ctx := 5, depth := 64, pasid := none, sqBase := 4096, cqBase := 8192, vector := 0, state := .active, cause := 0, sqHead := 0, sqTail := 0,
    cqHead := 0, cqTail := 4, phase := true, held := [], ordinal := 0, since := 0 }

/-- The serving tile with context 5 and its queue pair. -/
def busy : State := { up with ctxs := [(5, ctx5)], queues := [(3, pair3)] }

def withCtx (f : Ctx → Ctx) : State := busy.modCtx 5 f
def withCmd (s : State) (c : Cmd) : State := { s with cmds := { list := [c], next := 8 } }

/-- Everything that CmdReady asks, as a check. -/
def readyB (s : State) (fid op own : Nat) (c : Cmd) : Bool :=
  s.cmds.find fid == some c && s.commandsRun && c.opcode == op && c.opcodeOk && c.stage == .fetched && s.permits c && (c.precheck own).isNone && !s.mustWait c

theorem ready_of {s : State} {fid op own : Nat} {c : Cmd} (h : readyB s fid op own c = true) : s.CmdReady fid op own c := by
  simp only [readyB, Bool.and_eq_true, beq_iff_eq, Option.isNone_iff_eq_none, Bool.not_eq_true'] at h
  obtain ⟨⟨⟨⟨⟨⟨⟨h1, h2⟩, h3⟩, h4⟩, h5⟩, h6⟩, h7⟩, h8⟩ := h
  exact ⟨h1, h2, h3, h4, h5, h6, h7, h8⟩

/- Premises of the statements that can be met: one theorem for each statement, its clauses in order. -/

/-- StepRunsFront, EmptyQueueTicks and EventsRunWithinFrames: the queue holds an event, the tile idles, an event has an effect. -/
theorem witness_block : ({ State.reset with pending := [.wake] } : State).pending = .wake :: [] ∧ State.reset.pending = [] ∧
    exec .wake State.reset = .next State.reset ∧ Instr.wf (.coreGate 8) = true :=
  ⟨rfl, rfl, rfl, rfl⟩

/-- StepKeepsInv: a serving tile in which one parameter is at the end of its range, and the step it takes with no event waiting. -/
theorem witness_StepKeepsInv : ({ up with params := [(0x0702 * 65536, 105)] } : State).Inv ∧
    ∃ t, step ({ up with params := [(0x0702 * 65536, 105)] } : State) = .next t :=
  ⟨⟨⟨by decide +kernel, by decide +kernel, by decide +kernel, by decide +kernel, by decide +kernel, by decide +kernel⟩,
    ⟨by decide +kernel, by decide +kernel⟩⟩, _, rfl⟩

/-- A tile whose row of die 0 has a bit of ROLLBACK set, and a ROW_HASH of no bytes, which matches nothing. -/
def burnt : State :=
  { up with nv := { up.nv with otp := { up.nv.otp with die0 := { up.nv.otp.die0 with rollback := 1, rowHash := [] } } } }

/-- A row without a ROW_HASH is not valid. -/
theorem noHash_invalid (r : OtpRow) (h : r.rowHash = []) : r.valid = false := by
  simp only [OtpRow.valid, h, decide_eq_false_iff_not]
  intro e
  have := congrArg List.length e
  simp [fixLen] at this
  omega

/-- OtpOnlyBurns: a step of a tile with a bit of ROLLBACK set in an invalid copy; an event that is no FW_SVN_COMMIT; the start of the boot ROM on a tile that runs. -/
theorem witness_OtpOnlyBurns : ((∃ t, step burnt = .next t) ∧ burnt.nv.otp.die0.rollback.getLsbD 0 = true ∧ burnt.nv.otp.die0.valid = false) ∧
    exec .wake State.reset = .next State.reset ∧
    (∀ fid, Instr.wake ≠ .fwSvnCommit fid ∧ (Instr.wake = .commandTakesEffect fid → ∀ x, State.reset.cmds.find fid = some x → x.opcode ≠ 0x92)) ∧
    Instr.wake ≠ .bootRomStart ∧ (∀ r, Instr.wake ≠ .fwRecoveryGo r) ∧ exec .bootRomStart up = .next up :=
  ⟨⟨⟨_, rfl⟩, rfl, noHash_invalid _ rfl⟩, rfl, fun _ => ⟨by simp, by simp⟩, by simp, by simp, rfl⟩

theorem witness_PowerAndReset : (withLife .off).boot.life = .off ∧ up.boot.life ≠ .off ∧ (State.reset.boot.life = .rom ∨ State.reset.boot.life = .tripped) := by
  decide +kernel

/-- A tile in which the PF's mailbox holds one write. -/
def boxed (s : State) (off val : Nat) : State :=
  { s with funcs := [(0, { Func.fresh with mbox := [⟨off, BitVec.ofNat 32 val, 1⟩] })] }

/-- A tile that halted for want of an image and offers recovery. -/
def noImg : State := { State.reset with boot := { State.reset.boot with life := .halted, phase := 7, haltCode := 2 } }

theorem witness_BootStartsAndCompletes : (State.reset.boot.life = .rom ∧ State.reset.boot.resetReq = none) ∧
    ((withLife .booting).boot.life = .booting ∧ (1 : BitVec 3) ≠ 0) ∧
    ((boxed noImg 0x808C 1).nextEntry = some (0, ⟨0x808C, 1, 1⟩) ∧ (boxed noImg 0x808C 1).drainRow 0 ⟨0x808C, 1, 1⟩ = .recovery ∧
      (boxed noImg 0x808C 1).linkOpen = true ∧ HostRead.expired ≠ .ok []) := by
  decide +kernel

theorem witness_BrownOutAndThermalTrip : up.boot.life ≠ .off ∧ ({ up with boot := { up.boot with resetReq := some 3 } } : State).boot.resetReq = some 3 ∧
    up.boot.life ∉ [Life.off, .bivouac, .tripped] := by
  decide +kernel

theorem witness_BivouacRows : ((boxed up 0x901C 1).nextEntry = some (0, ⟨0x901C, 1, 1⟩) ∧ (boxed up 0x901C 1).drainRow 0 ⟨0x901C, 1, 1⟩ = .bivouac ∧
      (boxed up 0x901C 1).boot.life = .serving ∧ (boxed up 0x901C 1).param 0x0705 0 ≠ 0) ∧
    ((withLife .entering).boot.life = .entering ∧ (withLife .entering).quiet = true) ∧ (withLife .bivouac).boot.life = .bivouac ∧
    ((withLife .entering).boot.life = .entering ∧ (withLife .entering).boot.wakeQueued = false) ∧ (withLife .waking).boot.life = .waking ∧
    (8 < (withLife .waking).pcores.length ∧ 49151 < scratchRows ∧ Ranges.has ((withLife .waking).residentRows 8) 49151 = false) := by
  decide +kernel

theorem witness_FunctionResets : (busy.hostLives = true ∧ 255 ≠ 0 ∧ busy.ctx 5 = some ctx5 ∧ ctx5.func ≠ 255) ∧ noImg.hostLives = true ∧
    (∀ p ∈ busy.ctxs, p.2.func ≠ 255) ∧ up.ctxs = [] := by
  decide +kernel

/-- A tile with its link in a given state. -/
def linked (f : Link → Link) : State := { up with link := f up.link }

theorem witness_LinkRepair : (up.mainBand = true ∧ (up.link.module true).state = .up ∧ (up.link.module true).spares ≠ 0) ∧
    ((linked (fun l => { l with m1 := { l.m1 with spares := 0 } })).mainBand = true ∧
      ((linked (fun l => { l with m1 := { l.m1 with spares := 0 } })).link.module true).state = .up ∧
      ((linked (fun l => { l with m1 := { l.m1 with spares := 0 } })).link.module true).spares = 0) ∧
    ((linked (fun l => { l with m0 := { l.m0 with state := .degraded } })).mainBand = true ∧
      ((linked (fun l => { l with m0 := { l.m0 with state := .degraded } })).link.module false).state = .degraded) ∧
    ((linked (fun l => { l with m0 := { l.m0 with state := .repairing } })).mainBand = true ∧
      ((linked (fun l => { l with m0 := { l.m0 with state := .repairing } })).link.module false).state = .repairing) ∧
    ((linked (fun l => { l with ideEnabled := true, ideSecure := true })).mainBand = true ∧
      (linked (fun l => { l with ideEnabled := true, ideSecure := true })).link.ideEnabled = true ∧
      (linked (fun l => { l with ideEnabled := true, ideSecure := true })).link.ideSecure = true) := by
  decide +kernel

theorem witness_SpdmAnswers : up.doeOpen = true ∧
    ((linked (fun l => { l with spdm := some (1, []) })).doeOpen = true ∧ (linked (fun l => { l with spdm := some (1, []) })).link.spdm ≠ none) ∧
    up.link.spdm = none := by
  decide +kernel

theorem fixLen_twice (n : Nat) (b : Bytes) : fixLen n (fixLen n b) = fixLen n b := by
  have h : (fixLen n b).length = n := by simp [fixLen]; omega
  have e : fixLen n (fixLen n b) = (fixLen n b).take n ++ List.replicate (n - (fixLen n b).length) 0#8 := rfl
  rw [e, h, Nat.sub_self, List.replicate_zero, List.append_nil, List.take_of_length_le (Nat.le_of_eq h)]

/-- SpdmAnswers: the chain that manufacture stores meets R365, and the tile takes a step. -/
theorem witness_SpdmAnswers_chain : up.nv.chainOk = true ∧ ∃ t, step up = .next t := by
  refine ⟨?_, _, rfl⟩
  have hr : up.nv.otp.row = OtpRow.made := by simp only [Otp.row]; split <;> rfl
  have hl : up.nv.certChain.length ≤ 8192 := by
    simp only [Nv.certChain, show up.nv.rootCert = Nv.madeRoot from rfl, show up.nv.leafCert = Nv.madeLeaf from rfl, Nv.madeLeaf, List.length_append, List.length_take]
    have : Nv.madeRoot.length ≤ 8192 := by simp only [Nv.madeRoot, List.length_take]; omega
    omega
  have hs : fixLen 48 OtpRow.made.signerHash = fixLen 48 (Config.sha384 (Config.certKey up.nv.rootCert)) := by
    simp only [OtpRow.made, OtpRow.hash, show up.nv.rootCert = Nv.madeRoot from rfl, fixLen_twice]
  simp only [Nv.chainOk, hr, hl, hs, decide_true, Bool.true_and, Bool.and_true]
  exact decide_eq_true rfl

/-- A tile whose PF has a write in its mailbox, the first to arrive. -/
def one20 : State := { boxed up 0x1020 0 with pf := { up.pf with arrivals := 1 } }

/-- A tile whose VF 9 has a full mailbox. -/
def full9 : State := { busy with funcs := [(9, { Func.fresh with mbox := List.replicate 64 ⟨0x1020, 0, 1⟩ })] }

theorem witness_HostAccesses : up.hostIn = true ∧
    (busy.hostIn = true ∧ busy.boot.ready = true ∧ 3 < 32768 ∧ (63#64).toNat.testBit 16 = false ∧ busy.queues.get? 3 = some pair3 ∧ busy.ctx pair3.ctx = some ctx5 ∧
      ctx5.func = 0 ∧ pair3.state = .active ∧ (63#64).toNat % 65536 < pair3.depth ∧ pair3.depth ≤ (64#64).toNat % 65536 ∧ (64#64).toNat.testBit 16 = false) ∧
    ((65540#64).toNat.testBit 16 = true ∧ headOk pair3.depth pair3.cqHead pair3.cqTail ((65540#64).toNat % 65536) = true ∧ pair3.held = [] ∧
      (65541#64).toNat.testBit 16 = true ∧ headOk pair3.depth pair3.cqHead pair3.cqTail ((65541#64).toNat % 65536) = false) ∧
    16383 < 16384 ∧ ctx5.func ≠ 1 ∧ (¬(2 = 4 ∧ 0 % 4 = 0) ∧ ¬(2 = 8 ∧ 0 % 8 = 0) ∧ ¬(8 = 4 ∧ 131060 % 4 = 0) ∧ ¬(8 = 8 ∧ 131060 % 8 = 0) ∧ 131060 + 8 ≤ 131072) ∧
    ((busy.boot.ready = true ∨ busy.answersEarly 65532 = true) ∧ 65532 % 4 = 0 ∧ 65532 + 4 ≤ 65536 ∧ (busy.func 255).mbox.length < 64 ∧ noImg.answersEarly 0x808C = true) ∧
    (full9.hostIn = true ∧ full9.boot.ready = true ∧ 64 ≤ (full9.func 9).mbox.length) ∧
    ((busy.func 0).mbox = [] ∧ (busy.func 0).reads = []) ∧
    (one20.hostIn = true ∧ (one20.func 0).mbox.head? = some ⟨0x1020, 0, 1⟩ ∧ 1 ≤ one20.pf.arrivals ∧ (one20.func 0).reads = []) ∧ (2047 < 2048 ∧ 3 < 4) := by
  decide +kernel

/-- The PF with a running admin queue of depth 64 and one write in its mailbox. -/
def admBox (off val : Nat) : State :=
  { up with funcs := [(0, { Func.fresh with
      mbox := [⟨off, BitVec.ofNat 32 val, 1⟩]
      admin := { AdminQ.fresh with depthM1 := 63, enable := true, running := true, cqTail := 4 } })] }

theorem witness_DrainsGiveEffect :
    ((admBox 0x1014 63).nextEntry = some (0, ⟨0x1014, 63, 1⟩) ∧ (admBox 0x1014 63).drainRow 0 ⟨0x1014, 63, 1⟩ = .adminTail ∧ ((admBox 0x1014 63).func 0).admin.enable = true ∧
      ((admBox 0x1014 63).func 0).admin.running = true ∧ ((admBox 0x1014 63).func 0).admin.error = false ∧
      (63#32).toNat % 65536 ≤ ((admBox 0x1014 63).func 0).admin.depthM1.toNat) ∧
    ((admBox 0x1014 65540).nextEntry = some (0, ⟨0x1014, 65540, 1⟩) ∧ (admBox 0x1014 65540).drainRow 0 ⟨0x1014, 65540, 1⟩ = .adminHead ∧
      ((admBox 0x1014 65540).func 0).admin.held = [] ∧ headOk (((admBox 0x1014 65540).func 0).admin.depthM1.toNat + 1) ((admBox 0x1014 65540).func 0).admin.cqHead
        ((admBox 0x1014 65540).func 0).admin.cqTail ((65540#32).toNat % 65536) = true) ∧
    ((boxed up 0x1010 65599).nextEntry = some (0, ⟨0x1010, 65599, 1⟩) ∧ (boxed up 0x1010 65599).drainRow 0 ⟨0x1010, 65599, 1⟩ = .adminOn ∧
      ((boxed up 0x1010 65599).func 0).admin.enable = false ∧ ((boxed up 0x1010 65599).func 0).admin.held = [] ∧ 63 ≤ (65599#32).toNat % 65536) ∧
    ((admBox 0x1010 0).nextEntry = some (0, ⟨0x1010, 0, 1⟩) ∧ (admBox 0x1010 0).drainRow 0 ⟨0x1010, 0, 1⟩ = .adminOff ∧ ((admBox 0x1010 0).func 0).admin.enable = true) ∧
    ((boxed up 0x0018 23).nextEntry = some (0, ⟨0x0018, 23, 1⟩) ∧ (boxed up 0x0018 23).drainRow 0 ⟨0x0018, 23, 1⟩ = .spare ∧ (boxed up 0x0018 23).sparing.usable = true ∧
      (boxed up 0x0018 23).sparing.busy = none ∧ (boxed up 0x0018 23).sparing.wanted = none ∧ (boxed up 0x0018 23).carried 8 = none) ∧
    ((boxed up 0x505C 1).nextEntry = some (0, ⟨0x505C, 1, 1⟩) ∧ (boxed up 0x505C 1).drainRow 0 ⟨0x505C, 1, 1⟩ = .register) := by
  decide +kernel

def okB : ClaimRes → Bool
  | .ok _ => true
  | _ => false

theorem ok_of {r : ClaimRes} (h : okB r = true) : ∃ t, r = .ok t := by
  cases r with
  | ok t => exact ⟨t, rfl⟩
  | wait t => simp [okB] at h
  | refused => simp [okB] at h

/-- The serving tile with one fetched command of context 5's queue, or of the PF's admin queue. -/
def onC (op : Nat) (fields : List (Nat × Nat)) : State := withCmd busy (ctxC op fields)
def onA (op : Nat) (fields : List (Nat × Nat)) : State := withCmd busy (admC op fields)

/-- An admin command of VF 9 on the context or the queue of a number. -/
def of9 (op n : Nat) : Cmd := { admC op [(64, n)] with q := .admin 9, func := 9 }

/-- A reserved bit of an entry, the last one. -/
def resv : List (Nat × Nat) := [(511, 1)]

theorem witness_FetchAndRefusal :
    ((onC 0x07 []).cmds.find 7 = some (ctxC 0x07 []) ∧ (onC 0x07 []).commandsRun = true ∧ (ctxC 0x07 []).stage = .fetched ∧ (ctxC 0x07 []).opcodeOk = false) ∧
    (∀ op ∈ [0x81, 0x82, 0x83, 0x96], (of9 op 5).opcodeOk = true ∧ (withCmd busy (of9 op 5)).cmds.find 7 = some (of9 op 5) ∧ (withCmd busy (of9 op 5)).permits (of9 op 5) = false) ∧
    ((of9 0x84 3).opcodeOk = true ∧ (withCmd busy (of9 0x84 3)).commandsRun = true ∧ (of9 0x84 3).stage = .fetched ∧ (withCmd busy (of9 0x84 3)).permits (of9 0x84 3) = false) ∧
    ((onC 0x09 resv).cmds.find 7 = some (ctxC 0x09 resv) ∧ (onC 0x09 resv).commandsRun = true ∧ (ctxC 0x09 resv).opcodeOk = true ∧ (onC 0x09 resv).permits (ctxC 0x09 resv) = true ∧
      (ctxC 0x09 resv).precheck stBadField = some stBadField ∧ (ctxC 0x09 resv).opcode = 0x09) ∧
    ((onC 0x08 resv).cmds.find 7 = some (ctxC 0x08 resv) ∧ (ctxC 0x08 resv).opcodeOk = true ∧ (ctxC 0x08 resv).precheck stStreamBadArgs = some stStreamBadArgs ∧
      (ctxC 0x08 resv).opcode = 0x08) ∧
    ((ctxC 0x28 resv).opcodeOk = true ∧ (ctxC 0x28 resv).precheck stBadField = some stBadField ∧ (ctxC 0x28 resv).opcode = 0x28) ∧
    ((admC 0x80 resv).opcodeOk = true ∧ (admC 0x80 resv).precheck stBadField = some stBadField ∧ (admC 0x80 resv).opcode = 0x80) ∧
    ((admC 0x91 resv).opcodeOk = true ∧ (admC 0x91 resv).precheck stBadField = some stBadField ∧ (admC 0x91 resv).opcode = 0x91) ∧
    (({ busy with queues := [(3, { pair3 with sqTail := 1 })] } : State).fetches = true ∧
      ({ busy with queues := [(3, { pair3 with sqTail := 1 })] } : State).arbitrate = some (⟨259, 0, 0⟩, 0, 1) ∧ keyQueue 259 = .pair 3 ∧
      ∀ p ∈ ({ busy with queues := [(3, { pair3 with sqTail := 1 })] } : State).ctxs, p.2.replay.active = false) ∧
    ((admBox 0x1014 63).modFunc 0 (fun f => { f with admin := { f.admin with sqTail := 1 } })).arbitrate = some (⟨0, 0, 0⟩, 0, 1) ∧ keyQueue 0 = .admin 0 := by
  decide +kernel

/-- An open stream of context 5: one tile at address 0 and no KV sequence. -/
def strm5 : Strm := (ctxC 0x08 [(112, 1), (160, 0xFFFFFFFF)]).newStrm

def withStrm (s : State) : State := { s with strms := [(64, strm5)] }

/-- Two commands of context 5: the earlier one has not begun. -/
def two (c : Cmd) : State := { withStrm busy with cmds := { list := [{ ctxC 0x0D [(64, 64)] with fid := 6 }, c], next := 8 } }

def pauseC : Cmd := ctxC 0x09 [(64, 64)]

theorem witness_DeferredCommands :
    ((two pauseC).cmds.find 7 = some pauseC ∧ (two pauseC).commandsRun = true ∧ pauseC.opcode = 0x09 ∧ pauseC.opcodeOk = true ∧ pauseC.stage = .fetched ∧
      (two pauseC).permits pauseC = true ∧ pauseC.precheck stBadField = none ∧ (two pauseC).mustWait pauseC = true) ∧
    ((withStrm (withCmd busy { pauseC with stage := .deferred })).cmds.find 7 = some { pauseC with stage := .deferred } ∧
      (withStrm (withCmd busy { pauseC with stage := .deferred })).mustWait { pauseC with stage := .deferred } = false ∧
      (withStrm (withCmd busy { pauseC with stage := .deferred })).cmdStrm { pauseC with stage := .deferred } = some strm5) := by
  decide +kernel

/-- STREAM_OPEN of one tile at 128 KiB without a KV sequence, and one whose tile count is zero. -/
def openC : Cmd := ctxC 0x08 [(64, 131072), (112, 1), (160, 0xFFFFFFFF)]
def badOpenC : Cmd := ctxC 0x08 [(64, 65536), (160, 0xFFFFFFFF)]

theorem witness_StreamCommands :
    ((withStrm (withCmd busy openC)).CmdReady 7 0x08 stStreamBadArgs openC ∧ (withStrm (withCmd busy openC)).strmArgsOk openC.newStrm = true ∧
      (withStrm (withCmd busy openC)).ctx openC.ctxNo = some ctx5 ∧ (withStrm (withCmd busy openC)).strms.firstFree ctx5.first (ctx5.first + ctx5.size) = some 65) ∧
    ((withCmd busy badOpenC).CmdReady 7 0x08 stStreamBadArgs badOpenC ∧ (withCmd busy badOpenC).strmArgsOk badOpenC.newStrm = false) ∧
    ((withStrm (onC 0x09 [(64, 64)])).CmdReady 7 0x09 stBadField (ctxC 0x09 [(64, 64)]) ∧ (withStrm (onC 0x09 [(64, 64)])).cmdStrm (ctxC 0x09 [(64, 64)]) = some strm5) ∧
    (withStrm (onC 0x0A [(64, 64)])).CmdReady 7 0x0A stBadField (ctxC 0x0A [(64, 64)]) ∧ (withStrm (onC 0x0B [(64, 64)])).CmdReady 7 0x0B stBadField (ctxC 0x0B [(64, 64)]) ∧
    (withStrm (onC 0x0C [(64, 64)])).CmdReady 7 0x0C stBadField (ctxC 0x0C [(64, 64)]) ∧ (withStrm (onC 0x0D [(64, 64)])).CmdReady 7 0x0D stBadField (ctxC 0x0D [(64, 64)]) ∧
    ((onC 0x09 [(64, 127)]).CmdReady 7 0x09 stBadField (ctxC 0x09 [(64, 127)]) ∧ (onC 0x09 [(64, 127)]).cmdStrm (ctxC 0x09 [(64, 127)]) = none) :=
  ⟨⟨ready_of (by decide +kernel), by decide +kernel, by decide +kernel, by decide +kernel⟩, ⟨ready_of (by decide +kernel), by decide +kernel⟩,
    ⟨ready_of (by decide +kernel), by decide +kernel⟩, ready_of (by decide +kernel), ready_of (by decide +kernel), ready_of (by decide +kernel), ready_of (by decide +kernel),
    ready_of (by decide +kernel), by decide +kernel⟩

/-- KV_POOL_CREATE: one page, head dimension 32, BF16, one lane, two records, four entries. -/
def poolC : Cmd := ctxC 0x10 [(128, 1), (160, 32), (176, 1), (192, 1), (224, 2), (256, 4)]

/-- Context 5 with that pool and one sequence of 128 positions in it. -/
def pool5 : KvPool := { poolC.newPool with list := [(0, 0)], counts := [(0, 1)], seqs := [(0, ⟨128, 0, 1, 0⟩)] }
def withPool (s : State) : State := s.modCtx 5 (fun c => { c with kv := some pool5 })

theorem witness_KvPoolCommands :
    ((withCmd busy poolC).CmdReady 7 0x10 stBadField poolC ∧ poolC.newPool.argsOk = true ∧ (withCmd busy poolC).kv? poolC.ctxNo = none ∧
      ∃ t, (withCmd busy poolC).claimTiles poolC.ctxNo chargeKv poolC.newPool.metaTiles = .ok t) ∧
    ((withPool (onC 0x11 [])).CmdReady 7 0x11 stBadField (ctxC 0x11 []) ∧ (withPool (onC 0x11 [])).kv? (ctxC 0x11 []).ctxNo = some pool5) :=
  ⟨⟨ready_of (by decide +kernel), by decide +kernel, by decide +kernel, ok_of (by decide +kernel)⟩, ready_of (by decide +kernel), by decide +kernel⟩

def kvOpenC : Cmd := ctxC 0x12 [(64, 3)]
/-- The same with every holder that a page can have. -/
def fullPool : KvPool := { pool5 with counts := [(0, 65535)] }
def forkC : Cmd := ctxC 0x13 [(64, 0), (96, 128), (128, 1)]
def cutC : Cmd := ctxC 0x14 [(64, 0), (96, 128)]

theorem witness_KvSequenceCommands :
    ((withPool (withCmd busy kvOpenC)).CmdReady 7 0x12 stBadField kvOpenC ∧ (withPool (withCmd busy kvOpenC)).kv? kvOpenC.ctxNo = some pool5 ∧
      pool5.place (kvOpenC.fld 8 4) = some (1, 1)) ∧
    ((withPool (withCmd busy forkC)).CmdReady 7 0x13 stBadField forkC ∧ pool5.seqs.get? (forkC.fld 8 4) = some ⟨128, 0, 1, 0⟩ ∧ forkC.fld 12 4 ≤ 128 ∧
      cdiv (forkC.fld 12 4) pool5.p ≤ forkC.fld 16 4 ∧ pool5.place (forkC.fld 16 4) = some (1, 1) ∧ forkC.fork = none ∧
      ∀ e ∈ pool5.sharedEntries ⟨128, 0, 1, 0⟩ (cdiv (forkC.fld 12 4) pool5.p), AList.getD pool5.counts e.2 0 < 65535) ∧
    (((withCmd busy forkC).modCtx 5 (fun c => { c with kv := some fullPool })).CmdReady 7 0x13 stBadField forkC ∧ fullPool.seqs.get? (forkC.fld 8 4) = some ⟨128, 0, 1, 0⟩ ∧
      fullPool.place (forkC.fld 16 4) = some (1, 1) ∧ fullPool.freePages + fullPool.limbo.length <
        ((fullPool.sharedEntries ⟨128, 0, 1, 0⟩ (cdiv (forkC.fld 12 4) fullPool.p)).filter (fun e => 65535 ≤ AList.getD fullPool.counts e.2 0)).length) ∧
    ((withPool (withCmd busy cutC)).CmdReady 7 0x14 stBadField cutC ∧ pool5.seqs.get? (cutC.fld 8 4) = some ⟨128, 0, 1, 0⟩ ∧ cutC.fld 12 4 ≤ 128) ∧
    ((withPool (onC 0x15 [])).CmdReady 7 0x15 stBadField (ctxC 0x15 []) ∧ (⟨128, 0, 1, 0⟩ : SeqRec).binds = 0) ∧
    (({ pool5 with seqs := [(0, ⟨128, 0, 1, 65535⟩)] } : KvPool).seqs.get? ((ctxC 0x15 []).fld 8 4) = some ⟨128, 0, 1, 65535⟩ ∧ (65535 : Nat) ≠ 0) ∧
    (withPool (onC 0x16 [])).CmdReady 7 0x16 stBadField (ctxC 0x16 []) :=
  ⟨⟨ready_of (by decide +kernel), by decide +kernel, by decide +kernel⟩,
    ⟨ready_of (by decide +kernel), by decide +kernel⟩, ⟨ready_of (by decide +kernel), by decide +kernel⟩, ⟨ready_of (by decide +kernel), by decide +kernel⟩,
    ⟨ready_of (by decide +kernel), by decide +kernel⟩, by decide +kernel, ready_of (by decide +kernel)⟩

/-- One host segment, one MODEL segment, and the model 0 that context 5 may attach. -/
def hostSeg : Seg := (ctxC 0x18 [(128, 4)]).newSeg false 0 0 0
def modelSeg : Seg := { hostSeg with kind := .model, tiles := [Tile.fresh .lower 0 0] }
def mod0 : Model :=
  { func := 0, tag := 0, serial := 1, segs := 1, units := [0], damaged := false, attached := none, prot := false, nonce := [], digest := [],
    tables := [], tiles := List.replicate 32 ⟨0, 0, none⟩ }
def withSegs (s : State) (l : AList Seg) : State := s.modCtx 5 (fun c => { c with segs := l })
def withModel (m : Model) (s : State) : State := { s with nv := { s.nv with models := [(0, m)] } }
/-- Whether frames can be taken for a segment of context 5 once its charge is made. -/
def fits (g : Nat) : ClaimRes → Bool
  | .ok t => (t.takeFrames 5 [g]).isSome
  | _ => false

theorem fits_of {r : ClaimRes} {g : Nat} (h : fits g r = true) : ∃ t u fs, r = .ok t ∧ t.takeFrames 5 [g] = some (u, fs) := by
  cases r with
  | ok t => obtain ⟨x, hx⟩ := Option.isSome_iff_exists.mp h; exact ⟨t, x.1, x.2, rfl, hx⟩
  | wait t => simp [fits] at h
  | refused => simp [fits] at h

/-- The last segment number, alone. -/
def lastSeg (kind : Nat) : List (Nat × Nat) := [(64, 2 ^ 27 - 1), (96, 1), (128, kind)]

theorem witness_SegmentCommands :
    ((onC 0x18 (lastSeg 4)).CmdReady 7 0x18 stBadField (ctxC 0x18 (lastSeg 4)) ∧
      ((ctxC 0x18 (lastSeg 4)).fld 12 4 ≠ 0 ∧ (ctxC 0x18 (lastSeg 4)).fld 16 1 % 8 = 4 ∧ (ctxC 0x18 (lastSeg 4)).fld 8 4 + (ctxC 0x18 (lastSeg 4)).fld 12 4 ≤ 2 ^ 27 ∧
        (onC 0x18 (lastSeg 4)).ctx (ctxC 0x18 (lastSeg 4)).ctxNo = some ctx5 ∧ ctx5.segsIn (2 ^ 27 - 1) 1 = [] ∧ ctx5.segs.length + 1 ≤ 2 ^ 20) ∧
      ∃ t, (onC 0x18 (lastSeg 4)).mapSegs (ctxC 0x18 (lastSeg 4)).ctxNo 0 ((List.range ((ctxC 0x18 (lastSeg 4)).fld 12 4)).map (fun i =>
        (i + (ctxC 0x18 (lastSeg 4)).fld 8 4, (ctxC 0x18 (lastSeg 4)).newSeg ctx5.confidential i ((ctxC 0x18 (lastSeg 4)).fld 18 2) 0))) = .ok t) ∧
    ((withSegs (onC 0x18 (lastSeg 1)) [(2 ^ 27 - 1, hostSeg)]).CmdReady 7 0x18 stBadField (ctxC 0x18 (lastSeg 1)) ∧
      (ctxC 0x18 (lastSeg 1)).fld 16 1 % 8 ∈ [1, 2, 4] ∧
      (∃ x, (withSegs (onC 0x18 (lastSeg 1)) [(2 ^ 27 - 1, hostSeg)]).ctx 5 = some x ∧ x.segsIn (2 ^ 27 - 1) 1 ≠ [])) ∧
    ((onC 0x18 (lastSeg 1)).CmdReady 7 0x18 stBadField (ctxC 0x18 (lastSeg 1)) ∧ (ctxC 0x18 (lastSeg 1)).fld 16 1 % 8 = 1 ∧
      ∃ t u fs, (onC 0x18 (lastSeg 1)).mapSegs 5 ((ctxC 0x18 (lastSeg 1)).fld 12 4) [(2 ^ 27 - 1, (ctxC 0x18 (lastSeg 1)).newSeg false 0 0 0)] = .ok t ∧
        t.takeFrames 5 [2 ^ 27 - 1] = some (u, fs)) ∧
    ((withSegs (onC 0x19 (lastSeg 0)) [(2 ^ 27 - 1, modelSeg)]).CmdReady 7 0x19 stBadField (ctxC 0x19 (lastSeg 0)) ∧
      ({ ctx5 with segs := [(2 ^ 27 - 1, modelSeg)] } : Ctx).segsIn (2 ^ 27 - 1) 1 = [(2 ^ 27 - 1, modelSeg)] ∧ modelSeg.kind = .model) ∧
    ((withSegs (onC 0x19 (lastSeg 0)) [(2 ^ 27 - 1, hostSeg)]).CmdReady 7 0x19 stBadField (ctxC 0x19 (lastSeg 0)) ∧
      ({ ctx5 with segs := [(2 ^ 27 - 1, hostSeg)] } : Ctx).segsIn (2 ^ 27 - 1) 1 = [(2 ^ 27 - 1, hostSeg)] ∧ hostSeg.kind = .host ∧ hostSeg.tiles = []) ∧
    ((withSegs (onC 0x1A (lastSeg 0)) [(2 ^ 27 - 1, modelSeg)]).CmdReady 7 0x1A stBadField (ctxC 0x1A (lastSeg 0)) ∧
      ({ ctx5 with segs := [(2 ^ 27 - 1, modelSeg)] } : Ctx).segsIn (2 ^ 27 - 1) 1 = [(2 ^ 27 - 1, modelSeg)] ∧ modelSeg.kind = .model) ∧
    ((onC 0x1A [(64, 2 ^ 27 - 1)]).CmdReady 7 0x1A stBadField (ctxC 0x1A [(64, 2 ^ 27 - 1)]) ∧ (ctxC 0x1A [(64, 2 ^ 27 - 1)]).fld 12 4 = 0) ∧
    (onC 0x1B [(64, 2 ^ 27 - 1)]).CmdReady 7 0x1B stBadField (ctxC 0x1B [(64, 2 ^ 27 - 1)]) :=
  ⟨⟨ready_of (by decide +kernel), by decide +kernel, ok_of (by decide +kernel)⟩, ⟨ready_of (by decide +kernel), by decide +kernel, _, rfl, by decide +kernel⟩,
    ⟨ready_of (by decide +kernel), by decide +kernel, fits_of (by decide +kernel)⟩, ⟨ready_of (by decide +kernel), by decide +kernel⟩,
    ⟨ready_of (by decide +kernel), by decide +kernel⟩, ⟨ready_of (by decide +kernel), by decide +kernel⟩, ⟨ready_of (by decide +kernel), by decide +kernel⟩,
    ready_of (by decide +kernel)⟩

theorem witness_ModelCommands :
    ((withModel mod0 (onC 0x21 [(192, 0)])).CmdReady 7 0x21 stBadField (ctxC 0x21 [(192, 0)]) ∧
      ((withModel mod0 (onC 0x21 [(192, 0)])).ownModel (ctxC 0x21 [(192, 0)]) = some mod0 ∧ mod0.tag = (ctxC 0x21 [(192, 0)]).fld 16 8 ∧
        (withModel mod0 (onC 0x21 [(192, 0)])).ctx (ctxC 0x21 [(192, 0)]).ctxNo = some ctx5 ∧ mod0.attached = none ∧ mod0.damaged = false ∧ mod0.prot = ctx5.confidential ∧
        (ctxC 0x21 [(192, 0)]).fld 24 4 + mod0.segs ≤ 2 ^ 27 ∧ ctx5.segsIn ((ctxC 0x21 [(192, 0)]).fld 24 4) mod0.segs = [] ∧ ctx5.segs.length + mod0.segs ≤ 2 ^ 20) ∧
      ∃ t, (withModel mod0 (onC 0x21 [(192, 0)])).mapSegs (ctxC 0x21 [(192, 0)]).ctxNo 0
        (mod0.segsAt ((ctxC 0x21 [(192, 0)]).fld 8 2) ((ctxC 0x21 [(192, 0)]).fld 24 4)) = .ok t) ∧
    ((withModel { mod0 with attached := some 5 } (onC 0x21 [])).CmdReady 7 0x21 stBadField (ctxC 0x21 []) ∧
      (withModel { mod0 with attached := some 5 } (onC 0x21 [])).ownModel (ctxC 0x21 []) = some { mod0 with attached := some 5 }) ∧
    ((withModel { mod0 with attached := some 5 } (withSegs (onC 0x22 []) [(0, modelSeg)])).CmdReady 7 0x22 stBadField (ctxC 0x22 []) ∧
      (withModel { mod0 with attached := some 5 } (onC 0x22 [])).ownModel (ctxC 0x22 []) = some { mod0 with attached := some 5 } ∧ (ctxC 0x22 []).ctx = some 5 ∧
      ∀ i ∈ modelSeg.tiles, i.kept = false) ∧
    ((withModel { mod0 with damaged := true } (onC 0x21 [])).CmdReady 7 0x21 stBadField (ctxC 0x21 []) ∧
      (withModel { mod0 with damaged := true } (onC 0x21 [])).ownModel (ctxC 0x21 []) = some { mod0 with damaged := true } ∧
      ((withModel { mod0 with damaged := true } (onC 0x21 [])).ctx (ctxC 0x21 []).ctxNo).isSome = true) ∧
    ((withModel { mod0 with attached := some 5 } (onC 0x23 [])).CmdReady 7 0x23 stBadField (ctxC 0x23 []) ∧
      (withModel { mod0 with attached := some 5 } (onC 0x23 [])).ownModel (ctxC 0x23 []) = some { mod0 with attached := some 5 }) ∧
    (withModel mod0 (onC 0x23 [])).CmdReady 7 0x23 stBadField (ctxC 0x23 []) ∧ (withModel mod0 (onC 0x24 [])).CmdReady 7 0x24 stBadField (ctxC 0x24 []) ∧
    ((withModel mod0 (onC 0x24 [])).ownModel (ctxC 0x24 []) = some mod0 ∧ mod0.tag = (ctxC 0x23 []).fld 16 8) ∧
    ((onC 0x20 []).CmdReady 7 0x20 stBadField (ctxC 0x20 []) ∧ (onC 0x20 []).flash.blocked = false ∧ (onC 0x20 []).flash.paused = false) :=
  ⟨⟨ready_of (by decide +kernel), by decide +kernel, ok_of (by decide +kernel)⟩, ⟨ready_of (by decide +kernel), by decide +kernel⟩,
    ⟨ready_of (by decide +kernel), by decide +kernel⟩, ⟨ready_of (by decide +kernel), by decide +kernel⟩, ⟨ready_of (by decide +kernel), by decide +kernel⟩,
    ready_of (by decide +kernel), ready_of (by decide +kernel), by decide +kernel, ready_of (by decide +kernel), by decide +kernel⟩

/-- Windows: 64 bytes at the top of the host's addresses, and a length that is no multiple of 64; context 5 with window 1023 open. -/
def topWin : List (Nat × Nat) := [(64, 2 ^ 64 - 64), (128, 64)]
def withWin (s : State) (len : Nat) : State := s.modCtx 5 (fun c => { c with windows := [(1023, ⟨0, len, none⟩)] })

theorem witness_WindowCommands :
    ((onC 0x28 topWin).CmdReady 7 0x28 stBadField (ctxC 0x28 topWin) ∧ (onC 0x28 topWin).ctx (ctxC 0x28 topWin).ctxNo = some ctx5 ∧ ctx5.windows.firstFree 0 1024 = some 0 ∧
      ((onC 0x28 topWin).ctxs.map (fun y => y.2.windows.length)).sum < 16384 ∧ (ctxC 0x28 topWin).fld 8 8 % 64 = 0 ∧ (ctxC 0x28 topWin).fld 16 8 % 64 = 0 ∧
      64 ≤ (ctxC 0x28 topWin).fld 16 8 ∧ (ctxC 0x28 topWin).fld 8 8 + (ctxC 0x28 topWin).fld 16 8 ≤ 2 ^ 64) ∧
    ((onC 0x28 [(128, 65)]).CmdReady 7 0x28 stBadField (ctxC 0x28 [(128, 65)]) ∧ (ctxC 0x28 [(128, 65)]).fld 16 8 % 64 ≠ 0) ∧
    ((withWin (onC 0x29 [(64, 1023)]) 64).CmdReady 7 0x29 stBadField (ctxC 0x29 [(64, 1023)]) ∧
      (∃ x, (withWin (onC 0x29 [(64, 1023)]) 64).ctx 5 = some x ∧ x.windows.has ((ctxC 0x29 [(64, 1023)]).fld 8 2) = true)) ∧
    ((onC 0x29 [(64, 1023)]).CmdReady 7 0x29 stBadField (ctxC 0x29 [(64, 1023)]) ∧ ctx5.windows.has ((ctxC 0x29 [(64, 1023)]).fld 8 2) = false) :=
  ⟨⟨ready_of (by decide +kernel), by decide +kernel⟩, ⟨ready_of (by decide +kernel), by decide +kernel⟩, ⟨ready_of (by decide +kernel), _, rfl, by decide +kernel⟩,
    ready_of (by decide +kernel), by decide +kernel⟩

/-- A schedule image of core 0, one stream of one position, one LOCAL MOVE of no bytes with END, three dispatch rows, no token and a step budget of
one cycle (R134 to R144). -/
def imgRest : Bytes :=
  toLe (packBits [(0, 1), (16, 1), (32, 1), (48, 1), (64, 8)]) 48 ++
  toLe (packBits [(0, 1), (32, 128), (64, 64), (96, 1)]) 16 ++ toLe (packBits [(0, 2), (32, 192), (64, 16), (96, 1)]) 16 ++
  toLe (packBits [(0, 3), (8, 255), (32, 256)]) 16 ++ toLe (packBits [(0, 6), (8, 255), (32, 256), (64, 64), (96, 1)]) 16 ++
  toLe (packBits [(0, 5), (10, 1)]) 64 ++ toLe (packBits [(16, 3), (32, 2)]) 64 ++ toLe (packBits [(256, 1)]) 64
/-- The whole image; its CRC-32 is that of bytes 16 to 319 (R134). -/
def img0 : Bytes := toLe (packBits [(0, 0x4C554749), (32, 1), (48, 4), (64, 320), (96, 2450487275)]) 16 ++ imgRest

/-- The loading of that image through window 0, and the state around it. -/
def loadC : Cmd := ctxC 0x02 [(192, 320)]
def openWin (s : State) (len : Nat) : State := s.modCtx 5 (fun c => { c with windows := [(0, ⟨0, len, none⟩)] })
def loadS : State := openWin (withCmd busy loadC) 320
/-- The two window reads of the loading, and the tile after them. -/
def loadH : WinRead := loadS.winRead loadC.ctxNo (loadC.fld 8 2) (loadC.fld 16 8) 64 none (.ok img0)
def loadW : WinRead := loadH.s.winRead loadC.ctxNo (loadC.fld 8 2) (loadC.fld 16 8) (leAt img0 8 4) none (.ok img0)
def loadT : State := loadW.s.countViol loadC.ctxNo loadW.viol
def unloadC : Cmd := ctxC 0x03 [(64, 0)]
/-- Context 5 with that image admitted in slot 0. -/
def adm0 : Image := { parseImage img0 with ctx := 5 }
def withImg (s : State) : State := { s with images := { imgs := [(0, adm0)], nextGen := [] } }

set_option maxRecDepth 100000 in
theorem witness_ScheduleCommands :
    ((onC 0x02 [(192, 63)]).CmdReady 7 0x02 stBadField (ctxC 0x02 [(192, 63)]) ∧ 0 < (onC 0x02 [(192, 63)]).freeTags ∧ (ctxC 0x02 [(192, 63)]).fld 24 4 < 64) ∧
    (loadS.CmdReady 7 0x02 stBadField loadC ∧ (0 < loadS.freeTags ∧ 64 ≤ loadC.fld 24 4 ∧ loadH.data = some (img0.take 64) ∧ leAt (img0.take 64) 8 4 = leAt img0 8 4 ∧
        64 ≤ leAt img0 8 4 ∧ leAt img0 8 4 ≤ loadC.fld 24 4 ∧ leAt img0 8 4 ≤ 268435456 ∧ loadW.data = some img0 ∧ loadT.heldRecords loadC.ctxNo = [] ∧
        check1 img0 (loadC.fld 24 4) = none) ∧
      (∃ x, loadT.ctx loadC.ctxNo = some x ∧ loadT.deniedCore x (parseImage img0) = none ∧
        checks4to9 img0 (x.residents.map (fun r => (r.1, (r.2.first, r.2.rows)))) = none ∧ (parseImage img0).maxBatch ≤ x.size) ∧
      loadT.images.freeSlot = some 0 ∧ (loadT.images.imgs.filter (fun p => p.2.ctx == loadC.ctxNo)).length < 64 ∧
      loadT.scratchTaken loadC.ctxNo (parseImage img0) = none ∧ (parseImage img0).tokens = [] ∧ (parseImage img0).refs = [] ∧
      ∃ v, loadT.claimTiles loadC.ctxNo (chargeImage 0) ((parseImage img0).tiles + (parseImage img0).workspace) = .ok v) ∧
    (loadT.assignCounters (parseImage img0) = .ok [] ∧ loadT.holdTables (parseImage img0).refs 0 = .ok (loadT, [])) ∧
    ((withImg (withCmd busy unloadC)).CmdReady 7 0x03 stBadField unloadC ∧ (withImg (withCmd busy unloadC)).ownImage unloadC = some adm0) ∧
    ((withCmd busy unloadC).CmdReady 7 0x03 stBadField unloadC ∧ (withCmd busy unloadC).ownImage unloadC = none) :=
  ⟨⟨ready_of (by decide +kernel), by decide +kernel⟩,
    ⟨ready_of (by decide +kernel), by decide +kernel, ⟨_, rfl, by decide +kernel, by decide +kernel, by decide +kernel⟩, by decide +kernel, by decide +kernel, by decide +kernel,
      by decide +kernel, by decide +kernel, ok_of (by decide +kernel)⟩,
    ⟨by simp only [State.assignCounters, show (parseImage img0).tokens = [] by decide +kernel]; rfl, by rw [show (parseImage img0).refs = [] by decide +kernel]; rfl⟩,
    ⟨ready_of (by decide +kernel), by decide +kernel⟩, ready_of (by decide +kernel), by decide +kernel⟩

/-- A submission of one token of stream 64 through window 0 to that image; the same with no stream, and with a token too many. -/
def submitC (b n : Nat) : Cmd := ctxC 0x01 [(96, b), (128, n)]
def tokens1 : Bytes := toLe 64 16
def submitS (c : Cmd) : State := withStrm (withImg (openWin (withCmd busy c) 16))
/-- A token of stream 63, which context 5 does not hold. -/
def none1 : Bytes := toLe 63 16
/-- The token read of the submission, and the tile after it. -/
def submitW (b : Bytes) : WinRead := (submitS (submitC 1 1)).winRead 5 0 0 16 (some ((submitS (submitC 1 1)).seqAhead 5)) (.ok b)
def submitT (b : Bytes) : State := (submitW b).s.countViol 5 (submitW b).viol

set_option maxRecDepth 100000 in
theorem witness_SubmitStep :
    ((submitS (submitC 1 1)).CmdReady 7 0x01 stBadField (submitC 1 1) ∧ 0 < (submitS (submitC 1 1)).freeTags ∧ (submitS (submitC 1 1)).ownImage (submitC 1 1) = some adm0 ∧
      ((submitS (submitC 1 1)).ctx (submitC 1 1).ctxNo = some { ctx5 with windows := [(0, ⟨0, 16, none⟩)] } ∧ ctx5.state ≠ 2 ∧ (submitC 1 1).fld 12 2 ≠ 0 ∧
        (submitC 1 1).fld 12 2 ≤ adm0.maxBatch ∧ (submitC 1 1).fld 16 4 = (submitC 1 1).fld 12 2 * adm0.tps ∧ (submitW tokens1).data = some tokens1) ∧
      (batchStreams (readTokens tokens1 1) 1 adm0.tps = some [64] ∧ (submitT tokens1).strmOk (submitC 1 1).ctxNo adm0 64 = true ∧ strm5.blocks adm0 = (false, false, false))) ∧
    ((submitW none1).data = some none1 ∧ batchStreams (readTokens none1 1) 1 adm0.tps = some [63] ∧ (submitT none1).strmOk (submitC 1 1).ctxNo adm0 63 = false ∧
      (({ submitT tokens1 with strms := [(64, { strm5 with paused := true })] } : State).pausedCheck (submitC 1 1).ctxNo adm0 [64]).2 = true) ∧
    (batchStreams (readTokens (tokens1 ++ tokens1) 2) 2 adm0.tps = none ∧ (submitC 2 2).fld 12 2 = 2 ∧ (submitC 2 2).fld 16 4 = 2 * adm0.tps ∧ ctx5.confidential = false ∧
      ({ ctx5 with windows := [(0, ⟨0, 16, none⟩)] } : Ctx).window? ((submitC 1 1).fld 20 2) = some ⟨0, 16, none⟩ ∧ (submitC 1 1).fld 24 8 + 16 ≤ 16 ∧ tokens1.length = 16 ∧
      (submitS (submitC 1 1)).linkOpen = true) ∧
    ((withCmd busy (submitC 1 1)).CmdReady 7 0x01 stBadField (submitC 1 1) ∧ (withCmd busy (submitC 1 1)).ownImage (submitC 1 1) = none) ∧
    ((submitS (submitC 2 1)).CmdReady 7 0x01 stBadField (submitC 2 1) ∧ adm0.maxBatch < (submitC 2 1).fld 12 2 ∧
      (submitS (submitC 1 2)).CmdReady 7 0x01 stBadField (submitC 1 2) ∧ (submitC 1 2).fld 16 4 ≠ (submitC 1 2).fld 12 2 * adm0.tps ∧
      (withImg (withCmd (withCtx (fun x => { x with state := 2 })) (submitC 1 1))).CmdReady 7 0x01 stBadField (submitC 1 1)) :=
  ⟨⟨ready_of (by decide +kernel), by decide +kernel, by decide +kernel, by decide +kernel, by decide +kernel⟩, by decide +kernel, by decide +kernel,
    ⟨ready_of (by decide +kernel), by decide +kernel⟩, ready_of (by decide +kernel), by decide +kernel, ready_of (by decide +kernel), by decide +kernel,
    ready_of (by decide +kernel)⟩

/-- CTX_CREATE with eight stream entries, and of a context isolated on core 0; the admin commands on context 5 and queue pair 3. -/
def createC : Cmd := admC 0x80 [(64, 8), (128, 255)]
def ctxA (op : Nat) : Cmd := admC op [(64, 5)]
/-- The same tile while a SEG_MAP of the context still runs. -/
def mapping (c : Cmd) : State := { busy with cmds := { list := [{ ctxC 0x18 [] with fid := 6, stage := .running }, c], next := 8 } }
def qpC : Cmd := admC 0x83 [(64, 5), (80, 63), (128, 4096), (192, 8192)]
def qpD : Cmd := admC 0x84 [(64, 3)]
def createX : Ctx := createC.newCtx (withCmd busy createC) 0 (Config.entropy 0)
def isoC : Cmd := admC 0x80 [(64, 8), (96, 64), (115, 1), (160, 1)]
def isoX : Ctx := isoC.newCtx (withCmd busy isoC) 0 (Config.entropy 0)
/-- The queue of context 5 still holds a command. -/
def qpBusy : State := { busy with cmds := { list := [{ ctxC 0x0D [] with fid := 6 }, qpD], next := 8 } }

theorem witness_ContextCommands :
    ((withCmd busy createC).CmdReady 7 0x80 stBadField createC ∧ (withCmd busy createC).isoMode = false ∧ (createX.size ≤ 65536 ∧ createX.size ≠ 0) ∧
      (createX.isolated = true ↔ createX.cores ≠ 0) ∧ (withCmd busy createC).hasPartition createX.partition = true ∧ createX.confidential = false ∧ createX.isolated = false ∧
      (withCmd busy createC).ctxs.firstFree 0 4096 = some 0 ∧ ((withCmd busy createC).ctxs.filter (fun p => p.2.func == createC.func)).length < (withCmd busy createC).param 0x0102 createC.func ∧
      (withCmd busy createC).freeEntries createX.size = some 0 ∧ (withCmd busy createC).quotaFits createX = true ∧ (withCmd busy createC).isolationOk createX = true) ∧
    ((withCmd busy isoC).CmdReady 7 0x80 stBadField isoC ∧ ((isoX.isolated = true ↔ isoX.cores ≠ 0) ∧ (withCmd busy isoC).hasPartition isoX.partition = true ∧ isoX.confidential = false ∧
      isoX.isolated = true ∧ isoX.size ≠ 0 ∧ isoX.size ≤ 65536 ∧ (withCmd busy isoC).quotaFits isoX = true ∧ (withCmd busy isoC).isolationOk isoX = true) ∧
      ∃ u, ({ withCmd busy isoC with draws := 1, ctxs := (withCmd busy isoC).ctxs.set 0 isoX } : State).claimTiles 0 chargeStrm 32 = .ok u) ∧
    ((withCmd busy (ctxA 0x81)).CmdReady 7 0x81 stBadField (ctxA 0x81) ∧ (withCmd busy (ctxA 0x81)).ctx ((ctxA 0x81).fld 8 2) = some ctx5 ∧
      (withCmd busy (ctxA 0x81)).ctxBusy 5 = false ∧ (mapping (ctxA 0x81)).ctxBusy 5 = true ∧ (mapping (ctxA 0x81)).CmdReady 7 0x81 stBadField (ctxA 0x81)) ∧
    ((withCmd busy (ctxA 0x82)).CmdReady 7 0x82 stBadField (ctxA 0x82) ∧ (mapping (ctxA 0x82)).CmdReady 7 0x82 stBadField (ctxA 0x82) ∧
      (withCmd up (ctxA 0x81)).CmdReady 7 0x81 stBadField (ctxA 0x81) ∧ (withCmd up (ctxA 0x82)).CmdReady 7 0x82 stBadField (ctxA 0x82) ∧ up.ctx 5 = none) ∧
    ((withCmd busy qpC).CmdReady 7 0x83 stBadField qpC ∧ (withCmd busy qpC).ctx (qpC.fld 8 2) = some ctx5 ∧ 63 ≤ qpC.fld 10 2 ∧ qpC.fld 16 8 % 4096 = 0 ∧
      qpC.fld 24 8 % 4096 = 0 ∧ (withCmd busy qpC).queues.firstFree 0 32768 = some 0 ∧
      ((withCmd busy qpC).queues.filter (fun p => ((withCmd busy qpC).ctx p.2.ctx).any (fun (y : Ctx) => y.func == ctx5.func))).length < (withCmd busy qpC).param 0x0103 ctx5.func) ∧
    ((withCmd busy qpD).CmdReady 7 0x84 stBadField qpD ∧ (withCmd busy qpD).queues.get? (qpD.fld 8 2) = some pair3 ∧ (withCmd busy qpD).ctx pair3.ctx = some ctx5 ∧
      (withCmd busy qpD).cmds.list.any (fun e => e.q == .pair (qpD.fld 8 2)) = false) ∧
    (qpBusy.CmdReady 7 0x84 stBadField qpD ∧ qpBusy.cmds.list.any (fun e => e.q == .pair (qpD.fld 8 2)) = true ∧ (withCmd up qpD).CmdReady 7 0x84 stBadField qpD ∧
      up.queues.get? (qpD.fld 8 2) = none ∧ (withCmd busy (ctxA 0x83)).CmdReady 7 0x83 stBadField (ctxA 0x83) ∧ (ctxA 0x83).fld 10 2 < 63) :=
  ⟨⟨ready_of (by decide +kernel), by decide +kernel⟩, ⟨ready_of (by decide +kernel), by decide +kernel, ok_of (by decide +kernel)⟩,
    ⟨ready_of (by decide +kernel), by decide +kernel, by decide +kernel, by decide +kernel, ready_of (by decide +kernel)⟩,
    ⟨ready_of (by decide +kernel), ready_of (by decide +kernel), ready_of (by decide +kernel), ready_of (by decide +kernel), by decide +kernel⟩,
    ⟨ready_of (by decide +kernel), by decide +kernel⟩, ⟨ready_of (by decide +kernel), by decide +kernel⟩,
    ready_of (by decide +kernel), by decide +kernel, ready_of (by decide +kernel), by decide +kernel, ready_of (by decide +kernel), by decide +kernel⟩

/-- Context 5 confidential, with an ephemeral key that no session has used and a window over all of a public key. -/
def confS (used : Bool) (c : Cmd) : State :=
  (withCmd busy c).modCtx 5 (fun x => { x with confidential := true, windows := [(0, ⟨0, 128, none⟩)],
                                               sec := { x.sec with ephPriv := some [], ephUsed := used } })
def sessC : Cmd := ctxC 0x31 []
/-- ATTEST behind a SEG_MAP of its context that still runs. -/
def lateAttest : State := { busy with cmds := { list := [{ ctxC 0x18 [] with fid := 6, stage := .running }, ctxC 0x30 []], next := 8 } }

theorem witness_SecurityCommands :
    ((onC 0x30 []).CmdReady 7 0x30 stBadField (ctxC 0x30 []) ∧ (onC 0x30 []).cmds.list.any (fun e => decide (e.fid < (ctxC 0x30 []).fid) && e.ctx == (ctxC 0x30 []).ctx) = false ∧
      (onC 0x30 []).ctx (ctxC 0x30 []).ctxNo = some ctx5) ∧
    (lateAttest.CmdReady 7 0x30 stBadField (ctxC 0x30 []) ∧ lateAttest.cmds.list.any (fun e => decide (e.fid < (ctxC 0x30 []).fid) && e.ctx == (ctxC 0x30 []).ctx) = true) ∧
    ((withCmd busy sessC).CmdReady 7 0x31 stBadField sessC ∧ ctx5.confidential = false ∧ (confS true sessC).CmdReady 7 0x31 stBadField sessC ∧
      ((withCmd busy sessC).modCtx 5 (fun x => { x with confidential := true })).CmdReady 7 0x31 stBadField sessC ∧ ctx5.sec.ephPriv = none) ∧
    ((confS false sessC).CmdReady 7 0x31 stBadField sessC ∧ ((confS false sessC).ctx sessC.ctxNo).map (fun x => (x.confidential, x.sec.ephPriv, x.sec.ephUsed,
      x.window? (sessC.fld 8 2))) = some (true, some [], false, some ⟨0, 128, none⟩) ∧ sessC.fld 16 8 + 97 ≤ 128 ∧ (List.replicate 97 0#8 : Bytes).length = 97 ∧
      0 < (confS false sessC).freeTags ∧ (confS false sessC).linkOpen = true) ∧
    (onA 0xA0 []).CmdReady 7 0xA0 stBadField (admC 0xA0 []) :=
  ⟨⟨ready_of (by decide +kernel), by decide +kernel⟩, ⟨ready_of (by decide +kernel), by decide +kernel⟩,
    ⟨ready_of (by decide +kernel), by decide +kernel, ready_of (by decide +kernel), ready_of (by decide +kernel), by decide +kernel⟩,
    ⟨ready_of (by decide +kernel), by decide +kernel⟩, ready_of (by decide +kernel)⟩

/-- Context 5 with the resident region 9 of core 7: the last 128 rows, over MODEL segment 0, or lost. -/
def region9 (lost : Bool) : Resident := { first := 49024, rows := 128, reg := none, armed := false, lost := lost, owed := false }
def withRegion (lost : Bool) (c : Cmd) : State :=
  (withCmd busy c).modCtx 5 (fun x => { x with segs := [(0, modelSeg)], residents := [(7 * 65536 + 9, region9 lost)] })
def refC : Cmd := ctxC 0x41 [(64, 7), (80, 9), (128, 31 * 65536), (192, 1)]
def ackC : Cmd := ctxC 0x42 [(64, 7), (80, 9)]

theorem witness_CheckCommands :
    (onC 0x40 [(64, 3), (72, 127)]).CmdReady 7 0x40 stBadField (ctxC 0x40 [(64, 3), (72, 127)]) ∧
    ((onC 0x46 []).CmdReady 7 0x46 stBadField (ctxC 0x46 []) ∧ (onC 0x46 []).ctx (ctxC 0x46 []).ctxNo = some ctx5) ∧
    ((withRegion false refC).CmdReady 7 0x41 stBadField refC ∧ ((withRegion false refC).ctx refC.ctxNo).map (fun x => (x.residents.get? refC.residentKey,
      x.modelTiles (refC.fld 16 6) (refC.fld 24 4))) = some (some (region9 false), true) ∧ refC.fld 16 6 % 65536 = 0 ∧ (region9 false).rows = 128 * refC.fld 24 4) ∧
    ((withRegion true ackC).CmdReady 7 0x42 stBadField ackC ∧ ((withRegion true ackC).ctx ackC.ctxNo).map (fun x => x.residents.get? ackC.residentKey) =
      some (some (region9 true)) ∧ (withRegion true ackC).carrier (ackC.fld 8 1 % 8) = some 7 ∧ 7 < (withRegion true ackC).pcores.length) ∧
    ((withRegion false ackC).CmdReady 7 0x42 stBadField ackC ∧ ((withRegion false ackC).ctx ackC.ctxNo).map (fun x => (x.residents.get? ackC.residentKey).all (fun r => !r.lost)) = some true) ∧
    ((onC 0x41 [(128, 1)]).CmdReady 7 0x41 stBadField (ctxC 0x41 [(128, 1)]) ∧ (ctxC 0x41 [(128, 1)]).fld 16 6 % 65536 ≠ 0 ∧ (onC 0x41 []).CmdReady 7 0x41 stBadField (ctxC 0x41 []) ∧
      ctx5.residents.get? (ctxC 0x41 []).residentKey = none) :=
  ⟨ready_of (by decide +kernel), ⟨ready_of (by decide +kernel), by decide +kernel⟩, ⟨ready_of (by decide +kernel), by decide +kernel⟩, ⟨ready_of (by decide +kernel),
    by decide +kernel⟩, ⟨ready_of (by decide +kernel), by decide +kernel⟩, ready_of (by decide +kernel), by decide +kernel, ready_of (by decide +kernel), by decide +kernel⟩

/-- A capture of context 5, which has only window 0, and one that runs. -/
def rplS (active : Bool) (c : Cmd) : State :=
  (openWin (withCmd busy c) 4096).modCtx 5 (fun x => { x with replay := { x.replay with active := active, len := 4096 } })
def startC : Cmd := ctxC 0x43 [(192, 4096)]

theorem witness_ReplayCommands :
    ((rplS false startC).CmdReady 7 0x43 stBadField startC ∧ startC.fld 24 8 % 4096 = 0 ∧
      ((rplS false startC).ctx startC.ctxNo).map (fun x => (x.replay.active, (rplS false startC).ctxEmpty startC.ctxNo (startC.fld 8 2) x, x.windows.has (startC.fld 8 2))) =
        some (false, true, true)) ∧
    ((rplS true (ctxC 0x44 [])).CmdReady 7 0x44 stBadField (ctxC 0x44 []) ∧ (ctxC 0x44 []).recorded = false ∧
      ((rplS true (ctxC 0x44 [])).ctx 5).map (fun x => (rplS true (ctxC 0x44 [])).cmds.list.all (fun e => !x.replay.held.contains e.fid)) = some true) ∧
    (rplS true (ctxC 0x45 [])).CmdReady 7 0x45 stBadField (ctxC 0x45 []) :=
  ⟨⟨ready_of (by decide +kernel), by decide +kernel⟩, ⟨ready_of (by decide +kernel), by decide +kernel⟩, ready_of (by decide +kernel)⟩

/-- FW_UPDATE of 8 MiB, rings of 64 and 65,536 entries, and a trace of 4 KiB of context 5. -/
def fwC : Cmd := admC 0x90 [(128, 8388608)]
def ringC (n : Nat) : Cmd := admC 0x95 [(64, 4096), (128, n)]
def cairnC : Cmd := admC 0x96 [(64, 5), (96, 1), (192, 4096)]
def traceS : State := ({ openWin (withCmd busy cairnC) 4096 with params := (openWin (withCmd busy cairnC) 4096).params.set (0x0802 * 65536) 1 } : State)

theorem witness_FirmwareCommands :
    ((withCmd busy fwC).CmdReady 7 0x90 stBadField fwC ∧ (withCmd busy fwC).flash.blocked = false ∧ (withCmd busy fwC).flash.paused = false ∧
      fwC.fld 16 4 ≤ 8388608 ∧ fwC.fld 16 4 % 64 = 0 ∧ 0 < (withCmd busy fwC).freeTags ∧ (withCmd busy fwC).linkOpen = true) ∧
    ((onA 0x91 [(64, 8)]).CmdReady 7 0x91 stBadField (admC 0x91 [(64, 8)]) ∧ (admC 0x91 [(64, 8)]).fld 8 1 % 16 ≠ 0 ∧ (onA 0x91 [(64, 8)]).fw.activate = none) ∧
    (onA 0x92 []).CmdReady 7 0x92 stBadField (admC 0x92 []) ∧ (onA 0x93 []).CmdReady 7 0x93 stBadField (admC 0x93 []) ∧
    (onA 0x94 []).CmdReady 7 0x94 stBadField (admC 0x94 []) ∧
    ((withCmd busy (ringC 64)).CmdReady 7 0x95 stBadField (ringC 64) ∧ (withCmd busy (ringC 65536)).CmdReady 7 0x95 stBadField (ringC 65536) ∧
      (ringC 64).fld 8 8 % 4096 = 0 ∧ 64 ≤ (ringC 64).fld 16 4 ∧ (ringC 65536).fld 16 4 ≤ 65536 ∧ 2 ^ ((ringC 64).fld 16 4).log2 = (ringC 64).fld 16 4 ∧ 2 ^ ((ringC 65536).fld 16 4).log2 = (ringC 65536).fld 16 4) ∧
    ((withCmd busy (ringC 0)).CmdReady 7 0x95 stBadField (ringC 0) ∧ (ringC 0).fld 16 4 = 0) ∧
    (traceS.CmdReady 7 0x96 stBadField cairnC ∧ traceS.param 0x0802 0 ≠ 0 ∧ (traceS.ctx (cairnC.fld 8 2)).map (fun x => (x.confidential, x.windows.has (cairnC.fld 10 2))) =
      some (false, true) ∧ cairnC.func = 0 ∧ cairnC.fld 24 4 % 4096 = 0 ∧ cairnC.fld 24 4 ≠ 0) :=
  ⟨⟨ready_of (by decide +kernel), by decide +kernel⟩, ⟨ready_of (by decide +kernel), by decide +kernel⟩, ready_of (by decide +kernel), ready_of (by decide +kernel),
    ready_of (by decide +kernel), ⟨ready_of (by decide +kernel), ready_of (by decide +kernel), by decide +kernel⟩, ⟨ready_of (by decide +kernel), by decide +kernel⟩,
    ready_of (by decide +kernel), by decide +kernel⟩
/-- A scratchpad whose last row awaits scrub. -/
def lastRow : PCore := { PCore.fresh false with scrub := [(49151, 1)] }

theorem witness_ScrubPendingRows : Ranges.has lastRow.scrub 49151 = true ∧ Ranges.has lastRow.scrub 49150 = false ∧ (63 < 64 ∧ 511 < 512) ∧
    ([0#8, 1#8] : Bytes).length = 2 := by
  decide +kernel

/-- A step of context 5 with stream 64 on core 0, and that core's sequencer with one descriptor before it or in flight. -/
def step0 (stage : StepStage) (mask : Nat) : StepRec :=
  { fid := 7, q := .pair 3, ctx := 5, handle := 0, gen := 0, b := 1, tokens := readTokens tokens1 1, streams := [64], inWin := 0, inOff := 0, outWin := 0, outOff := 0,
    stage := stage, seq := 0, ord := 0, cores := [0], level := 0, mask := mask, reexecs := 0, faults := [], prov := [], pins := [], flags := 0#8, fault := none, kat := [],
    digests := List.replicate 8 0, pages := [], wrote := [], wants := [], since := 0 }
def seqr0 (stream : List Desc) (fl : List InFlight) (fault : Option FaultRec) : Seqr :=
  { step := 0, idx := 0, stream := stream, inflight := fl, flags := 0#8, range := none, batch := 1, started := true, stopped := false, ended := false, fault := fault }
def oneStep (stage : StepStage) (mask : Nat) : State := { withStrm (withImg busy) with steps := { Steps.fresh with list := [(0, step0 stage mask)], next := 1 } }
def onSeq (q : Seqr) : State := (oneStep .running 0).modLc 0 (fun l => { l with seqr := some q })
def flightOf (d : Desc) (f : InFlight → InFlight) : State := onSeq (seqr0 [] [f (InFlight.plain 0 d [])] none)

theorem witness_StepsStart :
    ((oneStep .waiting 0).step? 0 = some (step0 .waiting 0) ∧ (oneStep .waiting 0).images.imgs.get? 0 = some adm0 ∧ (oneStep .waiting 0).ctx 5 = some ctx5 ∧
      (oneStep .waiting 0).mayDispatch 0 (step0 .waiting 0) false = true ∧ ((oneStep .waiting 0).pausedCheck 5 adm0 [64]).2 = false ∧ adm0.usesKv = false ∧
      ctx5.residents.any (fun g => g.2.owed) = false ∧ adm0.residentKeys.any (fun k => (ctx5.residents.get? k).any (fun g => g.lost)) = false ∧
      (step0 .waiting 0).cores.all (fun c => ((oneStep .waiting 0).carrier c).isSome) = true ∧ ((oneStep .waiting 0).streamLost 0 adm0 [0]).isNone = true) ∧
    (oneStep .waiting 0).kvCheck adm0 (step0 .waiting 0) = .ok [] ∧
    ((oneStep .dispatched 0).step? 0 = some (step0 .dispatched 0) ∧ (oneStep .dispatched 0).coreOut 1 = false ∧ (oneStep .dispatched 0).running = true ∧
      (step0 .dispatched 0).job.copies = [] ∧ (step0 .dispatched 0).job.failed = false ∧ (step0 .waiting 0).reexecs = 0) ∧
    (({ oneStep .waiting 0 with strms := [(64, { strm5 with paused := true })] } : State).pausedCheck 5 adm0 [64]).2 = true ∧
    (∃ x, ((oneStep .waiting 0).modCtx 5 (fun y => { y with residents := [(7 * 65536 + 9, { region9 true with owed := true })] })).ctx 5 = some x ∧
      (x.residents.any (fun g => g.2.owed) || adm0.residentKeys.any (fun k => (x.residents.get? k).any (fun g => g.lost))) = true) ∧
    ((step0 .waiting 0).cores.all (fun c => (((oneStep .waiting 0).modLc 0 (fun l => { l with carrier := 15 })).carrier c).isSome) = false ∧
      ((oneStep .waiting 0).modLc 0 (fun l => { l with carrier := 15 })).mayDispatch 0 (step0 .waiting 0) false = true) ∧ 7 < (oneStep .waiting 0).lcores.length :=
  ⟨by decide +kernel, by simp only [State.kvCheck, show adm0.usesKv = false by decide +kernel]; rfl, by decide +kernel, by decide +kernel, ⟨_, rfl, by decide +kernel⟩,
    by decide +kernel, by decide +kernel⟩

/-- The step with all its cores done and a flag word. -/
def doneStep (mask : Nat) (flags : Flags) : State :=
  { oneStep .running mask with coll := { Coll.fresh with ready := [0], latches := [(0, ⟨[0], [0], flags⟩)] } }

theorem witness_StepsCommit :
    ((doneStep 0 255).step? 0 = some (step0 .running 0) ∧ (doneStep 0 255).coll.ready.contains 0 = true ∧ (doneStep 0 255).coreOut 1 = false ∧
      (doneStep 0 255).running = true ∧ (doneStep 0 255).images.imgs.get? 0 = some adm0 ∧ (doneStep 0 255).coll.latches.get? 0 = some ⟨[0], [0], 255⟩ ∧
      Flags.policyFault 255 (step0 .running 0).mask = false) ∧
    ((doneStep 64 64).step? 0 = some (step0 .running 64) ∧ Flags.policyFault 64 (step0 .running 64).mask = true) ∧ (step0 .running 0).wrote = [] := by
  decide +kernel

/-- Whether core 0 may issue a descriptor of a kind, alone in its stream. -/
def issuesB (d : Desc) (p : Desc → Bool) : Bool :=
  ((onSeq (seqr0 [d] [] none)).issuing 0 p).any (fun y => y.2 == d && passes d y.1.r.level == (d.kind == 1 && d.shadowOnly || d.kind == 7 && decide (0 < d.fld 4 3 2)))

/-- A descriptor of a kind with END, an operation or mode in byte 4, and the rest zero. -/
def desc0 (kind op : Nat) : Desc := kind + 1024 + op * 2 ^ 32

theorem witness_DescriptorsIssue :
    (issuesB (desc0 1 0) (fun d => d.kind == 1) = true ∧ issuesB (desc0 1 0 + 2048) (fun d => d.kind == 1) = true ∧ (desc0 1 0 + 2048).shadowOnly = true ∧
      issuesB (desc0 2 0) (fun d => d.kind == 2) = true ∧ issuesB (desc0 4 0) (fun d => d.kind == 4) = true ∧ issuesB (desc0 3 0) (fun d => d.kind == 3) = true) ∧
    (issuesB (desc0 5 0) (fun d => d.kind == 5) = true ∧ issuesB (desc0 8 1) isPost = true ∧ issuesB (desc0 8 0) isWait = true) := by
  decide +kernel

theorem witness_ReduceAndCheckIssue :
    (issuesB (desc0 6 0) (fun d => d.kind == 6 && d.collOp == 0) = true ∧ issuesB (desc0 6 1) (fun d => d.kind == 6 && d.collOp == 1) = true ∧
      issuesB (desc0 6 2) (fun d => d.kind == 6 && d.collOp == 2) = true) ∧
    (issuesB (desc0 7 0) (fun d => d.kind == 7 && d.checkMode == 0) = true ∧ issuesB (desc0 7 12) (fun d => d.kind == 7 && d.checkMode == 0) = true ∧
      (desc0 7 12).fld 4 3 2 = 3 ∧ issuesB (desc0 7 1) (fun d => d.kind == 7 && d.checkMode == 1) = true ∧
      issuesB (desc0 7 2) (fun d => d.kind == 7 && d.checkMode == 2) = true ∧ issuesB (desc0 7 3) (fun d => d.kind == 7 && d.checkMode == 3) = true) := by
  decide +kernel

/-- A WAIT on token 5, and a RECEIVE of slot 7. -/
def waitD : Desc := desc0 8 0 + 5 * 2 ^ 48
def takeD : Desc := desc0 7 2 + 7 * 2 ^ 48

/-- Messages that have landed for core 0, which awaits nothing. -/
def landed (s : State) (m : Msg) : State := { s with rope := { Rope.fresh with landed := [m] } }

theorem witness_TokensAndCompletions :
    ((landed (onSeq (seqr0 [] [] none)) (.belay 0 65535 0)).rope.takeLanded (Msg.isBelay adm0 0 (adm0.sourceOf 65535)) = some (.belay 0 65535 0, Rope.fresh) ∧
      ((landed (onSeq (seqr0 [] [] none)) (.belay 0 65535 0)).current 0).map (fun x => (x.q.inflight, x.img)) = some ([], adm0) ∧
      (landed (onSeq (seqr0 [] [] none)) (.belay 0 0 0)).rope.takeLanded (Msg.isBelay adm0 0 (adm0.sourceOf 0)) = some (.belay 0 0 0, Rope.fresh)) ∧
    ((landed (flightOf waitD id) (.belay 0 5 0)).rope.takeLanded (Msg.isBelay adm0 0 (adm0.sourceOf 5)) = some (.belay 0 5 0, Rope.fresh) ∧
      ((landed (flightOf waitD id) (.belay 0 5 0)).current 0).map (fun x => (x.q.inflight.find? (fun f => isWait f.desc && f.desc.fld 6 15 0 == 5)).isSome) = some true) ∧
    (AList.has ((landed (onSeq (seqr0 [] [] none)) (.digest 0 255 1 1 0)).lc 0).slots 255 = false ∧
      (landed (onSeq (seqr0 [] [] none)) (.digest 0 255 1 1 0)).rope.takeLanded (Msg.isDigest 0 255) = some (.digest 0 255 1 1 0, Rope.fresh) ∧
      ((((onSeq (seqr0 [] [] none)).modLc 0 (fun l => { l with slots := l.slots.set 255 (2 ^ 64 + 1) })).finishDesc 1 0).lc 0).seqr.map (fun q => q.inflight) = some []) ∧
    ((landed (flightOf takeD (fun f => { f with waits := true })) (.digest 0 7 1 1 0)).rope.takeLanded (Msg.isDigest 0 7) = some (.digest 0 7 1 1 0, Rope.fresh) ∧
      (((((flightOf takeD (fun f => { f with waits := true })).modLc 0 (fun l => { l with slots := l.slots.set 7 (2 ^ 64 + 1) })).finishDesc 1 0).lc 0).seqr.bind
        (fun q => q.inflight.find? (fun f => isTake f.desc && f.waits && f.desc.slot == 7))).isSome = true) ∧
    ((flightOf (desc0 4 0) id).flight 0 0 = some (InFlight.plain 0 (desc0 4 0) []) ∧ ((flightOf (desc0 4 0) id).current 0).isSome = true ∧
      (flightOf (desc0 4 0) id).running = true ∧ ((flightOf (desc0 4 0) id).carrier 0).isSome = true ∧ ((flightOf (desc0 4 0) id).scratch 0).halted = false ∧
      ∀ q, (InFlight.plain 0 (desc0 4 0) []).mayEnd q = true) :=
  ⟨by decide +kernel, by decide +kernel, by decide +kernel, by decide +kernel, by decide +kernel, by decide +kernel, by decide +kernel, by decide +kernel, by decide +kernel,
    fun _ => rfl⟩

/-- A start token on its way from the tier engine's station to that of CS, at a point of the Rope. -/
def flit0 : Flit := { src := 5, dst := 10, chan := .req, ringB := false, asc := true, msg := .belay 0 0 0 }
def ropeAt (f : Rope → Rope) : State := { busy with rope := f Rope.fresh }

theorem witness_RopeAndCollectives_flits :
    ((ropeAt (fun r => { r with bufs := [(laneKey 10 true false .req, [flit0])] })).running = true ∧
      ((ropeAt (fun r => { r with bufs := [(laneKey 10 true false .req, [flit0])] })).rope.buf (laneKey 10 true false .req)).head? = some flit0 ∧ flit0.dst = 10 ∧
      (ropeAt (fun r => { r with bufs := [(laneKey 10 true false .req, [flit0])] })).canLand flit0.msg = true) ∧
    ((ropeAt (fun r => { r with inject := [(laneKey 5 true false .req, [flit0])] })).rope.buf (laneKey 5 true false .req) = [] ∧
      (ropeAt (fun r => { r with inject := [(laneKey 5 true false .req, [flit0])] })).rope.grant 5 true false .req
        ((ropeAt (fun r => { r with inject := [(laneKey 5 true false .req, [flit0])] })).mayInject 5) = some (flit0, true)) ∧
    AList.getD (ropeAt (fun r => { r with returning := [(laneKey 0 false true .col, 1)] })).rope.returning (laneKey 0 false true .col) 0 ≠ 0 ∧
    (withLife .booting).running = false := by
  decide +kernel

/-- A collective of cores 0 and 1 in step 0, with its slot. -/
def reduceD (op : Nat) : Desc := desc0 6 op + 3 * 2 ^ 48 + 512 * 2 ^ 96
def slot0 (op : Nat) : CollSlot :=
  { step := 0, coll := 0, op := op, fmt := 0, members := [0, 1], rows := 1, contribs := [], formed := 0, reports := [1] }
def collS (op : Nat) (m : Msg) : State :=
  { (landed (flightOf (reduceD op) (fun f => { f with acks := 2, waits := true })) m) with
    images := { imgs := [(0, { adm0 with streams := [(0, [reduceD op])] })], nextGen := [] }
    coll := { Coll.fresh with slots := [slot0 op], granted := [(0, [0])] } }

/-- The same with a contribution that comes after its collective has left its slot. -/
def late0 : State := { collS 0 (.contrib 0 0 0 0 [] []) with coll := { Coll.fresh with granted := [(0, [0])] } }

theorem witness_RopeAndCollectives :
    (∀ op ∈ [0, 1], (collS op (.contrib 0 0 0 0 [] [])).running = true ∧
      (collS op (.contrib 0 0 0 0 [] [])).rope.takeLanded ((collS op (.contrib 0 0 0 0 [] [])).contribReady 0) = some (.contrib 0 0 0 0 [] [], Rope.fresh) ∧
      ({ collS op (.contrib 0 0 0 0 [] []) with rope := Rope.fresh }.takeCollSlot 0 0 0).coll.slot? 0 0 = some (slot0 op) ∧
      ({ collS op (.contrib 0 0 0 0 [] []) with rope := Rope.fresh }.takeCollSlot 0 0 0).reduceOf 0 0 0 = some (reduceD op) ∧
      ((collS op (.contrib 0 0 0 0 [] [])).coll.slot? 0 0).isNone = false ∧
      ({ collS op (.contrib 0 0 0 0 [] []) with rope := Rope.fresh }.takeCollSlot 0 0 0).coll.retried.contains (0, 0, 8, 0) = false) ∧
    (late0.running = true ∧ late0.rope.takeLanded (late0.contribReady 0) = some (.contrib 0 0 0 0 [] [], Rope.fresh) ∧ late0.coll.slot? 0 0 = none ∧ late0.coll.wasGranted 0 0 = true) ∧
    ((collS 0 (.result 0 0 0 0 0 [] 0)).rope.takeLanded ((collS 0 (.result 0 0 0 0 0 [] 0)).resultReady 0) = some (.result 0 0 0 0 0 [] 0, Rope.fresh) ∧
      ({ collS 0 (.result 0 0 0 0 0 [] 0) with rope := Rope.fresh }.reduceFlight 0 0 0).map (fun (f : InFlight) => f.acks) = some 2) ∧
    ((collS 0 (.report 0 0 0)).rope.takeLanded ((collS 0 (.report 0 0 0)).reportReady 0) = some (.report 0 0 0, Rope.fresh) ∧
      (collS 0 (.done 0 0 0)).rope.takeLanded (Msg.isDone 0) = some (.done 0 0 0, Rope.fresh) ∧
      ({ collS 0 (.done 0 0 0) with rope := Rope.fresh }.reduceFlight 0 0 0).isSome = true) ∧
    ((landed (doneStep 0 0) (.stepDone 0 0 255)).rope.takeLanded (Msg.isStepDone 0) = some (.stepDone 0 0 255, Rope.fresh) ∧
      AList.get? (landed (doneStep 0 0) (.stepDone 0 0 255)).coll.latches 0 = some ⟨[0], [0], 0⟩ ∧ (landed (doneStep 0 0) (.stepDone 0 0 255)).running = true ∧
      ∀ p ∈ (landed (doneStep 0 0) (.stepDone 0 0 255)).steps.list, p.2.stage ≠ .faulting) := by
  decide +kernel

theorem witness_FaultsStop :
    (((onSeq (seqr0 [] [] (some (stepFault 2 0x72)))).current 0).map (fun x => (x.q.fault, x.r.stage)) = some (some (stepFault 2 0x72), .running) ∧
      (onSeq (seqr0 [] [] (some (stepFault 2 0x72)))).running = true ∧ (onSeq (seqr0 [] [] (some (stepFault 2 0x72)))).coreOut 1 = false ∧
      (onSeq (seqr0 [] [] (some (stepFault 2 0x72)))).drained 0 = true) ∧
    (((flightOf (desc0 1 0) id).current 0).map (fun x => x.q.inflight.find? InFlight.internal) = some (some (InFlight.plain 0 (desc0 1 0) [])) ∧
      (flightOf (desc0 1 0) id).carrier 0 = some 0 ∧ ((flightOf (desc0 1 0) id).pcr 0).halted = false) ∧
    ((oneStep .running 0).step? 0 = some (step0 .running 0) ∧ 0 ∈ (step0 .running 0).cores ∧ ((onSeq (seqr0 [] [] none)).lc 0).seqr = some (seqr0 [] [] none)) := by
  decide +kernel
/-- Where a fresh array puts the pages of its first spilled tile, and its blocks after i of them. -/
def spillAt (i : Nat) : Nat := [3, 1152, 2304, 3456].getD i 0
def spillBlocks (i : Nat) : AList FlashBlock :=
  (List.range i).map (fun d => (spillAt d, { FlashBlock.fresh with state := .opened, pages := 1, writer := .spill }))

theorem pick_congr (f g : Flash) (w : FlashWriter) (d p : Nat) (hb : f.blocks = g.blocks) (hf : f.fixedBlocks = g.fixedBlocks) (hd : f.dies = g.dies) :
    f.pick w d p = g.pick w d p := by
  unfold Flash.pick Flash.freshest Flash.planeBlocks Flash.managed Flash.inWork Flash.op Flash.die Flash.block
  rw [hb, hf, hd]

theorem append_spill (f : Flash) (i : Nat) (b : Bytes) (hi : i < 4) (hb : f.blocks = spillBlocks i) (hf : f.fixedBlocks = defaultFixed ∧ f.clock = 0 ∧ f.dies = []) :
    ∃ g a, f.append .spill i 0 b = some (g, a) ∧ g.blocks = spillBlocks (i + 1) ∧ g.fixedBlocks = defaultFixed ∧ g.clock = 0 ∧ g.dies = [] := by
  have hp : f.pick .spill i 0 = some (spillAt i) := by
    rw [pick_congr f { Flash.fresh with blocks := spillBlocks i } _ _ _ hb hf.1 hf.2.2]
    clear hb hf; revert i; decide +kernel
  refine ⟨(f.taken (spillAt i) .spill).place (blockPage (spillAt i) (f.block (spillAt i)).pages) b, _, by rw [Flash.append, hp], ?_, ?_⟩
  · simp only [Flash.taken, Flash.place, Flash.setBlock, Flash.block, Flash.blockPages, hb, hf.1, hf.2.1]
    clear hp hb hf; revert i; decide +kernel
  · unfold Flash.taken Flash.place
    exact hf

/-- A fresh array takes a spilled tile whatever its bytes. -/
theorem spill_fits (lp : Nat) (data : Bytes) : ∃ f, Flash.fresh.writeTile .spill lp data = some f := by
  have h (n : Nat) (hn : n ≤ 4) : ∃ g : Flash, (List.range n).foldl (fun (acc : Option Flash) i =>
      acc.bind (fun g => (g.append .spill (4 * 0 + i) 0 ((data.drop (i * pageBytes)).take pageBytes)).map (fun p => p.1.setMap (lp + i) (some p.2))))
        (some Flash.fresh) = some g ∧
      g.blocks = spillBlocks n ∧ g.fixedBlocks = defaultFixed ∧ g.clock = 0 ∧ g.dies = [] := by
    induction n with
    | zero => exact ⟨_, rfl, rfl, rfl, rfl, rfl⟩
    | succ n ih =>
      obtain ⟨g, hg, hb, hf⟩ := ih (by omega)
      obtain ⟨g2, a, ha, hb2, hf2⟩ := append_spill g n ((data.drop (n * pageBytes)).take pageBytes) (by omega) hb hf
      refine ⟨g2.setMap (lp + n) (some a), ?_, hb2, hf2⟩
      rw [List.range_succ, List.foldl_append, hg]
      simp only [List.foldl_cons, List.foldl_nil, Option.bind_some, Nat.mul_zero, Nat.zero_add, ha, Option.map_some]
  obtain ⟨g, hg, -⟩ := h (min 4 (cdiv data.length pageBytes)) (Nat.min_le_left _ _)
  have e : (((List.range 4).map (· + lp)).filter Flash.fresh.map.has) = [] := List.filter_eq_nil_iff.mpr (fun _ _ => Bool.false_ne_true)
  unfold Flash.writeTile
  simp only [e, List.foldl_nil]
  exact ⟨_, congrArg (Option.map _) hg⟩

def withPc (s : State) (p : Nat) (f : PCore → PCore) : State := s.modPc p f
def onTest (p : Nat) : State := withPc busy p (fun x => { x with testing := true })
def wants (f : Sparing → Sparing) : State := { busy with sparing := f busy.sparing }

theorem witness_SelfTestsAndPeriodicChecks :
    (busy.running = true ∧ busy.coreOut 1 = false ∧ busy.param 0x0606 0 ≠ 0 ∧ (busy.pcr 8).dom = 0 ∧ (busy.pcr 8).testing = false ∧ (busy.pcr 8).halted = false ∧
      (busy.pcr 8).outOfService = false ∧ busy.coreUsed 8 = false ∧ busy.sparing.busy = none ∧ ∀ p ∈ busy.steps.list, p.2.stage ≠ .faulting) ∧
    ((onTest 7).running = true ∧ (onTest 7).coreOut 1 = false ∧ 7 < (onTest 7).pcores.length ∧ ((onTest 7).pcr 7).testing = true ∧ (onTest 7).carried 7 = some 7 ∧
      (lastDay ((onTest 7).pcr 7).checkFaults (onTest 7).boot.timer).length < (onTest 7).param 0x0605 0 ∧ (onTest 7).sparing.wanted = none ∧
      (onTest 7).sparing.busy = none ∧ (onTest 7).sparing.usable = true ∧ (onTest 7).carried 8 = none ∧ 7 < (onTest 7).lcores.length) := by
  decide +kernel

theorem witness_SpareSwitches :
    ((wants (fun x => { x with wanted := some 7 })).sparing.usable = true ∧ (wants (fun x => { x with wanted := some 7 })).carried 8 = none ∧
      (wants (fun x => { x with wanted := some 7 })).lcoreUsed 7 = false ∧ (wants (fun x => { x with wanted := some 7 })).carrier 7 = some 7 ∧
      (wants (fun x => { x with wanted := some 7 })).pcores.length = 9 ∧ ((wants (fun x => { x with wanted := some 7 })).pcr 8).dom = 0 ∧
      (wants (fun x => { x with wanted := some 7 })).coreOut 2 = false ∧ ((wants (fun x => { x with wanted := some 7 })).pcr 7).testing = false) ∧
    ((wants (fun x => { x with busy := some 0 })).carrier 0 = some 0 ∧ (wants (fun x => { x with busy := some 0 })).sparing.busy = some 0 ∧
      (wants (fun x => { x with busy := some 0 })).running = true ∧ 0 < (wants (fun x => { x with busy := some 0 })).lcores.length) := by
  decide +kernel

/-- Context 5 with one tile of MODEL segment 0 in slot 0, in a state, with the transfers named. -/
def tileIn (st : TileSt) (f : Tier → Tier) : State :=
  { withSegs busy [(0, { modelSeg with tiles := [{ Tile.fresh st 0 0 with slot := 32 * 57599 }] })] with tier := f busy.tier }

set_option maxRecDepth 100000 in
theorem witness_SelfTestsAndPeriodicChecks_periods :
    (busy.cachedTiles = [] ∧ ∀ p ∈ busy.ctxs, p.2.residents = []) ∧
    ((tileIn .upper id).f2Runs = true ∧ (tileIn .upper id).cachedTiles = [(5, 0, 0)] ∧ ((tileIn .upper id).seg 5 0).map (fun g => (g.kind, g.prot)) = some (.model, false) ∧
      ((tileIn .upper id).tile 5 0 0).map (fun t => (t.st, (((tileIn .upper id).dram.readFrame t.frame t.off tileBytes).isSome))) = some (.upper, true)) ∧
    49151 < scratchRows := by
  decide +kernel

/-- A read of 64 bytes of host window 0 that a MOVE of core 0 awaits under a tag. -/
def req0 : LinkRead := { who := .request 0 0 0, ctx := 5, win := 0, off := 0, good := 64, len := 64, parts := [none] }
def waitsHost : State :=
  { flightOf (desc0 5 0) (fun f => { f with move := some ⟨true, [], 1, [], false⟩ }) with
    link := { busy.link with tags := [(1023, ⟨3, 0, 64⟩)], reads := [(3, req0)], nextRead := 4 } }

theorem witness_HostReadsReturn :
    (waitsHost.linkOpen = true ∧ waitsHost.link.tags.get? 1023 = some ⟨3, 0, 64⟩ ∧ waitsHost.link.reads.get? 3 = some req0 ∧
      (req0.parts.set 0 (some [])).all (·.isSome) = true ∧ ([none, none].set 0 (some ([] : Bytes))).all (·.isSome) = false) ∧
    (req0.who = .request 0 0 0 ∧ waitsHost.isConf req0.ctx = false ∧ (waitsHost.current 0).isSome = true ∧ (waitsHost.flight 0 0).isSome = true) ∧
    (waitsHost.steps.list.all (fun p => p.2.stage != .faulting) = true ∧ waitsHost.link.tags.get? 0 = none) := by
  decide +kernel

/-- A promotion of the tile under way, of a MODEL or a TIERED segment; a promotion that outlives its segment. -/
def promoting (k : SegKind) : State :=
  { withSegs busy [(0, { modelSeg with kind := k, tiles := [{ Tile.fresh .promoting 0 0 with slot := 32 * 57599 }] })] with
    tier := { busy.tier with promos := [(5, 0, 0)] } }
def ghost0 : Ghost := { ctx := 5, seg := 63, tile := 31, slot := 32 * 57599, gen := none }
def demoting0 : State := tileIn .demoting (fun t => { t with demos := [(5, 0, 0)] })
/-- Context 5 without a guarantee, with one borrowed frame in use; and a frame in a state. -/
def shortOf : State :=
  ({ tileIn .upper id with tier := { busy.tier with frames := [(57599, .cache 5 false [(0, (0, 0))])] } } : State).modCtx 5 (fun x => { x with guarantee := 0 })
def frameIn (f : Nat) (u : FrameUse) (claims : AList Nat) : State := { busy with tier := { busy.tier with frames := [(f, u)], claims := claims } }

set_option maxRecDepth 100000 in
theorem witness_TiersProceed :
    (∀ k ∈ [SegKind.model, SegKind.tiered], (promoting k).running = true ∧ (promoting k).tier.promos.contains (5, 0, 0) = true ∧
      ((promoting k).seg 5 0).map (fun g => (g.kind, (promoting k).masterLost g 0)) = some (k, false) ∧
      ((promoting k).seg 5 0).bind (fun g => ((promoting k).tile 5 0 0).map (fun t => (promoting k).badBlocks g 0 t)) = some 0 ∧
      (promoting k).tier.ghosts.find? (fun x => x.ctx == 5 && x.seg == 0 && x.tile == 0) = none) ∧
    ((promoting .tiered).running = true ∧
      [(3, 7), (4, 0), (0, 8)].dedup.filter (fun w => decide (w.1 < 4) && decide (w.2 < 8)) = [(3, 7)]) ∧
    (({ busy with tier := { busy.tier with ghosts := [ghost0] } } : State).tier.ghosts.find? (fun x => x.ctx == 5 && x.seg == 63 && x.tile == 31) = some ghost0 ∧
      busy.tier.promos.contains (5, 0, 0) = false ∧ busy.tier.ghosts = [] ∧ busy.running = true) ∧
    (shortOf.f2Runs = true ∧ (shortOf.ctx 5).isSome = true ∧ shortOf.freeSlots 5 < 64 ∧ (shortOf.clockEvict 5).isSome = true ∧ 64 ≤ busy.freeSlots 5) ∧
    (demoting0.worn = false ∧ demoting0.running = true ∧ demoting0.tier.demos.contains (5, 0, 0) = true ∧ demoting0.flash = Flash.fresh ∧ demoting0.flash.pulses = true ∧
      (demoting0.tile 5 0 0).map (fun t => (t.st, (demoting0.dram.readFrame t.frame t.off tileBytes).isSome)) = some (.demoting, true)) ∧
    ((frameIn 57599 (.zeroing none) []).tier.frames.get? 57599 = some (.zeroing none) ∧ (frameIn 57599 (.zeroing none) []).tier.claims.get? 57599 = none ∧
      (frameIn 57599 (.zeroing none) [(57599, 5)]).tier.claims.get? 57599 = some 5 ∧ (frameIn 57599 (.zeroing none) []).f2Runs = true) ∧
    ((frameIn 100 (.zeroing (some (5, 3))) []).tier.frames.get? 100 = some (.zeroing (some (5, 3))) ∧ (frameIn 100 (.zeroing (some (5, 3))) []).f2Runs = true) := by
  decide +kernel

def dramS (f : Dram → Dram) : State := { busy with dram := f busy.dram }
def chanS (c : Nat) (f : DramChan → DramChan) : State := dramS (fun d => d.setChan c f)
/-- The key of the last block of the last frame, and a read and a write of it. -/
def lastKey : Nat := busy.dram.keyOf 57599 32767
def rd0 : DramRead := { rank := keyRank lastKey, block := keyIdx lastKey, cls := 3, who := .firmware, tag := 9, kept := none }
def wr0 : DramWrite := { rank := keyRank lastKey, block := keyIdx lastKey, data := List.replicate 64 1#8 }
def queued9 : State := chanS 31 (fun x => { x with writes := [wr0] })
/-- The block in its quad that is off, and on a channel that is DOWN. -/
def offQuad : State := chanS 31 (fun x => x.setQuad (keyRank lastKey) (blockQuad (keyIdx lastKey)) .off)
def downChan : State := chanS 31 (fun x => { x with state := 3 })

theorem witness_DramReads_absent : 57600 ≤ 57600 ∧ 32768 ≤ 32768 ∧ 32 ≤ 32 ∧ 8 ≤ 8 ∧ 2 ≤ 2 ∧ 4 ≤ 4 := by decide

theorem witness_DramReads :
    (downChan.running = true ∧ keyChan lastKey = 31 ∧ (downChan.dram.chan 31).state = 3 ∧ downChan.dram.keyOf 57599 32767 = lastKey) ∧
    ((offQuad.dram.chan 31).state ≠ 3 ∧ offQuad.dram.accepts lastKey = false ∧ offQuad.dram.keyOf 57599 32767 = lastKey ∧ offQuad.running = true) ∧
    ((queued9.dram.chan 31).state ≠ 3 ∧ queued9.dram.accepts lastKey = true ∧ queued9.dram.queued lastKey = some wr0.data ∧ queued9.running = true) ∧
    (busy.dram.accepts lastKey = true ∧ (busy.dram.chan 31).state ≠ 3 ∧ busy.dram.queued lastKey = none ∧ (busy.dram.chan 31).reads.length < 128) ∧
    (((chanS 31 (fun x => { x with reads := [rd0] })).dram.chan 31).issues = true ∧ (chanS 31 (fun x => { x with reads := [rd0] })).running = true ∧
      (((chanS 31 (fun x => { x with reads := [rd0] })).dram.chan 31).choose ((List.range 4).map (fun i => busy.param 0x0202 i)) false
        (fun r => ((chanS 31 (fun x => { x with reads := [rd0] })).dram.chan 31).bankFree r.rank r.block)) = some (rd0, 3, 1)) := by
  decide +kernel

/-- DRAM_READ_DATA: the block as the array holds it, one whose array cannot give it, and one symbol in error, on a block that is in no PROTECTED tile. -/
theorem witness_DramReads_data :
    (((chanS 31 (fun x => { x with issued := [rd0] })).dram.chan 31).issued = [rd0] ∧ rd0.rank < 2 ∧ rd0.block < 31457280 ∧ blockKey 31 rd0.rank rd0.block = lastKey ∧
      (rd0.kept.getD ((chanS 31 (fun x => { x with issued := [rd0] })).dram.array lastKey)).isSome = true ∧ busy.running = true) ∧
    (({ rd0 with kept := some none } : DramRead).kept.getD (busy.dram.array lastKey) = none) ∧
    (eccDecode [(40, 0x5A)] = .corrected 40 0x5A ∧ (∀ p ∈ [(40, 0x5A)], p.1 < 72) ∧ (chanS 31 (fun x => { x with issued := [] })).keysOf lastKey = none) := by
  decide +kernel

/-- A group whose rank 0 of channel 0 moves to its spare rank, with every quad of the spare up, and with n frames copied. -/
def moving (ch n : Nat) : State :=
  dramS (fun d => (d.setGroup 7 (fun g => { g with retired := some (ch, false), spareState := 2, migProgress := BitVec.ofNat 10 n })).setChan 31 (fun x =>
    { x with quads := List.replicate 8 .on }))

theorem witness_DramWrites :
    (downChan.running = true ∧ (downChan.dram.chan (keyChan lastKey)).state = 3 ∧ offQuad.dram.accepts lastKey = false) ∧
    (busy.running = true ∧ (busy.dram.chan (keyChan lastKey)).state ≠ 3 ∧ keyChan lastKey < busy.dram.chans.length ∧ busy.dram.accepts lastKey = true ∧
      busy.dram.mirror 57599 32767 = none ∧ wr0.data.length = 64 ∧ (busy.dram.chan (keyChan lastKey)).writes.length < 64) ∧
    (((moving 0 0).dram.mirror 50400 0).any (fun m => ((moving 0 0).dram.queueWrite ((moving 0 0).dram.keyOf 50400 0) wr0.data).any (fun d =>
      (d.queueWrite m wr0.data).isSome)) = true ∧ (moving 0 0).dram.accepts ((moving 0 0).dram.keyOf 50400 0) = true) ∧
    ((chanS 31 (fun x => { x with writes := List.replicate 64 { wr0 with block := 0 } })).dram.queued lastKey = none ∧
      64 ≤ ((chanS 31 (fun x => { x with writes := List.replicate 64 { wr0 with block := 0 } })).dram.chan 31).writes.length) ∧
    (((chanS 31 (fun x => { x with writes := List.replicate 48 wr0 })).dram.chan 31).issues = true ∧
      48 ≤ ((chanS 31 (fun x => { x with writes := List.replicate 48 wr0 })).dram.chan 31).writes.length) := by
  decide +kernel

theorem witness_DramUpkeep :
    ((busy.dram.chan 31).bankBusy 31 = false ∧ (busy.dram.chan 31).issues = true ∧ (busy.dram.chan 31).refreshed 16 = true ∧ 31 < busy.dram.chans.length ∧
      (busy.dram.chan 31).state ≠ 3 ∧ busy.running = true) ∧
    (((chanS 31 (fun x => { x with pnrDue := [(16, 5)] })).dram.chan 31).pnrDue.contains (16, 5) = true ∧ ((chanS 31 (fun x => { x with pnrDue := [(16, 5)] })).dram.chan 31).issues = true) ∧
    (busy.f2Runs = true ∧ busy.dram.patrolNext busy.dram.patrol = some 0 ∧ (busy.dram.array 0).isSome = true) ∧
    ((dramS (fun d => { d with poison := [0] })).dram.patrolNext 0 = some 0 ∧ (dramS (fun d => { d with poison := [0] })).dram.array 0 = none ∧
      (dramS (fun d => { d with poison := [0] })).f2Runs = true) := by
  decide +kernel

theorem witness_DramService :
    (busy.f2Runs = true ∧ (busy.dram.chan 31).due = false ∧ (busy.dram.chan 31).training = none ∧ (busy.dram.chan 31).state ≠ 3 ∧
      busy.isDue (busy.dram.chan 31) (.temperature (-10)) = true ∧ busy.isDue (busy.dram.chan 31) (.temperature 9) = false) ∧
    (((chanS 31 (fun x => { x with state := 1, training := some ⟨0, false, false⟩ })).dram.chan 31).state = 1 ∧ busy.dram.change = none) ∧
    (((chanS 31 (fun x => { x with state := 1, training := some ⟨27, true, false⟩ })).dram.chan 31).training = some ⟨27, true, false⟩) ∧
    (busy.dram.isRetired 28 false = false ∧ busy.dram.isSpare 28 false = false ∧ (chanS 28 (fun x => { x with ueRanks := [0] })).dram.isRetired 28 false = false ∧
      (chanS 28 (fun x => { x with ueRanks := [0] })).mustRetire 28 false = true ∧ (chanS 28 (fun x => { x with ueRanks := [0] })).f2Runs = true) ∧
    ((moving 0 958).f2Runs = true ∧ ((moving 0 958).dram.group 7).retired = some (0, false) ∧ ((moving 0 958).dram.group 7).spareState = 2 ∧
      (List.range 4).all (fun q => ((moving 0 958).dram.chan (7 * 4 + ((moving 0 958).dram.group 7).spareCh.toNat)).quad (b2n ((moving 0 958).dram.group 7).spareRank) q == .on) = true ∧
      ((moving 0 958).dram.group 7).migProgress.toNat + 1 < 960) ∧
    ((dramS (fun d => { d with change := some (1, 31) })).dram.change = some (1, 31) ∧ (dramS (fun d => { d with change := some (1, 31) })).f2Runs = true) := by
  decide +kernel

/-- A mailbox of the PF with one write. -/
def mboxS (off : Nat) (v : Word) : State := busy.modFunc 0 (fun x => { x with mbox := [⟨off, v, 1⟩] })

theorem witness_QuadPower :
    ((busy.dram.chan 31).quad 0 3 = .on ∧ busy.quadUsed 31 0 3 = false ∧ busy.dram.isSpare 31 (0 == 1) = false ∧ busy.f2Runs = true) ∧
    (((chanS 31 (fun x => x.setQuad 1 1 (.closing true))).dram.chan 31).quad 1 1 = .closing true ∧
      ((chanS 31 (fun x => x.setQuad 1 1 (.closing true))).dram.chan 31).writes = [] ∧ ((chanS 31 (fun x => x.setQuad 1 1 (.closing true))).dram.chan 31).reads = []) ∧
    (((chanS 30 (fun x => x.setQuad 1 3 .off)).dram.chan 30).quad 1 3 = .off ∧ (chanS 30 (fun x => x.setQuad 1 3 .off)).dram.dark 30 1 3 = false ∧
      ((chanS 30 (fun x => x.setQuad 1 3 (.closing false))).dram.chan 30).quad 1 3 = .closing false ∧ (chanS 30 (fun x => x.setQuad 1 3 (.closing false))).dram.dark 30 1 3 = false) ∧
    (((chanS 31 (fun x => x.setQuad 0 0 .rising)).dram.chan 31).quad 0 0 = .rising ∧ (chanS 31 (fun x => x.setQuad 0 0 .rising)).running = true) ∧
    ((mboxS 0x5050 0x11F).nextEntry = some (0, ⟨0x5050, 0x11F, 1⟩) ∧ (mboxS 0x5050 0x11F).drainRow 0 ⟨0x5050, 0x11F, 1⟩ = .train ∧ (0x11F : Word).toNat % 32 = 31 ∧
      ((mboxS 0x5050 0x11F).dram.chan 31).state ≠ 3 ∧ ((mboxS 0x5050 0x11F).dram.chan 31).due = false ∧ ((mboxS 0x5050 0x11F).dram.chan 31).training = none) ∧
    ((mboxS 0x5054 0x13F).nextEntry = some (0, ⟨0x5054, 0x13F, 1⟩) ∧ (mboxS 0x5054 0x13F).drainRow 0 ⟨0x5054, 0x13F, 1⟩ = .retire ∧ ((mboxS 0x5054 0x13F).func 0).reads = []) := by
  decide +kernel

/-- The last page of the array, and a state of its die. -/
def page9 : Nat := pageAddr 63 7 143 1023
def flashS (f : Flash → Flash) : State := { busy with flash := f busy.flash }
def dieS (f : Die → Die) : State := flashS (fun x => x.modDie 63 f)
def sensing9 (n : Nat) : State := dieS (fun d => { d with sensing := [⟨page9, 9, n, List.range 8, false, false⟩] })
/-- An operation on the last plane of the die. -/
def opS (o : PlaneOp) : State := dieS (fun d => { d with ops := [(7, o)] })

theorem witness_FlashReads :
    (busy.running = true ∧ pageOk page9 = true ∧ paDie page9 = 63 ∧ paPlane page9 = 7 ∧ (busy.flash.die 63).pulsing = false ∧ (busy.flash.die 63).waiting = [] ∧
      (busy.flash.die 63).senses 7 = false ∧ pageOk (pageAddr 63 7 144 0) = false ∧ (64 ≤ 64 ∧ 8 ≤ 8 ∧ 73728 ≤ 73728)) ∧
    (((opS ⟨.erase 0, true, 0⟩).flash.die 63).pulsing = true ∧ (opS ⟨.erase 0, true, 0⟩).running = true) ∧
    (∀ n ∈ [0, 2, 8, 9], (((sensing9 n).flash.die 63).sensing.find? (fun r => paPlane r.addr == 7 && (r.ladder == 0) == (n == 0))).map (fun r => (r.ladder, r.left)) =
      some (n, [0, 1, 2, 3, 4, 5, 6, 7]) ∧ (sensing9 n).running = true) ∧
    ((∀ c ∈ List.range 8, (([] : List (List Nat)).getD c []).length ≤ 96) ∧ (∃ c ∈ List.range 8, 96 < ([List.range 97].getD c []).length) ∧
      (∃ c ∈ List.range 8, 72 < ([List.range 73].getD c []).length) ∧ ∃ c ∈ List.range 8, 220 < ([List.range 221].getD c []).length) := by
  decide +kernel

theorem witness_FlashPrograms :
    (busy.flash.accepts (pageAddr 63 7 143 0) = true ∧ pageOk (pageAddr 63 7 143 0) = true ∧ busy.flash.op 63 7 = none ∧ busy.flash.pulses = true ∧ busy.running = true ∧
      busy.mayProgram .demotion = true) ∧
    (busy.flash.accepts page9 = false ∧ pageOk page9 = true ∧ busy.mayProgram .install = true) ∧
    ((flashS (fun x => { x with state := 2 })).mayProgram .demotion = false ∧ (flashS (fun x => { x with state := 2 })).running = true) ∧
    ∀ b : Bytes, b = List.replicate 16384 0#8 → (opS ⟨.program page9 .spill b, true, 8⟩).flash.op 63 7 = some ⟨.program page9 .spill b, true, 8⟩ ∧ b.length = 16384 :=
  ⟨by decide +kernel, by decide +kernel, by decide +kernel, fun _ h => ⟨rfl, by rw [h, List.length_replicate]⟩⟩

theorem witness_FlashErases :
    ((flashS (fun x => { x with eraseQueue := [73727] })).flash.mayErase 73727 = true ∧ (flashS (fun x => { x with eraseQueue := [73727] })).f3Runs = true ∧
      busy.flash.mayErase 73727 = false) ∧
    ((opS ⟨.erase 73727, true, 3⟩).flash.op 63 7 = some ⟨.erase 73727, true, 3⟩ ∧ (opS ⟨.erase 73727, true, 3⟩).running = true ∧ (opS ⟨.erase 73727, true, 3⟩).flash.owed = []) := by
  decide +kernel

/-- The blocks of the last plane closed by spill writes, the last of them with no valid page. -/
def fullPlane : State :=
  flashS (fun x => { x with blocks := (List.range 144).map (fun i => (73584 + i, { FlashBlock.fresh with state := .closed, writer := .spill })) })

/-- Two blocks for static wear levelling: one that holds data, never erased, and the most worn free one. -/
def wornS : State :=
  flashS (fun x => { x with blocks := [(73726, { FlashBlock.fresh with state := .closed }), (73727, { FlashBlock.fresh with erases := 258 })], map := [(0, blockPage 73726 0)] })

set_option maxRecDepth 100000 in
theorem witness_FlashUpkeep :
    ((dieS (fun d => { d with ops := [(7, ⟨.erase 0, true, 7⟩)], waiting := [⟨page9, 9, 0, [], false, false⟩] })).flash.op 63 7 = some ⟨.erase 0, true, 7⟩ ∧
      (opS ⟨.erase 0, true, 8⟩).flash.op 63 7 = some ⟨.erase 0, true, 8⟩ ∧ (opS ⟨.erase 0, true, 8⟩).flash.pulses = true) ∧
    (4096 ≤ (AList.getD (flashS (fun x => { x with stats := [((63 * 8 + 7) * 3 + 2, ⟨4096, 0, 0⟩)] })).flash.stats ((63 * 8 + 7) * 3 + 2) ⟨0, 0, 0⟩).words ∧
      (AList.getD busy.flash.offsets ((63 * 8 + 7) * 3 + 2) 0).natAbs ≤ 31) ∧
    (busy.f3Runs = true ∧ busy.mayMove 73727 = true ∧ ((flashS (fun x => x.setBlock 73727 { FlashBlock.fresh with reads := 2 ^ 27 })).flash.block 73727).reads = 2 ^ 27 ∧
      ((flashS (fun x => x.setBlock 73727 { FlashBlock.fresh with relocate := true })).flash.block 73727).relocate = true) ∧
    (((fullPlane.flash.planeBlocks 63 7).filter (fun b => (fullPlane.flash.block b).state == .erased)).length < 2 ∧ fullPlane.flash.emptiest 63 7 = some 73584 ∧
      fullPlane.mayMove 73584 = true ∧ fullPlane.f3Runs = true) ∧
    (wornS.flash.leastWorn = some 73726 ∧ wornS.flash.mostWornFree = some 73727 ∧ wornS.mayMove 73726 = true ∧ wornS.flash.minPe + 256 < wornS.flash.maxPe) := by
  decide +kernel

/-- JOURNAL_CHECKPOINT: 4,096 records, and none. -/
theorem witness_FlashUpkeep_checkpoint :
    ((flashS (fun x => { x with records := List.replicate 4096 (.eraseEnd 0) })).f3Runs = true ∧ (flashS (fun x => { x with records := List.replicate 4096 (.eraseEnd 0) })).flash.pulses = true ∧
      4096 ≤ (flashS (fun x => { x with records := List.replicate 4096 (.eraseEnd 0) })).flash.records.length) ∧ busy.flash.records.length < 4096 :=
  ⟨⟨by decide +kernel, by decide +kernel, by decide +kernel⟩, by decide +kernel⟩

def coreS (n : Nat) (f : FwCore → FwCore) : State := { busy with fw := { busy.fw with cores := busy.fw.cores.modify n f } }
/-- An activation whose cores have all restarted, with its command; a pending record; a queued log entry; a Cairn record. -/
def act0 : Activate := { fid := 7, image := ⟨0, 1, [], 0, 0, 0, 0, 64⟩, todo := [], done := [] }
def actS : State := { onA 0x91 [] with fw := { busy.fw with activate := some act0 } }
def pend0 : CfgPending := { k := 1, subsys := 2, fid := 7, entries := [] }
def item0 : LogItem := { func := 0, ring := none, lsn := 1, entry := [] }

theorem witness_FirmwareRows :
    (busy.running = true ∧ 3 < busy.fw.cores.length ∧ busy.coreOut 3 = false ∧ busy.secondStage 3 = false ∧ busy.fw.activate = none) ∧
    ((coreS 3 (fun c => { c with restartAt := some 0 })).secondStage 3 = true ∧ (coreS 3 (fun c => { c with restartAt := some 0 })).coreOut 3 = false) ∧
    ((coreS 3 (fun c => { c with restarting := true })).coreOut 3 = true ∧ 3 < (coreS 3 (fun c => { c with restarting := true })).fw.cores.length) ∧
    (actS.fw.activate = some act0 ∧ actS.cmds.find act0.fid = some (admC 0x91 []) ∧ actS.running = true) ∧
    (({ busy with cfgm := { busy.cfgm with pending := [pend0] } } : State).cfgm.pending.find? (fun q => q.subsys == 2) = some pend0 ∧ busy.quiescent 2 = true ∧
      busy.coreOut 0 = false) ∧
    (({ busy with fw := { busy.fw with logQ := [item0] } } : State).fw.logQ = [item0] ∧
      ((busy.modLc 7 (fun l => { l with cairn := [⟨5, 0, 0, []⟩] })).lc 7).cairn.head? = some ⟨5, 0, 0, []⟩) := by
  decide +kernel

def powerS (f : Power → Power) : State := { busy with power := f busy.power }

theorem witness_GovernorRows :
    (busy.governs = true ∧ busy.capMw < busy.capMw + 1 ∧ vcoreLow < busy.power.vcore.toNat) ∧
    ((powerS (fun p => { p with vcore := 130 })).power.vcore.toNat ≤ vcoreLow) ∧
    ((busy.capMw : Int) ≤ busy.capMw ∧ (0 : Int) ≤ (busy.param 0x0702 0 : Nat) ∧ ¬(busy.capMw * 100 ≤ busy.capMw * 95)) ∧
    (0 * 100 ≤ busy.capMw * 95 ∧ (0 : Int) * 100 ≤ (busy.param 0x0702 0 : Nat) * 95 ∧ (powerS (fun p => { p with pacing := 1 })).power.pacing ≠ 0) ∧
    busy.capMw * 5 < (busy.capMw * 2) * 4 ∧
    ((powerS (fun p => { p with throttleAt := none })).power.throttleAt.all (fun t => decide (t + 10000 ≤ busy.boot.timer)) = true ∧
      (powerS (fun p => { p with throttleAt := some 0 })).power.throttleAt = some 0 ∧ busy.boot.timer < 0 + 10000) ∧
    (List.replicate 12 (65535 : BitVec 16)).length = 12 := by
  decide +kernel

theorem witness_DroopAndThermalRows :
    (busy.governs = true ∧ 11 ∉ busy.power.holds) ∧
    (11 ∈ (powerS (fun p => { p with holds := [11] })).power.holds ∧ (powerS (fun p => { p with holds := [11] })).steps.list = []) ∧
    (11 ∈ ({ oneStep .running 0 with power := { busy.power with holds := [11] } } : State).power.holds ∧
      ({ oneStep .running 0 with power := { busy.power with holds := [11] } } : State).step? 0 = some (step0 .running 0)) ∧
    ((95 : Int) < 96 ∧ (89 : Int) < 90 ∧ (90 : Int) < 91 ∧ (84 : Int) < 85) := by
  decide +kernel

/-- A serving tile late enough for an idle core to be gated. -/
def late : State := { busy with boot := { busy.boot with timer := 2 ^ 40 } }
def domS (p : Nat) (d : BitVec 2) (pend : Bool) : State := { (withPc (oneStep .waiting 0) p (fun x => { x with dom := d, pendEn := pend })) with boot := late.boot }

theorem witness_CoreGating :
    ((late.pcr 7).dom = 0 ∧ (late.pcr 7).testing = false ∧ late.coreUsed 7 = false ∧ late.sparing.busy = none ∧ (late.pcr 7).lastUse + late.param 0x0704 0 ≤ late.boot.timer ∧
      late.running = true ∧ late.coreOut 1 = false) ∧
    ((late.pcr 8).dom = 0 ∧ (late.pcr 8).testing = false ∧ late.carried 8 = none ∧ late.sparing.wanted = none) ∧
    (((domS 7 1 true).pcr 7).dom = 1 ∧ (domS 7 1 true).running = true) ∧
    ((domS 0 2 false).coreNeeded 0 = true ∧ ((domS 0 2 false).pcr 0).dom = 2 ∧ (domS 0 1 false).coreNeeded 0 = true ∧ ((domS 0 1 false).pcr 0).dom = 1 ∧
      ((domS 0 1 false).pcr 0).pendEn = false) ∧
    (((domS 8 3 false).pcr 8).dom = 3 ∧ 8 < (domS 8 3 false).pcores.length) := by
  decide +kernel

/- Ill-formed events, refused by the checks of WellFormed: one for each bound. -/

theorem smoke_host : ([.functionLevelReset 256, .vfDisable 0, .vfDisable 256, .bootComplete 7 6 true, .moduleRetrainDone true 16 6, .unsupportedRequest 256 0,
    .doorbellSqTail 256 0 4 0, .doorbellSqTail 0 131072 4 0, .doorbellSqTail 0 0 2 0, .doorbellCqHead 256 0 4 0, .doorbellCqHead 0 131068 8 0, .doorbellCqHead 0 4 16 0,
    .controlWindowWrite 256 0 4 0, .controlWindowWrite 0 65536 4 0, .controlWindowRead 256 0 4, .controlWindowRead 0 65536 4, .msixTableWrite 256 0 4 0,
    .msixTableWrite 0 32768 4 0] : List Instr).all (fun i => !i.wf) = true := by decide +kernel

/-- Errors on no row and on no core. -/
def noRow : List RowError := [⟨0, 49152, true⟩]
def noCore : List RowError := [⟨8, 0, true⟩]

theorem smoke_cores : ([.matmul 8 [], .matmul 0 noRow, .matmul 0 noCore, .scan 8 [], .scan 0 noRow, .attn 8 [], .attn 0 noRow, .vec 8 [], .vec 0 noCore, .move 8 [], .move 0 noRow,
    .reduceAllReduce 8 [], .reduceAllReduce 0 noRow, .reduceAllGather 8 [], .reduceAllGather 0 noCore, .reduceBroadcast 8 [], .reduceBroadcast 0 noRow, .checkCompare 8 [],
    .checkCompare 0 noRow, .checkSend 8 [], .checkSend 0 noCore, .checkReceive 8 [], .checkReceive 0 noRow, .checkShadow 8 [], .checkShadow 0 noRow, .belayPost 8, .belayWait 8,
    .belayIncrement 8 0, .belayIncrement 0 65536, .digestSlotFill 8 0, .digestSlotFill 0 256, .descriptorComplete 8 0, .ropeFlitTransfer 11 true true .req,
    .ropeCreditReturn 11 true true .req, .collectiveContribution 8 false, .collectiveDelivery 8 false, .collectiveCheckReport 8, .collectiveDone 8, .stepDoneReport 8,
    .faultReport 8, .coreStopTimeout 8, .katPeriodExpiry 9, .katComplete 9 true, .spareSwitch 8, .spareCopyComplete 8 [], .scrubWrite 9 0, .scrubWrite 0 49152] :
    List Instr).all (fun i => !i.wf) = true := by
  decide +kernel

theorem smoke_tiers : ([.promotionComplete 4096 0 0 [], .promotionComplete 0 0 32 [], .promotionComplete 0 0 0 [(4, 0)], .promotionComplete 0 0 0 [(0, 8)], .evictAhead 4096,
    .demotionComplete 4096 0 0, .demotionComplete 0 0 32, .frameZeroed 57600, .hostReadCompletion 8192 [], .dmaReadTimeout 8192 true] : List Instr).all (fun i => !i.wf) = true := by
  decide +kernel

theorem smoke_dram : ([.dramReadRequest 57600 0 .firmware 0, .dramReadRequest 0 32768 .firmware 0, .dramReadRequest 0 0 (.step 8) 0, .dramReadRequest 0 0 (.ctx 4096) 0,
    .dramWriteRequest 57600 0 .firmware (List.replicate 64 0#8), .dramWriteRequest 0 32768 .firmware (List.replicate 64 0#8), .dramWriteRequest 0 0 .firmware [],
    .dramWriteRequest 0 0 (.step 8) (List.replicate 64 0#8), .dramReadIssue 32 false, .dramReadData 32 [], .dramReadData 0 [(80, 1)], .dramReadData 0 [(0, 0)],
    .dramReadData 0 [(0, 256)], .writeDrainBurst 32 0 false, .pageIdleClose 32 0, .pageIdleClose 0 32, .refresh 32 0 false, .refresh 0 32 false, .mr4Poll 32 0 0,
    .neighbourRefresh 32 0 0, .neighbourRefresh 0 32 0, .patrolScrub [(80, 1)], .retrainDue 32 .period, .retrainSliceStart 32, .retrainSliceEnd 32 true, .rankRetire 32 true,
    .migrationFrameCopied 8 [], .migrationFrameCopied 0 [32768], .setPointChange 3, .channelSwitchDone 32, .quadPowerDown 32 0 0, .quadPowerDown 0 2 0, .quadPowerDown 0 0 4,
    .quadOffAck 32 0 0, .quadOffAck 0 2 0, .quadOffAck 0 0 4, .quadPowerUp 32 0 0, .quadPowerUp 0 2 0, .quadPowerUp 0 0 4, .quadPowerUpDone 32 0 0, .quadPowerUpDone 0 2 0,
    .quadPowerUpDone 0 0 4] : List Instr).all (fun i => !i.wf) = true := by decide +kernel

theorem smoke_flash : ([.flashReadIssue 64 0 0, .flashReadIssue 0 (2 ^ 27) 0, .flashReadIssue 0 (144 * 512) 0, .flashReadIssue 1 0 0, .flashReadDone 64 0 [], .flashReadDone 0 8 [],
    .flashReadDone 0 0 (List.replicate 9 []), .flashReadDone 0 0 [[18432]], .flashReadDone 0 0 [[5, 5]], .flashRetrySenseDone 64 0 [], .flashRetrySenseDone 0 8 [],
    .flashRetrySenseDone 0 0 [[18432]], .calStatisticsFull 64 0 0, .calStatisticsFull 0 3 0, .calStatisticsFull 0 0 8, .flashProgramIssue (144 * 512) .install [],
    .flashProgramIssue 0 .install [], .flashPulseEnd 64 0, .flashPulseEnd 0 8, .flashProgramDone 64 0 true, .flashProgramDone 0 8 true, .flashEraseIssue 73728,
    .flashEraseDone 64 0 true, .flashEraseDone 0 8 true, .relocation 73728 [], .relocation 0 [(1024, 0)], .garbageCollection 64 0 [], .garbageCollection 0 8 [],
    .garbageCollection 0 0 [(0, 8)], .staticWearLevelling [(1024, 0)]] : List Instr).all (fun i => !i.wf) = true := by decide +kernel

theorem smoke_firmware_power : ([.watchdogExpiry 4, .fwCoreRestart 4, .cfgRecordApply 0, .cfgRecordApply 9, .cairnRecordDelivery 8, .stepTimeMeasure [], .droopHold 12,
    .droopRelease 12, .droopTimeout 12, .coreGate 9, .coreGateDone 9, .coreUngate 9, .coreUngateDone 9] : List Instr).all (fun i => !i.wf) = true := by decide +kernel

/- Values worked out in the spec or by hand from its rules. -/

/-- The conversions of the worked example after R47: to E4M3 in saturating mode, and to BF16. -/
theorem test_convert : [0x3E99999A, 0x3E980000, 0xBE980000, 0x43E60000, 0x43FA0000, 0x3A83126F, 0x3A800000, 0x7FC00000, 0x7F800000].map (fun b => convert 3 true (ofF32 b)) =
      [(0x2A, 0), (0x2A, 0), (0xAA, 0), (0x7E, 0), (0x7E, Flags.sat), (0x01, 0), (0x00, 0), (0x7E, Flags.nanSeen ||| Flags.nanMapped), (0x7E, Flags.infSeen ||| Flags.sat)] ∧
    [0x3F808000, 0x3F818000].map (fun b => convert 2 false (ofF32 b)) = [(0x3F80, 0), (0x3F82, 0)] := by decide +kernel

/-- The E2M1 elements of the worked example after R57: 7.9, −0.8, 0.25 and 2.5 under scale 0x7F. -/
theorem test_convert_e2m1 : [0x40FCCCCD, 0xBF4CCCCD, 0x3E800000, 0x40200000].map (fun b => (convert 7 true (ofF32 b)).1) = [0x7, 0xA, 0x0, 0x4] := by decide +kernel

/-- Groups of an accumulation round once each (worked example after R57): 2^24, then 1 − 2^24 exactly, leave 1. -/
theorem test_group_sum : toF32 (round32 (FVal.add (round32 (exactSum [.fin false 1 24])).1 (round32 (exactSum [.fin false 1 0, .fin true 1 24])).1)).1 = 0x3F800000 := by
  decide +kernel

set_option maxRecDepth 100000 in
/-- The codes of the worked example after R251, BASE 128: code and mantissa; and the bytes of the first three. -/
theorem test_ridge_codes : [0x4040, 0xBE9A, 0x3D4D, 0x3DC0, 0x3BA4, 0x3B45].map (ridgeCode 128 defaultTable) =
      [0 * 128 + 64, 1024 + 3 * 128 + 26, 5 * 128 + 77, 4 * 128 + 0, 6 * 128 + 0, 7 * 128 + 0] ∧
    toLe (0x040 + 2048 * (0x59A + 2048 * 0x2CD)) 3 = [0x40#8, 0xD0#8, 0x6C#8] ∧ ridgeValue 128 defaultTable (4 * 128) = 0x3E00 := by decide +kernel

/-- Zero inputs of the special functions (R71): COS and EXP 1, SIGMOID 0.5, SOFTPLUS ln 2, LOG minus infinity; and LOG(1) = +0. -/
theorem test_special_zero : [(0x18, 0x80000000), (0x10, 0), (0x1A, 0), (0x1B, 0), (0x12, 0), (0x12, 0x3F800000)].map (fun p => toF32 (mathFn p.1 (ofF32 p.2)).1) =
    [0x3F800000, 0x3F800000, 0x3F000000, 0x3F317218, 0xFF800000, 0] := by decide +kernel

/-- The check values of the three CRCs over "123456789", from their published catalogue parameters (R89, R134, R247). -/
theorem test_crcs : crc64 (asciiBytes "123456789") = 0x6C40DF5F0B497347 ∧ crc32 (asciiBytes "123456789") = 0xCBF43926 ∧ crc16 (asciiBytes "123456789") = 0x29B1 := by
  decide +kernel

/-- One error on a check symbol of the address is uncorrectable, one on a data symbol is corrected (R274). -/
theorem test_ecc : eccDecode [(40, 0x5A)] = .corrected 40 0x5A ∧ eccDecode [(0, 1)] = .uncorrectable ∧ eccDecode [] = .clean := by decide +kernel

/-- READY and PHASE at reset, and in service (R427): a register that does not answer before READY reads zero. -/
theorem test_reset : State.reset.boot.ready = false ∧ State.reset.readWindow 0 0x2018 4 = 0 ∧ (busy.modFunc 0 (fun f => { f with ctxSel := 5 })).readWindow 0 0x2018 4 = 64 := by
  decide +kernel

/-- The state after an event. -/
def after (i : Instr) (s : State) : State :=
  match exec i s with
  | .next t => t
  | _ => s

/-- CHECK_SET sets LEVEL 3 and a mask for the next step, not the one in force (R429), and its completion leaves the command list. -/
theorem test_check_set : ((after (.checkSet 7) (onC 0x40 [(64, 3), (72, 127)])).ctx 5).map (fun x => (x.setLevel, x.setMask, x.level, x.mask)) = some (3, 127, ctx5.level, ctx5.mask) ∧
    (after (.checkSet 7) (onC 0x40 [(64, 3), (72, 127)])).cmds.find 7 = none := by decide +kernel

/-- The first WINDOW_OPEN of a context takes WINDOW_ID 0, and covers its 64 bytes (R354). -/
theorem test_window_open : ((after (.windowOpen 7) (onC 0x28 topWin)).ctx 5).map (fun x => x.windows) = some [(0, ⟨2 ^ 64 - 64, 64, none⟩)] := by decide +kernel

/-- A read of a DRAM block that a queued write matches answers with its bytes (R280). -/
theorem test_read_queued : (after (.dramReadRequest 57599 32767 .firmware 9) queued9).dram.answers = [(9, some (List.replicate 64 1#8))] := by
  decide +kernel

/-- A program out of order is refused before any pulse (R309). -/
theorem test_program_order : (after (.flashProgramIssue page9 .demotion []) busy).flash.refused = 1 ∧
    (after (.flashProgramIssue (pageAddr 63 7 143 0) .demotion []) busy).flash.refused = 0 := by
  decide +kernel

/-- The commit of a step of one position moves its stream from position 0 to 1 and posts the completion (R21, R180). -/
theorem test_commit : (after (.stepCommit 0) (doneStep 0 255)).strms.map (fun p => (p.1, p.2.position)) = [(64, 1)] ∧
    (after (.stepCommit 0) (doneStep 0 255)).steps.list = [] := by decide +kernel

/-- A dispatch takes the next step sequence number of the context and waits for its start token (R24, R158). -/
theorem test_dispatch : ((after (.stepDispatch 0 false) (oneStep .waiting 0)).step? 0).map (fun r => (r.stage, r.seq)) = some (.dispatched, 0) ∧
    ((after (.stepDispatch 0 false) (oneStep .waiting 0)).ctx 5).map (fun x => x.seq) = some 1 := by decide +kernel

/- Number formats. -/

theorem witness_IntegerElements : ((intRange 0xC).1 ≤ -8 ∧ (-8 : Int) ≤ (intRange 0xC).2) ∧ ((intRange 0x8).1 ≤ 2 ^ 31 - 1 ∧ (2 ^ 31 - 1 : Int) ≤ (intRange 0x8).2) ∧
    15 < 2 ^ fmtWidth 0xC ∧ 255 < 2 ^ fmtWidth 0xB := by decide

theorem witness_ScaledElements :
    (254 < 255 ∧ (0x3 : Nat) ≠ 0xA ∧ (0x3 : Nat) ≠ 0xC ∧ decodeElem 0x3 0x38 = .fin false 8 (-3)) ∧ 255 % 256 = 255 ∧
    (Desc.fld (1 * 2 ^ 40) 5 1 0 = 1 ∧ 31 < 32 ∧
      streamByte (fun _ => 255) ((Desc.region (1 * 2 ^ 40) 24).first + 0 * cdiv (cdiv (matDims (1 * 2 ^ 40) 1).k 32) 512) 0 = 255) := by
  decide

theorem witness_ZerosAndExtremes : ((0 : Nat) = 0 ∨ (5 : Nat) = 0) ∧ rneAt 1 (-200) (lastPlace ⟨23, 8, 127⟩ 1 (-200)) = 0 ∧
    (∃ q, exactSum [.fin true 0 3, .fin true 0 7] = .fin true 0 q) ∧ FVal.lt (.fin true 1 0) (.fin false 1 (-149)) = true :=
  ⟨Or.inl rfl, by decide, ⟨3, by decide⟩, by decide⟩

theorem witness_ElementsConvertToThemselves :
    ((0x7F7FFFFF : Nat) < 2 ^ fmtWidth 0 ∧ decodeElem 0 0x7F7FFFFF = .fin false 16777215 104 ∧ decodeElem 0 0x80000001 = .fin true 1 (-149)) ∧
    ((0xFC : Nat) < 2 ^ fmtWidth 4 ∧ decodeElem 4 0xFC = .inf true) := by decide

end Sys2Proof.Tests
end

namespace Sys2Proof.Machine

/- The block as a whole: every event answers within the frame of its row. -/

/-- Programming the ROLLBACK bits that a burned pair of rows shows gives that pair again (R326). -/
theorem Otp.burnedOf_burnedOf (o r : Otp) : o.burnedOf (o.burnedOf r) = o.burnedOf r := by
  simp only [Otp.burnedOf, OtpRow.burn, ← BitVec.or_assoc, BitVec.or_self]

theorem Nv.burnedOf_burnedOf (nv r : Nv) : nv.burnedOf (nv.burnedOf r) = nv.burnedOf r := by
  simp only [Nv.burnedOf, Otp.burnedOf_burnedOf]

/-- A state within the frame of a row is its own part within that frame. -/
theorem State.within_within (s : State) (c : Instr) (r : State) : s.within c (s.within c r) = s.within c r := by
  cases c with
  | fwSvnCommit | fwRecoveryGo => simp only [State.within, State.svnCmd, State.hostRow, State.cplOf, Nv.burnedOf_burnedOf]
  | _ => rfl

/-- What an event answers: a state within the frame of its row, or a fault when its operands do not exist. -/
inductive State.Answers (s : State) (c : Instr) : Result → Prop
  | next (r : State) : s.Answers c (.next (s.within c r))
  | fault (f : Fault) (h : c.wf = false) : s.Answers c (.fault f)

namespace State.Answers

variable {s t : State} {c : Instr} {o : Result} {p : Prop} [Decidable p]

theorem of_eq (h : t = s.within c t) : s.Answers c (.next t) := by
  rw [h]
  exact .next t

theorem ite {o' : Result} (h : s.Answers c o) (h' : s.Answers c o') : s.Answers c (if p then o else o') := by
  split
  · exact h
  · exact h'

/-- A row that changes nothing when its condition fails. -/
theorem gate (hs : s = s.within c s) (ht : s.Answers c (.next t)) : s.Answers c (if p then .next t else .next s) := ht.ite (.of_eq hs)

/-- The same with the condition inside the next state. -/
theorem gateState (hs : s = s.within c s) (ht : s.Answers c (.next t)) : s.Answers c (.next (if p then t else s)) := by
  split
  · exact ht
  · exact .of_eq hs

/-- A row that faults for operands that do not exist. -/
theorem bounded {f : Fault} (hp : c.wf = true → ¬p) (ho : s.Answers c o) : s.Answers c (if p then .fault f else o) := by
  split
  · next h => exact .fault f (Bool.eq_false_iff.mpr (fun hw => hp hw h))
  · exact ho

theorem eq_within (h : s.Answers c (.next t)) : t = s.within c t := by
  cases h with
  | next r => exact (s.within_within c r).symm

theorem of_wf (h : s.Answers c o) (hw : c.wf = true) : ∃ t, o = .next t := by
  cases h with
  | next r => exact ⟨_, rfl⟩
  | fault f hf => rw [hw] at hf; cases hf

end State.Answers

/-- What a deferred command may change holds each group of rows that its effect runs in. -/
theorem State.within_effect (s r : State) (fid : Nat) :
    s.within (.commandTakesEffect fid) (s.cplOf r) = s.cplOf r ∧ s.within (.commandTakesEffect fid) (s.schedCmd r) = s.schedCmd r ∧
      s.within (.commandTakesEffect fid) (s.streamCmd r) = s.streamCmd r ∧ s.within (.commandTakesEffect fid) (s.tierCmd r) = s.tierCmd r ∧
      s.within (.commandTakesEffect fid) (s.secCmd r) = s.secCmd r ∧ s.within (.commandTakesEffect fid) (s.checkCmd r) = s.checkCmd r ∧
      s.within (.commandTakesEffect fid) (s.ctxCmd r) = s.ctxCmd r ∧ s.within (.commandTakesEffect fid) (s.fwCmd r) = s.fwCmd r ∧
      s.within (.commandTakesEffect fid) (s.svnCmd r) = s.svnCmd r :=
  ⟨rfl, rfl, rfl, rfl, rfl, rfl, rfl, rfl, rfl⟩

theorem State.effectOf_within {op : Nat} {f : State → Cmd → State} (h : State.effectOf op = some f) (s : State) (x : Cmd) (fid : Nat) :
    s.within (.commandTakesEffect fid) (f s x) = f s x := by
  unfold State.effectOf at h
  split at h <;> cases h <;> simp only [State.within_effect]

theorem State.takeEffect_within (s : State) (fid : Nat) : s.takeEffect fid = s.within (.commandTakesEffect fid) (s.takeEffect fid) := by
  unfold State.takeEffect
  split
  · rfl
  · split
    · rfl
    · next hf =>
      split
      · exact (State.effectOf_within hf s _ fid).symm
      · rfl

/-- Page addresses of blocks that a plane has are pages of the array (R304). -/
theorem pageOk_of_wf {a : Nat} (h : pageWf a = true) : pageOk a = true := by
  unfold pageWf at h
  exact h

/- Rows that first look for what they act on. -/

theorem execWake_answers (s : State) : s.Answers .wake (execWake s) := by
  unfold execWake
  split
  · exact .of_eq rfl
  · split <;> exact .of_eq rfl
  · exact .of_eq rfl

theorem execFwActivateConfirm_answers (s : State) : s.Answers .fwActivateConfirm (execFwActivateConfirm s) := by
  unfold execFwActivateConfirm
  split
  · exact .gate rfl (.next _)
  · exact .of_eq rfl

theorem execCfgRecordApply_answers (s : State) (n : Nat) : s.Answers (.cfgRecordApply n) (execCfgRecordApply n s) := by
  unfold execCfgRecordApply
  split
  · exact .gate rfl (.next _)
  · exact .of_eq rfl

theorem execLogEntryDelivery_answers (s : State) : s.Answers .logEntryDelivery (execLogEntryDelivery s) := by
  unfold execLogEntryDelivery
  split
  · exact .gate rfl (.of_eq rfl)
  · exact .of_eq rfl

theorem execCairnRecordDelivery_answers (s : State) (core : Nat) : s.Answers (.cairnRecordDelivery core) (execCairnRecordDelivery core s) := by
  unfold execCairnRecordDelivery
  split
  · exact .gate rfl (.of_eq rfl)
  · exact .of_eq rfl

theorem execPatrolScrub_answers (s : State) (e : List (Nat × Nat)) : s.Answers (.patrolScrub e) (execPatrolScrub e s) := by
  unfold execPatrolScrub
  split
  · split
    · exact .of_eq rfl
    · exact .next _
  · exact .of_eq rfl

theorem execQuadOffAck_answers (s : State) (chan rank quad : Nat) : s.Answers (.quadOffAck chan rank quad) (execQuadOffAck chan rank quad s) := by
  unfold execQuadOffAck
  refine .bounded (fun hw => by simp [Instr.wf] at hw; omega) ?_
  dsimp only
  split
  · exact .gate rfl (.of_eq rfl)
  · exact .of_eq rfl

theorem execQuadPowerUp_answers (s : State) (chan rank quad : Nat) : s.Answers (.quadPowerUp chan rank quad) (execQuadPowerUp chan rank quad s) := by
  unfold execQuadPowerUp
  refine .bounded (fun hw => by simp [Instr.wf] at hw; omega) (.ite ?_ (.of_eq rfl))
  split <;> exact .of_eq rfl

theorem execGarbageCollection_answers (s : State) (die plane : Nat) (bad : List (Nat × Nat)) :
    s.Answers (.garbageCollection die plane bad) (execGarbageCollection die plane bad s) := by
  unfold execGarbageCollection
  refine .bounded (fun hw => by simp [Instr.wf] at hw; omega) (.ite ?_ (.of_eq rfl))
  split
  · exact .gate rfl (.next _)
  · exact .of_eq rfl

theorem execStaticWearLevelling_answers (s : State) (bad : List (Nat × Nat)) : s.Answers (.staticWearLevelling bad) (execStaticWearLevelling bad s) := by
  unfold execStaticWearLevelling
  split
  · exact .gate rfl (.next _)
  · exact .of_eq rfl

/-- Every event answers a state within the frame of its row, and only operands that do not exist make it fault (R269, R303). -/
theorem exec_answers (c : Instr) (s : State) : s.Answers c (exec c s) := by
  cases c with
  -- rows that answer their own part of the state, whatever holds
  | registerWrite | adminSqTail | adminCqHead | adminQueueEnable | adminQueueDisable | spareSwitchRequest | dramTrainRequest | dramRetireRequest
  | bivouacRequest | fwRecoveryGo | commandFetch | invalidOpcode | windowOpen | windowClose | qpCreate | qpDelete | logRingSet | cairnSet
  | streamOpen | streamPause | streamResume | streamReset | streamClose | streamQuery | kvPoolCreate | kvPoolDestroy
  | kvSeqOpen | kvSeqFork | kvSeqTruncate | kvSeqClose | kvSeqQuery | segMap | segUnmap | segAttr | segQuery
  | modelInstall | modelAttach | modelDetach | modelRemove | modelQuery | submitStep | schedLoad | schedUnload
  | ctxCreate | ctxReset | ctxDestroy | attest | sessionOpen | identityGet
  | checkSet | residentRef | residentAck | replayStart | replayStop | replayStatus | checkQuery
  | fwUpdate | fwActivate | cfgWrite | fwSvnCommit | cfgUpdate
  | stepDispatch | startTokenPost | matmul | scan | attn | vec | move | reduceAllReduce | reduceAllGather | reduceBroadcast
  | checkCompare | checkSend | checkReceive | checkShadow | belayPost | belayWait | belayIncrement | digestSlotFill | descriptorComplete
  | faultReport | coreStopTimeout | katPeriodExpiry | katComplete | spareSwitch | spareCopyComplete | digestComparePeriod | residentScanPeriod
  | promotionComplete | evictAhead | demotionComplete | frameZeroed | dmaReadTimeout => exact .next _
  -- rows that may change everything
  | powerOn | powerOff | bootRomStart | bootComplete => exact .gate rfl (.of_eq rfl)
  | sidebandReset => refine .ite ?_ ?_ <;> exact .of_eq rfl
  | watchdogExpiry => refine .ite (.ite ?_ ?_) ?_ <;> exact .of_eq rfl
  -- rows that answer their own part of the state when their condition holds
  | vfDisable | governorTick | powerSurgeSample | unsupportedRequest | doorbellSqTail | doorbellCqHead | controlWindowWrite | controlWindowRead
  | msixTableWrite | laneFailure | moduleRetrainDone | ideIntegrityFail | setPointChange | fwCoreRestart
  | functionLevelReset => exact .gate rfl (.next _)
  | ropeFlitTransfer | ropeCreditReturn | collectiveContribution | collectiveDelivery | collectiveCheckReport | collectiveDone | stepDoneReport
  | hostReadCompletion => exact .gateState rfl (.next _)
  -- rows that change single components when their condition holds
  | droopRelease | stepCommit => exact .of_eq rfl
  | bivouacEntryComplete | wakeComplete | throttleUpdate | stepTimeMeasure | regulatorTelemetry | droopHold | droopTimeout
  | dramThermalDerate | dramThermalRestore | flashThermalPause | flashThermalResume | coreGate | coreGateDone | coreUngateDone | scrubWrite
  | journalCheckpoint => exact .gate rfl (.of_eq rfl)
  | spdmGetCertificate | spdmChallenge | spdmGetMeasurements | spdmKeyExchange | spdmPskExchange | ideKm => exact .gateState rfl (.of_eq rfl)
  | brownoutWarning | thermalTrip => refine .ite ?_ ?_ <;> exact .of_eq rfl
  | coreUngate => exact .ite (.of_eq rfl) (.gate rfl (.of_eq rfl))
  | commandTakesEffect fid => exact .of_eq (s.takeEffect_within fid)
  -- rows that first look for what they act on
  | wake => exact execWake_answers s
  | fwActivateConfirm => exact execFwActivateConfirm_answers s
  | cfgRecordApply n => exact execCfgRecordApply_answers s n
  | logEntryDelivery => exact execLogEntryDelivery_answers s
  | cairnRecordDelivery core => exact execCairnRecordDelivery_answers s core
  | patrolScrub e => exact execPatrolScrub_answers s e
  | quadOffAck chan rank quad => exact execQuadOffAck_answers s chan rank quad
  | quadPowerUp chan rank quad => exact execQuadPowerUp_answers s chan rank quad
  | garbageCollection die plane bad => exact execGarbageCollection_answers s die plane bad
  | staticWearLevelling bad => exact execStaticWearLevelling_answers s bad
  -- rows of the DRAM and the flash, which fault for a place that does not exist
  | dramReadRequest | dramWriteRequest | dramReadIssue | dramReadData | writeDrainBurst | retrainDue | retrainSliceEnd | rankRetire
  | migrationFrameCopied | channelSwitchDone | quadPowerUpDone | flashRetrySenseDone | flashProgramDone | flashEraseDone | relocation =>
    refine .bounded (fun hw => ?_) (.gate rfl (.next _))
    simp only [Instr.wf, Bool.and_eq_true, decide_eq_true_eq, allFrames, frameBlocks, allBlocks, blocksPerPlane] at hw ⊢
    omega
  | pageIdleClose | refresh | mr4Poll | neighbourRefresh | retrainSliceStart | quadPowerDown | flashReadDone | flashPulseEnd | calStatisticsFull
  | flashEraseIssue =>
    refine .bounded (fun hw => ?_) (.gate rfl (.of_eq rfl))
    simp only [Instr.wf, Bool.and_eq_true, decide_eq_true_eq, allBlocks, blocksPerPlane] at hw ⊢
    omega
  | flashReadIssue die page tag =>
    refine .bounded (fun hw => ?_) (.gate rfl (.of_eq rfl))
    simp only [Instr.wf, Bool.and_eq_true, decide_eq_true_eq, beq_iff_eq] at hw
    obtain ⟨⟨hd, hp⟩, he⟩ := hw
    simp [hd, paDie, he, pageOk_of_wf hp]
  | flashProgramIssue page who data =>
    refine .bounded (fun hw => ?_) (.gate rfl (.next _))
    simp only [Instr.wf, Bool.and_eq_true] at hw
    simp [pageOk_of_wf hw.1]

/-- What a row does not name stays as it was. -/
theorem exec_eq_within {c : Instr} {s t : State} (h : exec c s = .next t) : t = s.within c t :=
  (h ▸ exec_answers c s).eq_within

/- No event touches the events that wait behind it. -/

theorem State.bootRom_pending (s : State) : s.bootRom.pending = s.pending := by
  unfold State.bootRom
  split
  · rfl
  · split
    · rfl
    · dsimp only
      split <;> rfl

theorem State.dueReset_pending (s : State) : s.dueReset.pending = s.pending := by
  unfold State.dueReset
  split <;> rfl

theorem State.finishBoot_pending (s : State) (fspOk rate : BitVec 3) (cs : Bool) : (s.finishBoot fspOk rate cs).pending = s.pending := by
  unfold State.finishBoot
  dsimp only
  rw [State.logPf, (State.posts_logTo _ _ _).eq]
  unfold State.postOf
  dsimp only
  split <;> split <;> rfl

theorem eq_or_eq_of_ite {p : Prop} [Decidable p] {a b t : State} (h : (if p then .next a else .next b : Result) = .next t) : t = a ∨ t = b := by
  split at h <;> cases h
  · exact .inl rfl
  · exact .inr rfl

theorem execWatchdogExpiry_pending {core : Nat} {s t : State} (h : execWatchdogExpiry core s = .next t) : t.pending = s.pending := by
  unfold execWatchdogExpiry at h
  split at h
  · obtain rfl | rfl := eq_or_eq_of_ite h <;> rfl
  · cases h
    rfl

/-- A row with a frame keeps the queue by its frame; those that reset the tile, and the two boot rows, are seen one by one. -/
theorem exec_pending {c : Instr} {s t : State} (h : exec c s = .next t) : t.pending = s.pending := by
  cases c with
  | powerOn | sidebandReset | powerOff => obtain rfl | rfl := eq_or_eq_of_ite h <;> rfl
  | bootRomStart =>
    obtain rfl | rfl := eq_or_eq_of_ite h
    · rw [State.bootRom_pending, State.dueReset_pending]
    · rfl
  | bootComplete fspOk rate cs =>
    obtain rfl | rfl := eq_or_eq_of_ite h
    · exact s.finishBoot_pending fspOk rate cs
    · rfl
  | watchdogExpiry => exact execWatchdogExpiry_pending h
  | _ => exact (congrArg State.pending (exec_eq_within h)).trans rfl

/-- Settles O3: each event's outcome lies within its frame (`exec_answers`), and so the events that wait stay. -/
theorem eventsRunWithinFrames : Obligations.EventsRunWithinFrames :=
  ⟨fun _ _ _ h => ⟨exec_pending h, exec_eq_within h⟩, fun c s hw => (exec_answers c s).of_wf hw⟩

end Sys2Proof.Machine

/- Function-level reset. -/

namespace Sys2Proof.AList

theorem mem_of_get? {α : Type} {l : AList α} {n : Nat} {x : α} (h : l.get? n = some x) : (n, x) ∈ l := by
  induction l with
  | nil => cases h
  | cons p l ih =>
    obtain ⟨k, v⟩ := p
    rw [get?] at h
    split at h
    · next hk => cases h; exact hk ▸ List.mem_cons_self
    · exact List.mem_cons_of_mem _ (ih h)

end Sys2Proof.AList

namespace Sys2Proof.Machine

/- What an FLR leaves of the contexts. -/

/-- Every context of the second state stood in the first one, with the same function. -/
def State.KeepsFuncs (s t : State) : Prop := ∀ n x, t.ctx n = some x → ∃ y, s.ctx n = some y ∧ y.func = x.func

namespace State

theorem KeepsFuncs.refl (s : State) : s.KeepsFuncs s := fun _ x h => ⟨x, h, rfl⟩

theorem KeepsFuncs.trans {s t u : State} (h : s.KeepsFuncs t) (k : t.KeepsFuncs u) : s.KeepsFuncs u := by
  intro n x hx
  obtain ⟨y, hy, hxy⟩ := k n x hx
  obtain ⟨z, hz, hyz⟩ := h n y hy
  exact ⟨z, hz, hyz.trans hxy⟩

theorem KeepsFuncs.foldl {α : Type} {f : State → α → State} (h : ∀ (s : State) (a : α), s.KeepsFuncs (f s a)) (l : List α) (s : State) :
    s.KeepsFuncs (l.foldl f s) := by
  induction l generalizing s with
  | nil => exact .refl s
  | cons a l ih => exact (h s a).trans (ih _)

/-- A context that is not there does not appear. -/
theorem KeepsFuncs.ctx_none {s t : State} (h : s.KeepsFuncs t) {n : Nat} (hn : s.ctx n = none) : t.ctx n = none := by
  rw [Option.eq_none_iff_forall_not_mem]
  intro x hx
  obtain ⟨y, hy, -⟩ := h n x hx
  rw [hn] at hy
  cases hy

theorem SameBare.keepsFuncs {s t : State} (h : s.SameBare t) : s.KeepsFuncs t := by
  intro n x hx
  have hb := h.ctx n
  rw [hx] at hb
  obtain ⟨y, hy, hxy⟩ := Option.map_eq_some_iff.mp hb.symm
  have hf : (bareOf y).func = (bareOf x).func := congrArg Ctx.func hxy
  exact ⟨y, hy, hf⟩

theorem clearStep_ctxs (s : State) (n : Nat) (cores : List Nat) : (s.clearStep n cores).ctxs = s.ctxs := by
  unfold clearStep
  dsimp only
  induction cores generalizing s with
  | nil => rfl
  | cons c l ih => exact ih _

theorem killSteps_ctxs (s : State) (ctx : Nat) : (s.killSteps ctx).ctxs = s.ctxs := by
  unfold killSteps
  dsimp only
  generalize s.steps.list.filter _ = l
  induction l generalizing s with
  | nil => rfl
  | cons p l ih =>
    rw [List.foldl_cons, ih]
    split
    · exact clearStep_ctxs _ _ _
    · rfl

theorem keepsFuncs_removeCtx (s : State) (ctx : Nat) : s.KeepsFuncs (s.removeCtx ctx) := by
  refine (sameBare_teardown s ctx false).keepsFuncs.trans (fun n x hx => ⟨x, ?_, rfl⟩)
  have hn : n ≠ ctx := by
    rintro rfl
    rw [removeCtx_gone] at hx
    cases hx
  exact (AList.get?_erase_ne _ hn).symm.trans hx

theorem keepsFuncs_destroyNow (s : State) (ctx : Nat) : s.KeepsFuncs (s.destroyNow ctx) :=
  ((sameBare_abortCmds s ctx).keepsFuncs.trans (sameBare_of (killSteps_ctxs _ _)).keepsFuncs).trans (keepsFuncs_removeCtx _ _)

theorem destroyNow_gone (s : State) (ctx : Nat) : (s.destroyNow ctx).ctx ctx = none := by
  unfold destroyNow
  exact removeCtx_gone _ _

/-- Destroyed contexts are gone, whatever is destroyed after them. -/
theorem destroyNows_gone {l : List Nat} {n : Nat} (hn : n ∈ l) (s : State) : (l.foldl (fun (u : State) c => u.destroyNow c) s).ctx n = none := by
  induction l generalizing s with
  | nil => cases hn
  | cons a l ih =>
    rw [List.foldl_cons]
    rcases List.mem_cons.mp hn with rfl | hn
    · exact (KeepsFuncs.foldl keepsFuncs_destroyNow l _).ctx_none (destroyNow_gone s n)
    · exact ih hn _

/-- The state with every context of a function destroyed. -/
def destroyedOf (s : State) (f : Nat) : State := ((s.ctxs.filter (fun p => p.2.func == f)).map (·.1)).foldl (fun (u : State) c => u.destroyNow c) s

theorem keepsFuncs_destroyedOf (s : State) (f : Nat) : s.KeepsFuncs (s.destroyedOf f) := KeepsFuncs.foldl keepsFuncs_destroyNow _ _

theorem spared_destroyedOf (s : State) (f : Nat) : s.Spared (s.destroyedOf f) := Spared.foldl _ spared_destroyNow _ _

theorem destroyedOf_gone {s : State} {n : Nat} {x : Ctx} (h : s.ctx n = some x) : (s.destroyedOf x.func).ctx n = none :=
  destroyNows_gone (List.mem_map.mpr ⟨(n, x), by simpa using AList.mem_of_get? h, rfl⟩) s

theorem destroyedOf_eq_self {s : State} {f : Nat} (h : ∀ p ∈ s.ctxs, p.2.func ≠ f) : s.destroyedOf f = s := by
  have hn : s.ctxs.filter (fun p => p.2.func == f) = [] := List.filter_eq_nil_iff.mpr (by simpa using h)
  unfold destroyedOf
  rw [hn]
  rfl

/- What an FLR leaves of the functions. -/

end State

/-- A function after an FLR: its LSN and its count of dropped log entries stay (notes/assumptions/34.md). -/
def Func.afterFlr (x : Func) : Func := { Func.fresh with lsn := x.lsn, logDrop := x.logDrop }

namespace State

/-- A function's registers reset, and its admin commands and log entries taken away, once its contexts are gone (R12, R352). -/
def clearFunc (s : State) (f : Nat) : State :=
  { s.modFunc f Func.afterFlr with
    cmds := { s.cmds with list := s.cmds.list.filter (fun c => c.q != .admin f) }
    fw := { s.fw with logQ := s.fw.logQ.filter (fun i => i.func != f) } }

theorem clearFunc_func (s : State) (f g : Nat) : (s.clearFunc f).func g = if g = f then (s.func f).afterFlr else s.func g := by
  show (s.modFunc f Func.afterFlr).func g = _
  split
  · next h => subst h; exact func_modFunc_self s g _
  · next h => exact func_modFunc_ne s _ h

theorem spared_clearFunc (s : State) (f : Nat) : s.Spared (s.clearFunc f) := ⟨rfl, rfl, rfl, rfl, rfl, rfl, rfl, rfl⟩

/-- An FLR destroys the contexts of a function and clears it, and then the PF's registers when the function is the PF. -/
theorem resetFunc_eq (s : State) (f : Nat) :
    s.resetFunc f = if f = 0 then ((s.destroyedOf f).clearFunc f).resetPf else (s.destroyedOf f).clearFunc f := rfl

theorem resetFunc_eq_of_ne (s : State) {f : Nat} (hf : f ≠ 0) : s.resetFunc f = (s.destroyedOf f).clearFunc f := by
  rw [resetFunc_eq, if_neg hf]

theorem resetFunc_ctxs (s : State) (f : Nat) : (s.resetFunc f).ctxs = (s.destroyedOf f).ctxs := by
  rw [resetFunc_eq]
  split <;> rfl

theorem resetFunc_func (s : State) (f g : Nat) :
    (s.resetFunc f).func g = if g = f then ((s.destroyedOf f).func f).afterFlr else (s.destroyedOf f).func g := by
  rw [← clearFunc_func, resetFunc_eq]
  split <;> rfl

theorem spared_resetFunc (s : State) {f : Nat} (hf : f ≠ 0) : s.Spared (s.resetFunc f) := by
  rw [resetFunc_eq_of_ne s hf]
  exact (spared_destroyedOf s f).trans (spared_clearFunc _ f)

theorem keepsFuncs_resetFunc (s : State) (f : Nat) : s.KeepsFuncs (s.resetFunc f) :=
  (keepsFuncs_destroyedOf s f).trans (sameBare_of (resetFunc_ctxs s f)).keepsFuncs

theorem resetFunc_gone {s : State} {n : Nat} {x : Ctx} (h : s.ctx n = some x) : (s.resetFunc x.func).ctx n = none := by
  unfold State.ctx
  rw [resetFunc_ctxs]
  exact destroyedOf_gone h

/-- No context that an FLR leaves belongs to its function. -/
theorem resetFunc_func_ne {s : State} {f n : Nat} {x : Ctx} (h : (s.resetFunc f).ctx n = some x) : x.func ≠ f := by
  rintro rfl
  obtain ⟨y, hy, hxy⟩ := keepsFuncs_resetFunc s _ n x h
  rw [← hxy, resetFunc_gone hy] at h
  cases h

/-- With no context to destroy an FLR of a function leaves the contexts, the queue pairs, the DRAM and the other functions. -/
theorem resetFunc_of_no_ctx {s : State} {f : Nat} (h : ∀ p ∈ s.ctxs, p.2.func ≠ f) :
    (s.resetFunc f).ctxs = s.ctxs ∧ (s.resetFunc f).queues = s.queues ∧ (s.resetFunc f).dram = s.dram ∧
      ∀ g, (s.resetFunc f).func g = if g = f then (s.func f).afterFlr else s.func g := by
  have hd := destroyedOf_eq_self h
  refine ⟨by rw [resetFunc_ctxs, hd], ?_, ?_, fun g => by rw [resetFunc_func, hd]⟩ <;>
  · rw [resetFunc_eq, hd]
    split <;> rfl

/- An FLR of a VF, and VF_DISABLE. -/

/-- What a reset of a VF leaves, in the frame of the command rows that manage contexts. -/
theorem ctxCmd_resetFunc (s : State) {f : Nat} (hf : f ≠ 0) :
    (∀ n x, s.ctx n = some x → x.func = f → (s.ctxCmd (s.resetFunc f)).ctx n = none) ∧
      (s.ctxCmd (s.resetFunc f)).func f =
        { Func.fresh with lsn := ((s.ctxCmd (s.resetFunc f)).func f).lsn, logDrop := ((s.ctxCmd (s.resetFunc f)).func f).logDrop } ∧
      (∀ c ∈ (s.ctxCmd (s.resetFunc f)).cmds.list, c.q ≠ .admin f) ∧ (s.ctxCmd (s.resetFunc f)).boot = s.boot ∧
      (s.ctxCmd (s.resetFunc f)).params = s.params ∧ (s.ctxCmd (s.resetFunc f)).sparing = s.sparing ∧
      (s.ctxCmd (s.resetFunc f)).pf = s.pf ∧ (s.ctxCmd (s.resetFunc f)).flash.cells = s.flash.cells := by
  have hfunc : (s.ctxCmd (s.resetFunc f)).func f = ((s.destroyedOf f).func f).afterFlr := (resetFunc_func s f f).trans (if_pos rfl)
  refine ⟨?_, ?_, ?_, rfl, rfl, rfl, rfl, (spared_resetFunc s hf).flashCells⟩
  · rintro n x hx rfl
    exact resetFunc_gone hx
  · rw [hfunc]
    rfl
  · intro c hc
    rw [ctxCmd_cmds, resetFunc_eq_of_ne s hf] at hc
    simpa using (List.mem_filter.mp hc).2

/-- What it leaves when the VF has no context. -/
theorem ctxCmd_resetFunc_of_no_ctx {s : State} {f : Nat} (hf : f ≠ 0) (h : ∀ p ∈ s.ctxs, p.2.func ≠ f) :
    (s.ctxCmd (s.resetFunc f)).func f = { Func.fresh with lsn := (s.func f).lsn, logDrop := (s.func f).logDrop } ∧
      (∀ g, g ≠ f → (s.ctxCmd (s.resetFunc f)).func g = s.func g) ∧
      (s.ctxCmd (s.resetFunc f)).cmds.list = s.cmds.list.filter (fun c => c.q != .admin f) ∧
      (s.ctxCmd (s.resetFunc f)).ctxs = s.ctxs ∧ (s.ctxCmd (s.resetFunc f)).queues = s.queues ∧ (s.ctxCmd (s.resetFunc f)).dram = s.dram := by
  obtain ⟨hctxs, hqueues, hdram, hfunc⟩ := resetFunc_of_no_ctx h
  refine ⟨(hfunc f).trans (if_pos rfl), fun g hg => (hfunc g).trans (if_neg hg), ?_, hctxs, hqueues, hdram⟩
  rw [ctxCmd_cmds, resetFunc_eq_of_ne s hf, destroyedOf_eq_self h]
  rfl

theorem exec_vfDisable {s : State} {f : Nat} (h : s.hostLives = true) (hf : f ≠ 0) :
    exec (.vfDisable f) s = .next (s.ctxCmd (s.resetFunc f)) := if_pos ⟨h, hf⟩

theorem exec_functionLevelReset_vf {s : State} {f : Nat} (h : s.hostLives = true) (hf : f ≠ 0) :
    exec (.functionLevelReset f) s = .next (s.ctxCmd (s.resetFunc f)) := by
  obtain ⟨hboot, -, hpf, hpower, hsparing, -, -, -⟩ := spared_resetFunc s hf
  refine (if_pos h).trans ?_
  dsimp only
  rw [if_neg hf, hboot, hpf, hpower, hsparing]
  rfl

/- An FLR of the PF. -/

/-- The functions that an FLR of the PF resets: itself, those with a record, and those with a context. -/
def knownFuncs (s : State) : List Nat := (0 :: s.funcs.keys ++ s.ctxs.map (fun p => p.2.func)).dedup

def resetFuncs (s : State) (l : List Nat) : State := l.foldl (fun (t : State) f => t.resetFunc f) s

theorem exec_functionLevelReset_pf {s : State} (h : s.hostLives = true) :
    exec (.functionLevelReset 0) s = .next (s.within (.functionLevelReset 0) (s.resetFuncs s.knownFuncs)) := if_pos h

theorem keepsFuncs_resetFuncs (l : List Nat) (s : State) : s.KeepsFuncs (s.resetFuncs l) := KeepsFuncs.foldl keepsFuncs_resetFunc l s

theorem resetFuncs_append (s : State) (l k : List Nat) : s.resetFuncs (l ++ k) = (s.resetFuncs l).resetFuncs k := List.foldl_append

theorem resetFuncs_cons (s : State) (f : Nat) (l : List Nat) : s.resetFuncs (f :: l) = (s.resetFunc f).resetFuncs l := rfl

/-- No context is left that belongs to one of the functions reset. -/
theorem resetFuncs_func_ne {l : List Nat} {f : Nat} (hf : f ∈ l) {s : State} {n : Nat} {x : Ctx} (h : (s.resetFuncs l).ctx n = some x) :
    x.func ≠ f := by
  obtain ⟨l₁, l₂, rfl⟩ := List.append_of_mem hf
  rw [resetFuncs_append] at h
  obtain ⟨y, hy, hxy⟩ := keepsFuncs_resetFuncs l₂ _ n x h
  exact hxy ▸ resetFunc_func_ne hy

theorem resetFuncs_knownFuncs_ctx (s : State) (n : Nat) : (s.resetFuncs s.knownFuncs).ctx n = none := by
  rw [Option.eq_none_iff_forall_not_mem]
  intro x hx
  obtain ⟨y, hy, hxy⟩ := keepsFuncs_resetFuncs _ s n x hx
  have hm : y.func ∈ s.ctxs.map (fun p => p.2.func) := List.mem_map.mpr ⟨(n, y), AList.mem_of_get? hy, rfl⟩
  exact resetFuncs_func_ne (List.mem_dedup.mpr (List.mem_append_right _ hm)) hx hxy.symm

theorem spared_resetFuncs {l : List Nat} (h : 0 ∉ l) (s : State) : s.Spared (s.resetFuncs l) := by
  induction l generalizing s with
  | nil => exact .refl s
  | cons f l ih =>
    rw [List.mem_cons, not_or] at h
    obtain ⟨hf, hl⟩ := h
    exact (spared_resetFunc s (Ne.symm hf)).trans (ih hl _)

end State

/-- The PF's registers after its FLR (R12, R427), and what an FLR leaves alone. -/
structure State.PfReset (s t : State) : Prop where
  pf : t.pf = { PfRegs.fresh with arrivals := s.pf.arrivals, turn := s.pf.turn, sharedTurn := s.pf.sharedTurn }
  power : t.power = { s.power with domSel := 0, capMw := BitVec.ofNat 17 (s.param 0x0701 0) }
  sparing : t.sparing = { s.sparing with ueLast := 15 }
  boot : t.boot = { s.boot with recoveryAddr := 0, recoveryLen := 0 }
  params : t.params = s.params
  flashCells : t.flash.cells = s.flash.cells

namespace State

/-- Releases of resources before and after the reset of the PF's registers do not show in them. -/
theorem pfReset_of_spared {s t u : State} (h : s.Spared t) (k : t.resetPf.Spared u) : s.PfReset u where
  pf := by rw [k.pf, ← h.pf]; rfl
  power := by rw [k.power, ← h.power, param, ← h.params]; rfl
  sparing := by rw [k.sparing, ← h.sparing]; rfl
  boot := by rw [k.boot, ← h.boot]; rfl
  params := k.params.trans h.params
  flashCells := k.flashCells.trans h.flashCells

theorem pfReset_resetFuncs {l : List Nat} (hl : l.Nodup) (h0 : 0 ∈ l) (s : State) : s.PfReset (s.resetFuncs l) := by
  obtain ⟨l₁, l₂, rfl⟩ := List.append_of_mem h0
  have hn := List.nodup_middle.mp hl
  have h12 := (List.nodup_cons.mp hn).1
  rw [resetFuncs_append, resetFuncs_cons, resetFunc_eq, if_pos rfl]
  have hbefore : s.Spared (((s.resetFuncs l₁).destroyedOf 0).clearFunc 0) :=
    ((spared_resetFuncs (fun h => h12 (List.mem_append_left _ h)) s).trans (spared_destroyedOf _ 0)).trans (spared_clearFunc _ 0)
  exact pfReset_of_spared hbefore (spared_resetFuncs (fun h => h12 (List.mem_append_right _ h)) _)

theorem pfReset_knownFuncs (s : State) : s.PfReset (s.resetFuncs s.knownFuncs) :=
  pfReset_resetFuncs (List.nodup_dedup _) (List.mem_dedup.mpr List.mem_cons_self) s

/-- With no context at all, each function reset is as at reset but for what stays, and every other one is as before. -/
theorem resetFuncs_of_no_ctx (l : List Nat) {s : State} (h : s.ctxs = []) :
    (s.resetFuncs l).queues = s.queues ∧ (s.resetFuncs l).dram = s.dram ∧
      ∀ g, (s.resetFuncs l).func g = if g ∈ l then (s.func g).afterFlr else s.func g := by
  induction l generalizing s with
  | nil => exact ⟨rfl, rfl, fun g => (if_neg List.not_mem_nil).symm⟩
  | cons f l ih =>
    obtain ⟨hctxs, hqueues, hdram, hfunc⟩ := resetFunc_of_no_ctx (s := s) (f := f) (by simp [h])
    obtain ⟨ihqueues, ihdram, ihfunc⟩ := ih (hctxs.trans h)
    refine ⟨ihqueues.trans hqueues, ihdram.trans hdram, fun g => (ihfunc g).trans ?_⟩
    rw [hfunc]
    by_cases hg : g = f
    · subst hg
      simp [Func.afterFlr]
    · simp [hg]

theorem func_of_not_knownFuncs {s : State} {f : Nat} (h : f ∉ s.knownFuncs) : s.func f = Func.fresh := by
  have hk : f ∉ s.funcs.keys := fun hm => h (List.mem_dedup.mpr (List.mem_append_left _ (List.mem_cons_of_mem _ hm)))
  unfold State.func AList.getD
  rw [(AList.get?_eq_none _ _).mpr hk]
  rfl

theorem resetFuncs_knownFuncs_func {s : State} (h : s.ctxs = []) (f : Nat) : (s.resetFuncs s.knownFuncs).func f = (s.func f).afterFlr := by
  rw [(resetFuncs_of_no_ctx _ h).2.2 f]
  split
  · rfl
  · next hf =>
    rw [func_of_not_knownFuncs hf]
    rfl

end State

/-- Settles O12: an FLR of a VF and VF_DISABLE leave the same state (`State.ctxCmd_resetFunc`), and an FLR of the PF resets one function after the
other, so that no context, and of the PF's registers only the reset values, are left. -/
theorem functionResets : Obligations.FunctionResets := by
  refine ⟨fun s f hs hf => ⟨_, State.exec_functionLevelReset_vf hs hf, s.ctxCmd_resetFunc hf⟩,
    fun s f hs hf hc => ⟨_, State.exec_functionLevelReset_vf hs hf, State.ctxCmd_resetFunc_of_no_ctx hf hc⟩,
    fun s hs => ⟨_, State.exec_functionLevelReset_pf hs, ?_⟩, fun s hs hc => ⟨_, State.exec_functionLevelReset_pf hs, ?_⟩,
    fun s f hs hf => ⟨_, State.exec_vfDisable hs hf, s.ctxCmd_resetFunc hf⟩,
    fun s f hs hf hc => ⟨_, State.exec_vfDisable hs hf, State.ctxCmd_resetFunc_of_no_ctx hf hc⟩⟩
  · obtain ⟨hpf, hpower, hsparing, hboot, hparams, hcells⟩ := s.pfReset_knownFuncs
    refine ⟨s.resetFuncs_knownFuncs_ctx, hpf, hpower, ?_, ?_, rfl, hcells⟩
    · show { s.sparing with ueLast := (s.resetFuncs s.knownFuncs).sparing.ueLast } = _
      rw [hsparing]
    · show { s.boot with
        recoveryAddr := (s.resetFuncs s.knownFuncs).boot.recoveryAddr, recoveryLen := (s.resetFuncs s.knownFuncs).boot.recoveryLen } = _
      rw [hboot]
  · obtain ⟨hqueues, hdram, -⟩ := State.resetFuncs_of_no_ctx s.knownFuncs hc
    exact ⟨State.resetFuncs_knownFuncs_func hc, hqueues, hdram⟩

end Sys2Proof.Machine

/- The commit of a step. -/

namespace Sys2Proof.Machine

namespace State

/-- A step whose cores are all done is the one that F1 ends, with its image and the flag word that the done reports have joined (R126). -/
theorem committing_eq {s : State} {n : Nat} {r : StepRec} {img : Image} {l : Latch} (hr : s.step? n = some r) (hd : s.coll.ready.contains n = true)
    (ho : s.coreOut 1 = false) (hrun : s.running = true) (hst : r.stage = .running) (hi : s.images.imgs.get? r.handle = some img)
    (hl : s.coll.latches.get? n = some l) : s.committing n = some (r, img, l.flags) := by
  simp only [committing, hr, hd, ho, hrun, hst, hi, hl, Option.map_some, Option.getD_some]
  rfl

theorem commitStrms_eq {s : State} {n : Nat} {r : StepRec} {img : Image} {flags : Flags} (h : s.committing n = some (r, img, flags)) :
    s.commitStrms n = if flags.policyFault r.mask then s.strms else s.strmsAfter r img := by
  simp [commitStrms, h]

/-- What STEP_COMMIT leaves: its streams come from `commitStrms`, and the rest stays within the frame of a core row. -/
theorem exec_stepCommit (s : State) (n : Nat) : ∃ t, exec (.stepCommit n) s = .next t ∧ t.strms = s.commitStrms n ∧ t.boot = s.boot ∧
    t.params = s.params ∧ t.images = s.images := ⟨_, rfl, rfl, rfl, rfl, rfl⟩

end State

namespace Strm

/- The fields of a stream after a commit (R180). -/

variable (e : Strm) (n : Nat) (w c : Bool)

theorem committed_cur_ne : (e.committed n w c).cur ≠ e.cur ↔ w = true := by
  cases w <;> simp [committed]

theorem committed_ckptCur_ne : (e.committed n w c).ckptCur ≠ e.ckptCur ↔ c = true := by
  cases c <;> simp [committed]

theorem committed_zero : (e.committed n w c).zero = true ↔ e.zero = true ∧ w = false := by
  simp [committed]

theorem committed_ckptZero : (e.committed n w c).ckptZero = true ↔ e.ckptZero = true ∧ c = false := by
  simp [committed]

theorem committed_anchorDue : (e.committed n w c).anchorDue = true ↔
    e.anchorPeriod ≠ 0 ∧ e.anchorPeriod ≤ (e.committed n w c).position - (e.committed n w c).anchorPos := by
  simp [committed]

theorem committed_anchorPos (h : c = true) : (e.committed n w c).anchorPos = e.position + n := if_pos h

end Strm

/-- Settles O34: STEP_COMMIT takes its streams from `State.commitStrms`, which looks at the policy (`State.commitStrms_eq`), and the fields of a
stream that moves on are those of `Strm.committed`. -/
theorem stepsCommit : Obligations.StepsCommit := by
  refine ⟨fun s n r img l hr hd ho hrun hst hi hl hp => ?_, fun s n r img l hr hd ho hrun hst hi hl hp => ?_,
    fun e n w c => ⟨rfl, rfl, e.committed_cur_ne n w c, e.committed_ckptCur_ne n w c, e.committed_zero n w c, e.committed_ckptZero n w c,
      e.committed_anchorDue n w c, e.committed_anchorPos n w c, rfl, rfl, rfl, rfl⟩⟩
  all_goals
    obtain ⟨t, ht, hstrms, hboot, hparams, himages⟩ := s.exec_stepCommit n
    rw [State.commitStrms_eq (State.committing_eq hr hd ho hrun hst hi hl), hp] at hstrms
  · exact ⟨t, ht, hboot, hparams, himages, hstrms⟩
  · exact ⟨t, ht, hstrms, hboot, himages⟩

end Sys2Proof.Machine

/- The start of a step. -/

namespace Sys2Proof.Machine

namespace State

@[simp] theorem modScratch_lcores (s : State) (c : Nat) (f : PCore → PCore) : (s.modScratch c f).lcores = s.lcores := by
  unfold modScratch
  split <;> rfl

theorem lc_modLc_self (s : State) {c : Nat} (f : LCore → LCore) (h : c < s.lcores.length) : (s.modLc c f).lc c = f (s.lc c) := by
  simp [lc, h]

/-- A core that is prepared for a step has a fresh sequencer at the step's first descriptor (R158). -/
theorem loadCore_seqr (s : State) (n : Nat) (img : Image) (r : StepRec) (b : Bytes) {c : Nat} (h : c < s.lcores.length) :
    ((s.loadCore n img r b c).lc c).seqr = some
      { step := n, idx := 0, stream := img.stream c, inflight := [], flags := 0#8, range := none, batch := r.b,
        started := false, stopped := false, ended := false, fault := none } := by
  unfold loadCore
  rw [lc_modLc_self _ _ (by simpa using h)]

/-- F1 has nothing to wait for when no copy is left and none has failed. -/
theorem copyAll_nil (s : State) (ctx ord : Nat) (seq : Option Nat) (who : Nat → ReadFor) {j : CopyJob} (hc : j.copies = []) (hf : j.failed = false) :
    s.copyAll ctx ord seq who j = .done s := by
  simp [copyAll, runJob, jobStep, hc, hf]

theorem postStart_of_no_copies {s : State} {n : Nat} {r : StepRec} (hr : s.step? n = some r) (hst : r.stage = .dispatched) (ho : s.coreOut 1 = false)
    (hrun : s.running = true) (hc : r.job.copies = []) (hf : r.job.failed = false) :
    s.postStart n = r.cores.foldl (fun (u : State) (c : Nat) => u.landMsg (.belay c 0 n))
      ((s.modKv r.ctx (fun k => ({ k with holds := k.holds.filter (fun h => h.2 != copyHold n) } : KvPool).release)).modStep n
        (fun y => { y with stage := .running, job := CopyJob.none })) := by
  simp [postStart, hr, hst, ho, hrun, copyAll_nil _ _ _ _ _ hc hf]

/-- A waiting step, with its image and its context, that F1 may dispatch. -/
structure Dispatchable (s : State) (n : Nat) (paced : Bool) (r : StepRec) (img : Image) (x : Ctx) : Prop where
  step : s.step? n = some r
  img : s.images.imgs.get? r.handle = some img
  ctx : s.ctx r.ctx = some x
  may : s.mayDispatch n r paced = true

/-- A region of a context was lost in a spare switch, or stays lost and is named by the image (R97, R436). -/
def regionLost (x : Ctx) (img : Image) : Bool :=
  x.residents.any (fun g => g.2.owed) || img.residentKeys.any (fun k => (x.residents.get? k).any (fun g => g.lost))

namespace Dispatchable

variable {s : State} {n : Nat} {paced : Bool} {r : StepRec} {img : Image} {x : Ctx} {prov : List Prov}

theorem paused (h : s.Dispatchable n paced r img x) (hre : r.reexecs = 0) (hp : (s.pausedCheck r.ctx img r.streams).2 = true) :
    s.dispatchStep n paced = (s.pausedCheck r.ctx img r.streams).1.refuseStep n r stStreamPaused := by
  simp [dispatchStep, h.step, h.img, h.ctx, h.may, hre, hp]

/-- Past the checks of its streams and sequences a step faults for a lost region, then for a core without a carrier, then for a lost tile of its
descriptors, or starts (R97, R137, R436, R442). -/
theorem checked (h : s.Dispatchable n paced r img x) (hp : r.reexecs ≠ 0 ∨ (s.pausedCheck r.ctx img r.streams).2 = false)
    (hk : s.kvCheck img r = .ok prov) :
    s.dispatchStep n paced =
      if regionLost x img then (s.modCtx r.ctx (fun y =>
        { y with residents := y.residents.map (fun g => (g.1, { g.2 with owed := false })) })).faultAtDispatch n r x 3 stResidentLost
      else if !r.cores.all (fun c => (s.carrier c).isSome) then s.faultAtDispatch n r x 5 stCoreFail
      else (s.streamLost r.handle img r.cores).elim (s.startStep n img r x prov) (fun t => t.faultAtDispatch n r x 8 0x70) := by
  have hpass : ¬(r.reexecs = 0 ∧ (s.pausedCheck r.ctx img r.streams).2 = true) := by
    rintro ⟨h0, h1⟩
    exact hp.elim (fun h => h h0) (fun h => Bool.noConfusion (h.symm.trans h1))
  simp only [dispatchStep, h.step, h.img, h.ctx, h.may, hk, Bool.and_eq_true, decide_eq_true_eq, if_neg hpass, regionLost]
  cases s.streamLost r.handle img r.cores <;> rfl

end Dispatchable

theorem exec_stepDispatch (s : State) (n : Nat) (paced : Bool) : exec (.stepDispatch n paced) s = .next (s.coreDone (s.dispatchStep n paced)) := rfl

theorem exec_startTokenPost (s : State) (n : Nat) : exec (.startTokenPost n) s = .next (s.coreDone (s.postStart n)) := rfl

end State

/-- Settles O33: the outcomes of a dispatch are those of `State.Dispatchable.paused` and `State.Dispatchable.checked`, the start token follows when no
copy is left (`State.postStart_of_no_copies`), and `State.loadCore_seqr` gives the sequencer of each core. -/
theorem stepsStart : Obligations.StepsStart := by
  refine ⟨fun s n paced r img x prov hr hi hx hm hp hk howed hlost hcar hstr => ?_, fun s n r hr hst ho hrun hc hf => ?_,
    fun s n paced r img x hr hi hx hm hre hp => ?_, fun s n paced r img x prov hr hi hx hm hp hk hlost => ?_,
    fun s n paced r img x prov hr hi hx hm hp hk hlost hcar => ?_,
    fun s n img r b c hc => ⟨_, s.loadCore_seqr n img r b hc, rfl, rfl, rfl, rfl, rfl, rfl, rfl, rfl, rfl⟩⟩
  · have hkept : State.regionLost x img = false := by simp only [State.regionLost, howed, hlost, Bool.or_false]
    rw [State.exec_stepDispatch, State.Dispatchable.checked ⟨hr, hi, hx, hm⟩ hp hk, hkept, hcar, hstr]
    rfl
  · rw [State.exec_startTokenPost, State.postStart_of_no_copies hr hst ho hrun hc hf]
  · rw [State.exec_stepDispatch, State.Dispatchable.paused ⟨hr, hi, hx, hm⟩ hre hp]
  · rw [State.exec_stepDispatch, State.Dispatchable.checked ⟨hr, hi, hx, hm⟩ hp hk, if_pos (show State.regionLost x img = true from hlost)]
  · rw [State.exec_stepDispatch, State.Dispatchable.checked ⟨hr, hi, hx, hm⟩ hp hk, show State.regionLost x img = false from hlost, hcar]
    rfl

end Sys2Proof.Machine

/- Fetching a command, and the answers of the checks before its row. -/

namespace Sys2Proof.Machine

namespace State

/- A fetched command that a check stops. -/

/-- A fetched command whose opcode stands in the table and on the right kind of queue. -/
structure Fetched (s : State) (fid : Nat) (c : Cmd) : Prop where
  found : s.cmds.find fid = some c
  runs : s.commandsRun = true
  stage : c.stage = .fetched
  opcodeOk : c.opcodeOk = true

theorem Fetched.runOp_of_not_permits {s : State} {fid : Nat} {c : Cmd} (h : s.Fetched fid c) (hp : s.permits c = false) {op : Nat} (ho : c.opcode = op)
    (own : Nat) (e : State → Cmd → State) : s.runOp fid op own e = s.complete fid stNotPermitted c.refused := by
  simp [runOp, runCmd, h.found, h.runs, h.stage, h.opcodeOk, ho, hp]

theorem Fetched.runOp_of_precheck {s : State} {fid own st : Nat} {c : Cmd} (h : s.Fetched fid c) (hp : s.permits c = true)
    (hc : c.precheck own = some st) {op : Nat} (ho : c.opcode = op) (e : State → Cmd → State) :
    s.runOp fid op own e = s.complete fid st c.refused := by
  simp [runOp, runCmd, h.found, h.runs, h.stage, h.opcodeOk, ho, hp, hc]

theorem cmd_fid_of_find {s : State} {fid : Nat} {c : Cmd} (h : s.cmds.find fid = some c) : c.fid = fid := by
  simpa using List.find?_some h

theorem refuseOpcode_eq {s : State} {fid : Nat} {c : Cmd} (hf : s.cmds.find fid = some c) (hr : s.commandsRun = true) (hs : c.stage = .fetched)
    (ho : c.opcodeOk = false) : s.refuseOpcode fid = s.complete fid stBadOpcode c.refused := by
  simp [refuseOpcode, answer, hf, hr, hs, ho, cmd_fid_of_find hf]

/-- The frame of a row shows a result that lies within it as it is. -/
theorem next_frame_eq (frame : State → State) {t u : State} (hu : frame u = u) (h : t = u) : (.next (frame t) : Result) = .next u := by
  rw [h, hu]

/- The entry that a grant takes. -/

/-- What the arbiter notes of its grant. -/
def granted (s : State) (x : FetchCand) (cls used : Nat) : State :=
  { s with steps := { s.steps with wrrClass := cls, wrrUsed := used, lastQueue := s.steps.lastQueue.set x.cls x.key } }

theorem fetchOne_ok {s : State} {x : FetchCand} {cls used : Nat} (hf : s.fetches = true) (ha : s.arbitrate = some (x, cls, used)) (b : Bytes) :
    s.fetchOne (.ok b) = (s.granted x cls used).takeCmd (keyQueue x.key) (fixLen 64 b) := by
  simp [fetchOne, hf, ha, granted]

theorem fetchOne_failed {s : State} {r : HostRead} {x : FetchCand} {cls used : Nat} (hf : s.fetches = true) (ha : s.arbitrate = some (x, cls, used))
    (hr : r = .expired ∨ r = .poisoned) :
    ∃ p, s.fetchOne r = ((s.granted x cls used).readFailed p).entryReadFailed (keyQueue x.key) := by
  obtain rfl | rfl := hr
  · exact ⟨false, by simp [fetchOne, hf, ha, granted]⟩
  · exact ⟨true, by simp [fetchOne, hf, ha, granted]⟩

/-- Without an active capture, taking an entry puts it at the end of the fetch order, and besides that moves the head of its queue. -/
theorem takeCmd_of_no_capture {s : State} (h : ∀ p ∈ s.ctxs, p.2.replay.active = false) (q : QRef) (e : Bytes) :
    ∃ c : Cmd,
      s.takeCmd q e = ({ s with cmds := { list := s.cmds.list ++ [c], next := s.cmds.next + 1 } } : State).advanceHead q ∧
      c.fid = s.cmds.next ∧ c.q = q ∧ c.entry = e ∧ c.stage = .fetched := by
  have hrep (o : Option Nat) : (o.bind s.ctx).any (fun (x : Ctx) => x.replay.active) = false := by
    rw [Option.any_eq_false]
    intro x hx
    obtain ⟨n, -, hn⟩ := Option.bind_eq_some_iff.mp hx
    exact h _ (AList.mem_of_get? hn)
  unfold takeCmd
  dsimp only
  rw [hrep]
  exact ⟨_, rfl, rfl, rfl, rfl, rfl⟩

theorem advanceHead_eq (s : State) (q : QRef) :
    s.advanceHead q = { s with funcs := (s.advanceHead q).funcs, queues := (s.advanceHead q).queues } := by
  cases q <;> rfl

/- Which operations leave the queue pairs alone. -/

theorem foldl_queues {α : Type} {f : State → α → State} (h : ∀ (s : State) (a : α), (f s a).queues = s.queues) (l : List α) (s : State) :
    (l.foldl f s).queues = s.queues := by
  induction l generalizing s with
  | nil => rfl
  | cons a l ih => exact (ih _).trans (h s a)

@[simp] theorem send_queues (s : State) (o : Out) : (s.send o).queues = s.queues := by rw [send_eq]

@[simp] theorem hostWrite_queues (s : State) (f : Nat) (p : Option Nat) (a : Nat) (d : Bytes) : (s.hostWrite f p a d).queues = s.queues :=
  foldl_queues (fun _ _ => send_queues _ _) _ _

@[simp] theorem msix_queues (s : State) (f v : Nat) : (s.msix f v).queues = s.queues := by
  unfold msix
  dsimp only
  split
  · rfl
  · exact send_queues _ _

@[simp] theorem logTo_queues (s : State) (f : Nat) (r : LogRec) : (s.logTo f r).queues = s.queues := by
  unfold logTo
  dsimp only
  split <;> rfl

@[simp] theorem logBoth_queues (s : State) (f : Nat) (r : LogRec) : (s.logBoth f r).queues = s.queues := by
  unfold logBoth
  dsimp only
  split <;> simp

@[simp] theorem deliverLog_queues (s : State) (i : LogItem) : (s.deliverLog i).queues = s.queues := by
  unfold deliverLog
  split <;> simp

@[simp] theorem flushLog_queues (s : State) (f : Nat) : (s.flushLog f).queues = s.queues :=
  foldl_queues deliverLog_queues _ s

@[simp] theorem countViol_queues (s : State) (c n : Nat) : (s.countViol c n).queues = s.queues := rfl

@[simp] theorem secEvent_queues (s : State) (n b : Nat) : (s.secEvent n b).queues = s.queues := rfl

theorem nextSeal_queues {s t : State} {ctx g c : Nat} (h : s.nextSeal ctx = some (g, c, t)) : t.queues = s.queues := by
  unfold nextSeal at h
  split at h
  · cases h
  · split at h
    · cases h
      rfl
    · split at h
      · cases h
      · cases h
        rfl

theorem sealUnit_queues {s t : State} {ctx win u : Nat} {w : Window} {q : Option Nat} {p : Bytes} (h : s.sealUnit ctx win u w q p = some t) :
    t.queues = s.queues := by
  unfold sealUnit at h
  split at h
  · cases h
  · next hs =>
    split at h
    · cases h
      exact nextSeal_queues hs
    · cases h
      exact (hostWrite_queues _ _ _ _ _).trans (nextSeal_queues hs)

@[simp] theorem plainWrite_queues (s : State) (ctx win off : Nat) (d : Bytes) : (s.plainWrite ctx win off d).s.queues = s.queues := by
  unfold plainWrite
  split
  · rfl
  · dsimp only
    split
    · split <;> simp
    · rfl

@[simp] theorem bounceWrite_queues (s : State) (ctx win off : Nat) (q : Option Nat) (d : Bytes) : (s.bounceWrite ctx win off q d).s.queues = s.queues := by
  unfold bounceWrite
  split
  · rfl
  · dsimp only
    split
    · rfl
    · split
      · rfl
      · dsimp only
        refine List.foldlRecOn _ _ (motive := fun acc : State × Bool => acc.1.queues = s.queues) rfl (fun acc hacc i _ => ?_)
        split
        · exact hacc
        · split
          · next hs => exact (sealUnit_queues hs).trans hacc
          · exact hacc

@[simp] theorem winWrite_queues (s : State) (ctx win off : Nat) (q : Option Nat) (d : Bytes) : (s.winWrite ctx win off q d).s.queues = s.queues := by
  unfold winWrite
  split <;> simp

@[simp] theorem replayPut_queues (s : State) (ctx : Nat) (b : Bytes) : (s.replayPut ctx b).queues = s.queues := by
  unfold replayPut
  split <;> simp

@[simp] theorem replayEnd_queues (s : State) (ctx r : Nat) : (s.replayEnd ctx r).queues = s.queues := by
  unfold replayEnd
  split
  · rfl
  · split
    · rfl
    · simp [apply_ite State.queues]

@[simp] theorem replayRec_queues (s : State) (ctx t q z : Nat) (f p : Bytes) : (s.replayRec ctx t q z f p).queues = s.queues := by
  unfold replayRec
  split
  · rfl
  · split
    · rfl
    · simp [apply_ite State.queues]

@[simp] theorem recordCmd_queues (s : State) (c : Cmd) (x : Bytes) : (s.recordCmd c x).queues = s.queues := by
  unfold recordCmd
  split <;> simp

@[simp] theorem recordRun_queues (l : List Nat) (s : State) : (s.recordRun l).1.queues = s.queues := by
  induction l generalizing s with
  | nil => rfl
  | cons f l ih =>
    unfold recordRun
    split
    · exact ih s
    · split
      · rfl
      · exact (ih _).trans (recordCmd_queues _ _ _)

@[simp] theorem recordWaiting_queues (s : State) (c : Cmd) (x : Bytes) : (s.recordWaiting c x).queues = s.queues := by
  unfold recordWaiting
  split
  · rfl
  · split
    · rfl
    · simp

/- A completion moves the tail of a queue pair or is held in it, and leaves its state. -/

/-- The state of a queue pair, when there is one of that number. -/
def queueState (s : State) (n : Nat) : Option QState := (s.queues.get? n).map (fun y => y.state)

theorem queueState_congr {s t : State} (h : t.queues = s.queues) (n : Nat) : t.queueState n = s.queueState n := by
  unfold queueState
  rw [h]

theorem queueState_upd (s : State) (k : Nat) {f : Queue → Queue} (h : ∀ y, (f y).state = y.state) (n : Nat) :
    ({ s with queues := s.queues.upd k f } : State).queueState n = s.queueState n := by
  simp only [queueState, AList.get?_upd]
  split
  · next hn => subst hn; simp [Function.comp_def, h]
  · rfl

theorem writeCpl_queueState (s : State) (q : QRef) (r : CplRing) (h : HeldCpl) (n : Nat) : (s.writeCpl q r h).queueState n = s.queueState n := by
  unfold writeCpl
  dsimp only
  have hmsix (t : State) : (if h.irq = true then t.msix r.func r.vector else t).queueState n = t.queueState n := by
    split
    · exact queueState_congr (msix_queues _ _ _) n
    · rfl
  rw [hmsix]
  cases q with
  | admin f => exact queueState_congr (hostWrite_queues _ _ _ _ _) n
  | pair k => exact (queueState_upd _ k (by intro y; rfl) n).trans (queueState_congr (hostWrite_queues _ _ _ _ _) n)

theorem postCpl_queueState (s : State) (q : QRef) (h : HeldCpl) (n : Nat) : (s.postCpl q h).queueState n = s.queueState n := by
  unfold postCpl
  split
  · rfl
  · split
    · exact writeCpl_queueState _ _ _ _ n
    · cases q with
      | admin f => rfl
      | pair k => exact queueState_upd _ k (by intro y; rfl) n

@[simp] theorem settleAdmin_queues (s : State) (q : QRef) : (s.settleAdmin q).queues = s.queues := by
  cases q with
  | admin f =>
    unfold settleAdmin
    dsimp only
    split <;> rfl
  | pair k => rfl

theorem complete_queueState (s : State) (fid st : Nat) (r : Bytes) (n : Nat) : (s.complete fid st r).queueState n = s.queueState n := by
  unfold complete
  split
  · rfl
  · rw [queueState_congr (settleAdmin_queues _ _), postCpl_queueState]
    refine queueState_congr ?_ n
    split
    · split <;> simp
    · simp

theorem complete_next (s : State) (fid st : Nat) (r : Bytes) : (s.complete fid st r).cmds.next = s.cmds.next := by
  cases h : s.cmds.find fid with
  | none => rw [complete_none h]
  | some c =>
    rw [(complete_posts h st r).parts]
    rfl

/- A context fault aborts the submissions that wait: each completes. -/

/-- What the abort of the waiting submissions of a context leaves is what each of its completions leaves. -/
theorem faultCtx_leaves {α : Type} (g : State → α) (hq : ∀ s t : State, t.queues = s.queues → t.cmds = s.cmds → g t = g s)
    (hc : ∀ (s : State) (fid st : Nat) (r : Bytes), g (s.complete fid st r) = g s) (s : State) (ctx cls status : Nat) :
    g (s.faultCtx ctx cls status) = g s := by
  unfold faultCtx
  split
  · rfl
  · dsimp only
    refine List.foldlRecOn _ _ (motive := fun u => g u = g s) (hq _ _ (by simp) ?_) (fun u hu p _ => ?_)
    · rw [(posts_logBoth _ _ _).parts]
      rfl
    · exact (hc _ _ _ _).trans (Eq.trans (hq u _ (by rfl) rfl) hu)

theorem faultCtx_queueState (s : State) (ctx cls status n : Nat) : (s.faultCtx ctx cls status).queueState n = s.queueState n :=
  faultCtx_leaves (fun u => u.queueState n) (fun _ _ h _ => queueState_congr h n) (fun _ _ _ _ => complete_queueState _ _ _ _ n) s ctx cls status

theorem faultCtx_next (s : State) (ctx cls status : Nat) : (s.faultCtx ctx cls status).cmds.next = s.cmds.next :=
  faultCtx_leaves (fun u => u.cmds.next) (fun _ _ _ h => by rw [h]) complete_next s ctx cls status

/- A read of an entry that failed. -/

theorem readFailed_eq (s : State) (p : Bool) : s.readFailed p = { s with link := (s.readFailed p).link, pf := (s.readFailed p).pf } := by
  cases p <;> rfl

theorem entryReadFailed_next (s : State) (q : QRef) : (s.entryReadFailed q).cmds.next = s.cmds.next := by
  cases q with
  | admin f => rfl
  | pair n =>
    unfold entryReadFailed
    dsimp only
    split
    · exact faultCtx_next _ _ _ _
    · rfl

theorem entryReadFailed_admin (s : State) (f : Nat) : ((s.entryReadFailed (.admin f)).func f).admin.error = true ∧
    ((s.entryReadFailed (.admin f)).func f).admin.running = false := by
  simp [entryReadFailed]

theorem entryReadFailed_pair {s : State} {n : Nat} {q : Queue} (h : s.queues.get? n = some q) :
    (s.entryReadFailed (.pair n)).queueState n = some .error := by
  unfold entryReadFailed
  simp only [h, faultCtx_queueState]
  simp [queueState, h]

end State

/-- Settles O17: a check that fails stops the row before its effect (`State.Fetched.runOp_of_not_permits`, `State.Fetched.runOp_of_precheck`), a
granted entry ends the fetch order (`State.takeCmd_of_no_capture`), and a failed read stops its queue, whatever the fault of its context completes
(`State.entryReadFailed_pair`). -/
theorem fetchAndRefusal : Obligations.FetchAndRefusal := by
  refine ⟨fun s fid c hf hr hs ho => ?_, fun s fid c hf hr hs ho hp => ?_, fun s fid own st c hf hr hs ho hp hc => ?_,
    fun s b x cls used hf ha hrep => ?_, fun s r x cls used hf ha hr => ?_⟩
  · exact State.next_frame_eq s.cplOf (s.cplOf_complete _ _ _) (State.refuseOpcode_eq hf hr hs ho)
  · have hrow {op : Nat} := State.Fetched.runOp_of_not_permits ⟨hf, hr, hs, ho⟩ hp (op := op)
    exact ⟨fun h => State.next_frame_eq s.ctxCmd (State.ctxCmd_complete rfl _ _ _) (hrow h _ _),
      fun h => State.next_frame_eq s.ctxCmd (State.ctxCmd_complete rfl _ _ _) (hrow h _ _),
      fun h => State.next_frame_eq s.cplOf (s.cplOf_complete _ _ _) (hrow h _ _),
      fun h => State.next_frame_eq s.cplOf (s.cplOf_complete _ _ _) (hrow h _ _),
      fun h => State.next_frame_eq s.cplOf (s.cplOf_complete _ _ _) (hrow h _ _)⟩
  · have hrow {op : Nat} := State.Fetched.runOp_of_precheck ⟨hf, hr, hs, ho⟩ hp hc (op := op)
    refine ⟨fun h hown => ?_, fun h hown => ?_, fun h hown => ?_, fun h hown => ?_, fun h hown => ?_⟩ <;> subst hown
    · exact State.next_frame_eq s.streamCmd (State.streamCmd_complete rfl _ _ _) (hrow h _)
    · exact State.next_frame_eq s.streamCmd (State.streamCmd_complete rfl _ _ _) (hrow h _)
    · exact State.next_frame_eq s.cplOf (s.cplOf_complete _ _ _) (hrow h _)
    · exact State.next_frame_eq s.ctxCmd (State.ctxCmd_complete rfl _ _ _) (hrow h _)
    · exact State.next_frame_eq s.fwCmd (State.fwCmd_complete rfl _ _ _) (hrow h _)
  · obtain ⟨c, htake, hfid, hq, hentry, hstage⟩ :=
      State.takeCmd_of_no_capture (s := s.granted x cls used) hrep (keyQueue x.key) (fixLen 64 b)
    refine ⟨_, c, rfl, ?_⟩
    rw [State.fetchOne_ok hf ha, htake, State.advanceHead_eq]
    exact ⟨rfl, rfl, hfid, hq, hentry, hstage, rfl, rfl, rfl, rfl, rfl, rfl⟩
  · obtain ⟨p, hfetch⟩ := State.fetchOne_failed hf ha hr
    refine ⟨s.fetchCmd (s.fetchOne r), rfl, ?_, rfl, fun f hk => ?_, fun n q hk hq => ?_⟩
    · show (s.fetchOne r).cmds.next = _
      rw [hfetch, State.entryReadFailed_next, State.readFailed_eq]
      rfl
    · show ((s.fetchOne r).func f).admin.error = true ∧ ((s.fetchOne r).func f).admin.running = false
      rw [hfetch, hk]
      exact State.entryReadFailed_admin _ f
    · show (s.fetchOne r).queueState n = some .error
      rw [hfetch, hk, State.readFailed_eq]
      exact State.entryReadFailed_pair hq

end Sys2Proof.Machine

/- Number formats: integer elements (R38). -/

namespace Sys2Proof.Machine

theorem fmtWidth_pos (fmt : Nat) : 0 < fmtWidth fmt := by
  unfold fmtWidth
  split <;> decide

/-- Every integer format but UINT8 reads its pattern as two's complement of the format's width. -/
theorem decodeInt_signed {fmt : Nat} (h : fmt ≠ 0xB) (b : Nat) : decodeInt fmt b = (BitVec.ofNat (fmtWidth fmt) b).toInt := by
  have htop : 2 ^ fmtWidth fmt = 2 * 2 ^ (fmtWidth fmt - 1) := by
    rw [← Nat.pow_succ', Nat.succ_eq_add_one, Nat.sub_add_cancel (fmtWidth_pos fmt)]
  simp only [decodeInt, if_neg h, BitVec.toInt_eq_toNat_cond, BitVec.toNat_ofNat]
  split <;> split <;> omega

theorem decodeInt_unsigned (b : Nat) : decodeInt 0xB b = ((BitVec.ofNat 8 b).toNat : Int) := rfl

theorem encodeInt_eq_toNat (fmt : Nat) (v : Int) : encodeInt fmt v = (BitVec.ofInt (fmtWidth fmt) v).toNat :=
  (BitVec.toNat_ofInt v).symm

theorem encodeInt_lt (fmt : Nat) (v : Int) : encodeInt fmt v < 2 ^ fmtWidth fmt := by
  rw [encodeInt_eq_toNat]
  exact BitVec.isLt _

theorem intRange_signed {fmt : Nat} (h : fmt ∈ [0x8, 0x9, 0xA, 0xC]) :
    intRange fmt = (-2 ^ (fmtWidth fmt - 1), 2 ^ (fmtWidth fmt - 1) - 1) := by
  revert fmt
  decide

/-- An integer format is two's complement or UINT8. -/
theorem intFmt_cases {fmt : Nat} (h : fmt ∈ [0x8, 0x9, 0xA, 0xB, 0xC]) : fmt = 0xB ∨ fmt ≠ 0xB ∧ fmt ∈ [0x8, 0x9, 0xA, 0xC] := by
  revert fmt
  decide

theorem isIntFmt_of_mem {fmt : Nat} (h : fmt ∈ [0x8, 0x9, 0xA, 0xB, 0xC]) : isIntFmt fmt = true := by
  revert fmt
  decide

theorem decodeInt_encodeInt {fmt : Nat} (h : fmt ∈ [0x8, 0x9, 0xA, 0xB, 0xC]) {v : Int} (hlo : (intRange fmt).1 ≤ v)
    (hhi : v ≤ (intRange fmt).2) : decodeInt fmt (encodeInt fmt v) = v := by
  rcases intFmt_cases h with rfl | ⟨hB, hs⟩
  · simp only [intRange] at hlo hhi
    simp only [decodeInt, encodeInt, fmtWidth, if_true]
    omega
  · simp only [intRange_signed hs] at hlo hhi
    rw [decodeInt_signed hB, encodeInt_eq_toNat, BitVec.ofNat_toNat, BitVec.setWidth_eq,
      BitVec.toInt_ofInt_eq_self (fmtWidth_pos fmt) hlo (by omega)]

theorem encodeInt_decodeInt {fmt : Nat} (h : fmt ∈ [0x8, 0x9, 0xA, 0xB, 0xC]) {b : Nat} (hb : b < 2 ^ fmtWidth fmt) :
    encodeInt fmt (decodeInt fmt b) = b := by
  rcases intFmt_cases h with rfl | ⟨hB, -⟩
  · simp only [fmtWidth] at hb
    simp only [decodeInt, encodeInt, fmtWidth, if_true]
    omega
  · rw [encodeInt_eq_toNat, decodeInt_signed hB, BitVec.ofInt_toInt, BitVec.toNat_ofNat, Nat.mod_eq_of_lt hb]

theorem decodeInt_mem_range {fmt : Nat} (h : fmt ∈ [0x8, 0x9, 0xA, 0xB, 0xC]) (b : Nat) :
    (intRange fmt).1 ≤ decodeInt fmt b ∧ decodeInt fmt b ≤ (intRange fmt).2 := by
  rcases intFmt_cases h with rfl | ⟨hB, hs⟩
  · simp only [intRange, decodeInt, fmtWidth, if_true]
    omega
  · rw [intRange_signed hs, decodeInt_signed hB]
    exact ⟨BitVec.le_toInt _, Int.le_sub_one_of_lt BitVec.toInt_lt⟩

/-- A value at the last place to which it rounds is exact. -/
@[simp] theorem rneAt_self (m : Nat) (e : Int) : rneAt m e e = m := by simp [rneAt]

theorem roundInt_ofInt (i : Int) : roundInt (decide (i < 0)) i.natAbs 0 = i := by
  simp only [roundInt, rneAt_self, decide_eq_true_eq]
  split <;> omega

theorem decodeElem_int {fmt : Nat} (h : isIntFmt fmt = true) (b : Nat) : decodeElem fmt b = FVal.ofInt (decodeInt fmt b) := by
  have hf : 0x8 ≤ fmt ∧ fmt ≤ 0xC := of_decide_eq_true h
  rw [decodeElem, if_neg (by omega), if_neg (by omega), if_pos h]

theorem convert_ofInt {fmt : Nat} (h : isIntFmt fmt = true) (sat : Bool) {i : Int} (hlo : (intRange fmt).1 ≤ i) (hhi : i ≤ (intRange fmt).2) :
    convert fmt sat (FVal.ofInt i) = (encodeInt fmt i, 0#8) := by
  have hf : 0x8 ≤ fmt ∧ fmt ≤ 0xC := of_decide_eq_true h
  simp only [convert, if_neg (show fmt ≠ 0xE by omega), h, if_true, FVal.ofInt, roundInt_ofInt, if_neg (Int.not_lt.mpr hlo),
    if_neg (Int.not_lt.mpr hhi)]

/-- Settles O57: a signed element is a bit vector read with its sign (`decodeInt_signed`), so both directions of the round trip are those of
`BitVec`, and a value of the range is its own rounding (`convert_ofInt`). -/
theorem integerElements : Obligations.IntegerElements := by
  refine ⟨fun b => ⟨decodeInt_signed (by decide) b, decodeInt_signed (by decide) b, decodeInt_signed (by decide) b,
    decodeInt_signed (by decide) b, decodeInt_unsigned b⟩, by decide, fun fmt h v hlo hhi => ⟨encodeInt_lt fmt v, decodeInt_encodeInt h hlo hhi⟩,
    fun fmt h sat b hb => ?_⟩
  obtain ⟨hlo, hhi⟩ := decodeInt_mem_range h b
  have hi := isIntFmt_of_mem h
  rw [decodeElem_int hi, convert_ofInt hi sat hlo hhi, encodeInt_decodeInt h hb]
  exact ⟨hlo, hhi, rfl⟩

end Sys2Proof.Machine

/- Number formats: block-scaled elements (R43, R44). -/

namespace Sys2Proof.Machine

/-- The power of two by which a scale below 0xFF moves an element: X − 127, and 2⁻⁶ or 2⁻² beside it for INT8 and INT4 (R43, R44). -/
theorem scaledElem_of_fin {fmt bits x m : Nat} {n : Bool} {e : Int} (hx : x < 255) (h : decodeElem fmt bits = .fin n m e) :
    scaledElem fmt (some x) bits = (.fin n m (e + (if fmt = 0xA then -6 else if fmt = 0xC then -2 else 0) + x - 127), 0#8) := by
  have hmod : x % 256 = x := Nat.mod_eq_of_lt (by omega)
  simp only [scaledElem, hmod, if_neg (Nat.ne_of_lt hx), h, readFlags]

theorem scaledElem_int {fmt bits x : Nat} (hx : x < 255) (h : isIntFmt fmt = true) :
    scaledElem fmt (some x) bits = (.fin (decide (decodeInt fmt bits < 0)) (decodeInt fmt bits).natAbs
      ((if fmt = 0xA then -6 else if fmt = 0xC then -2 else 0) + x - 127), 0#8) := by
  simpa only [Int.zero_add] using scaledElem_of_fin hx (decodeElem_int h bits)

theorem scaledElem_unscaled_int {fmt : Nat} (h : isIntFmt fmt = true) (bits : Nat) :
    scaledElem fmt none bits = (FVal.ofInt (decodeInt fmt bits), 0#8) := by
  simp only [scaledElem, decodeElem_int h, FVal.ofInt, readFlags]

theorem scaledElem_nan {x : Nat} (hx : x % 256 = 255) (fmt bits : Nat) :
    scaledElem fmt (some x) bits = (.nan, Flags.scaleNan ||| Flags.nanSeen) := by
  simp only [scaledElem, if_pos hx]

theorem round32_nan : round32 .nan = (.nan, Flags.nanSeen) := by decide

theorem widen_nan {x : Nat} (hx : x % 256 = 255) (fmt bits : Nat) :
    widen fmt (some x) bits = (.nan, Flags.scaleNan ||| Flags.nanSeen) := by
  simp only [widen, scaledElem_nan hx, round32_nan]
  decide

/-- A scale byte that reads 0xFF makes the element of A that it covers a NaN (R44, R66). -/
theorem matA_nan {d : Desc} {x : MatDims} {rd : RowRead} {m k : Nat} (hs : d.fld 5 1 0 = 1)
    (h : streamByte rd ((d.region 24).first + m * cdiv (cdiv x.k 32) 512) (k / 32) = 255) :
    matA d x rd m k = (.nan, Flags.scaleNan ||| Flags.nanSeen) := by
  simp only [matA, if_pos hs, h]
  exact scaledElem_nan rfl _ _

theorem matB_nan {d : Desc} {x : MatDims} {rd : RowRead} {n k : Nat} (hs : d.fld 5 3 2 = 1)
    (h : streamByte rd ((d.region 28).first + (n / 64 * x.groups + k / x.g) * tileS x.af x.bf) (n % 64 * (x.g / 32) + k % x.g / 32) = 255) :
    matB d x rd n k = (.nan, Flags.scaleNan ||| Flags.nanSeen) := by
  simp only [matB, if_pos hs, h]
  exact scaledElem_nan rfl _ _

/-- Settles O58: the exponent of a scaled element is `scaledElem_of_fin`'s, and a block whose scale reads 0xFF is NaN element by element
(`scaledElem_nan`), so for the elements of A, of B and of a widened operand that name such a scale. -/
theorem scaledElements : Obligations.ScaledElements := by
  refine ⟨fun fmt bits x n m e hx hA hC h => ?_, fun bits x hx => ⟨?_, ?_⟩, fun fmt hf bits => scaledElem_unscaled_int ?_ bits,
    fun fmt bits x hx => scaledElem_nan hx fmt bits, fun d x rd m j i hs hi h => matA_nan hs ?_, fun d x rd n k hs h => matB_nan hs h,
    fun fmt bits x hx => widen_nan hx fmt bits⟩
  · rw [scaledElem_of_fin hx h, if_neg hA, if_neg hC, Int.add_zero]
  · rw [scaledElem_int hx (by decide), if_pos rfl, show (-6 : Int) + x - 127 = x - 133 by omega]
  · rw [scaledElem_int hx (by decide), if_neg (by decide), if_pos rfl, show (-2 : Int) + x - 127 = x - 129 by omega]
  · revert fmt
    decide
  · rwa [show (32 * j + i) / 32 = j by omega]

end Sys2Proof.Machine

/- Number formats: signs of zero results, and max and min (R48). -/

namespace Sys2Proof.Machine

theorem FVal.mul_fin (n k : Bool) (m p : Nat) (e g : Int) : (FVal.fin n m e).mul (.fin k p g) = .fin (n != k) (m * p) (e + g) := rfl

theorem magLe_zero (e : Int) (m : Nat) (g : Int) : magLe 0 e m g = true := by simp [magLe]

theorem encodeMag_zero (l : FLayout) (q : Int) : encodeMag l 0 q = 0 := by
  have h : (0 : Nat) ≠ 2 ^ (l.mbits + 1) := (Nat.two_pow_pos _).ne
  simp [encodeMag, h]

theorem roundFloat_of_rneAt_zero (fmt : Nat) {l : FLayout} (n : Bool) {m : Nat} {e : Int} (h : rneAt m e (lastPlace l m e) = 0) :
    roundFloat fmt l n m e = (signBit l n, 0#8) := by
  simp [roundFloat, h, magLe_zero, encodeMag_zero]

/-- The value is minus zero. -/
def FVal.IsNegZero (v : FVal) : Prop := ∃ q, v = .fin true 0 q

theorem FVal.isNegZero_fin (n : Bool) (m : Nat) (e : Int) : (FVal.fin n m e).IsNegZero ↔ n = true ∧ m = 0 := by
  simp [IsNegZero]

theorem alignTo_neg_magnitude (q : Int) (m : Nat) (e : Int) : alignTo q (.fin true m e) = -((m * 2 ^ (e - q).toNat : Nat) : Int) := rfl

/-- Two magnitudes taken negative sum to zero when both are zero only. -/
theorem alignTo_add_eq_zero {q e g : Int} {m p : Nat} (h : alignTo q (.fin true m e) + alignTo q (.fin true p g) = 0) : m = 0 ∧ p = 0 := by
  rw [alignTo_neg_magnitude, alignTo_neg_magnitude] at h
  have hsum : m * 2 ^ (e - q).toNat + p * 2 ^ (g - q).toNat = 0 := by omega
  simpa using hsum

theorem FVal.isNegZero_add (a b : FVal) : (a.add b).IsNegZero ↔ a.IsNegZero ∧ b.IsNegZero := by
  cases a with
  | nan => simp [add, IsNegZero]
  | inf x =>
    cases b with
    | inf y => by_cases h : x = y <;> simp [add, IsNegZero, h]
    | _ => simp [add, IsNegZero]
  | fin n m e =>
    cases b with
    | fin k p g =>
      simp only [add]
      split
      · next hs =>
        simp only [isNegZero_fin, Bool.and_eq_true, and_true]
        refine ⟨?_, fun h => ⟨h.1.1, h.2.1⟩⟩
        rintro ⟨rfl, rfl⟩
        obtain ⟨hm, hp⟩ := alignTo_add_eq_zero hs
        exact ⟨⟨rfl, hm⟩, rfl, hp⟩
      · next hs =>
        simp only [isNegZero_fin, Int.natAbs_eq_zero, hs, and_false, false_iff]
        rintro ⟨⟨rfl, rfl⟩, rfl, rfl⟩
        simp [alignTo] at hs
    | _ => simp [add, IsNegZero]

theorem FVal.isNegZero_foldl_add (a : FVal) (vs : List FVal) : (vs.foldl add a).IsNegZero ↔ a.IsNegZero ∧ ∀ v ∈ vs, v.IsNegZero := by
  induction vs generalizing a with
  | nil => simp
  | cons v vs ih => simp only [List.foldl_cons, ih, isNegZero_add, List.forall_mem_cons, and_assoc]

theorem exactSum_isNegZero (vs : List FVal) : (exactSum vs).IsNegZero ↔ vs ≠ [] ∧ ∀ v ∈ vs, v.IsNegZero := by
  cases vs with
  | nil => simp [exactSum, FVal.zero, FVal.IsNegZero]
  | cons v vs => simp [exactSum, FVal.isNegZero_foldl_add]

/-- Zeros of either sign are in no order. -/
theorem FVal.lt_zeros (n k : Bool) (e g : Int) : FVal.lt (.fin n 0 e) (.fin k 0 g) = false := by
  simp [lt, alignTo]

theorem FVal.not_nan_of_lt {a b : FVal} (h : FVal.lt a b = true) : a.isNan = false ∧ b.isNan = false := by
  cases a with
  | nan => cases h
  | _ => cases b <;> simp_all [lt, isNan]

theorem FVal.lt_asymm {a b : FVal} (h : FVal.lt a b = true) : FVal.lt b a = false := by
  cases a with
  | nan => cases h
  | inf x => cases b <;> simp_all [lt]
  | fin n m e =>
    cases b with
    | fin k p g =>
      simp only [lt, decide_eq_true_eq, decide_eq_false_iff_not, min_comm g e] at h ⊢
      omega
    | _ => simp_all [lt]

theorem FVal.max_min_zeros (e g : Int) :
    FVal.max (.fin false 0 e) (.fin true 0 g) = .fin false 0 e ∧ FVal.max (.fin true 0 g) (.fin false 0 e) = .fin false 0 e ∧
    FVal.min (.fin false 0 e) (.fin true 0 g) = .fin true 0 g ∧ FVal.min (.fin true 0 g) (.fin false 0 e) = .fin true 0 g := by
  simp [FVal.max, FVal.min, FVal.lt_zeros, FVal.isNan, FVal.isNeg]

theorem FVal.max_min_nan (v : FVal) :
    FVal.max .nan v = .nan ∧ FVal.max v .nan = .nan ∧ FVal.min .nan v = .nan ∧ FVal.min v .nan = .nan := by
  simp [FVal.max, FVal.min, FVal.isNan]

theorem FVal.max_min_of_lt {a b : FVal} (h : FVal.lt a b = true) :
    FVal.max a b = b ∧ FVal.max b a = b ∧ FVal.min a b = a ∧ FVal.min b a = a := by
  obtain ⟨ha, hb⟩ := not_nan_of_lt h
  simp [FVal.max, FVal.min, ha, hb, h, lt_asymm h]

/-- Settles O59: a sum of two is minus zero when both addends are (`FVal.isNegZero_add`), which the fold of `exactSum` carries to every list, and the
order of two values that max and min read is asymmetric and leaves zeros of either sign level. -/
theorem zerosAndExtremes : Obligations.ZerosAndExtremes := by
  refine ⟨fun n k m p e g h => ⟨e + g, ?_⟩, fun fmt l n m e h => roundFloat_of_rneAt_zero fmt n h, exactSum_isNegZero, FVal.max_min_zeros,
    FVal.max_min_nan, fun sat => rfl, fun a b h => FVal.max_min_of_lt h⟩
  rw [FVal.mul_fin, Nat.mul_eq_zero.mpr h]

end Sys2Proof.Machine

/- Number formats: a floating-point element converts to itself, and rounding is to nearest even (R34, R46). -/

namespace Sys2Proof.Machine

theorem size_div_two_pow (n k : Nat) : (n / 2 ^ k).size = n.size - k := by
  refine eq_of_forall_ge_iff fun j => ?_
  rw [Nat.size_le, Nat.div_lt_iff_lt_mul (Nat.two_pow_pos k), ← Nat.pow_add, ← Nat.size_le, Nat.sub_le_iff_le_add]

theorem bitLenAux_eq_size {fuel n : Nat} (h : n < 2 ^ fuel) : bitLenAux fuel n = n.size := by
  induction fuel generalizing n with
  | zero =>
    obtain rfl : n = 0 := by omega
    rfl
  | succ fuel ih =>
    rw [bitLenAux]
    split
    · next h0 => rw [h0, Nat.size_zero]
    · next h0 =>
      have hpos := Nat.size_pos.mpr (Nat.pos_of_ne_zero h0)
      have hhalf : (n / 2).size = n.size - 1 := by simpa using size_div_two_pow n 1
      rw [ih (by omega), hhalf]
      omega

theorem bitLen_go_eq_size {fuel n : Nat} (acc : Nat) (h : n < 2 ^ (64 * fuel)) : bitLen.go fuel n acc = acc + n.size := by
  induction fuel generalizing n acc with
  | zero =>
    obtain rfl : n = 0 := by omega
    rfl
  | succ fuel ih =>
    rw [bitLen.go]
    split
    · next hn => rw [bitLenAux_eq_size hn]
    · next hn =>
      have hsize : 64 < n.size := Nat.lt_size.mpr (Nat.le_of_not_lt hn)
      have hdiv : n / 2 ^ 64 < 2 ^ (64 * fuel) := Nat.div_lt_of_lt_mul (by rwa [← Nat.pow_add, Nat.add_comm])
      rw [ih _ hdiv, size_div_two_pow]
      omega

theorem bitLen_eq_size (n : Nat) : bitLen n = n.size := by
  have hfuel : n.log2 + 1 ≤ 64 * (n.log2 / 64 + 1) := by omega
  rw [bitLen, bitLen_go_eq_size 0 (Nat.lt_log2_self.trans_le (Nat.pow_le_pow_right (by decide) hfuel)), Nat.zero_add]

theorem b2n_odd {q : Nat} (h : q < 2) : b2n (decide (q % 2 = 1)) = q := by
  revert q
  decide

namespace FLayout

variable (l : FLayout)

/-- The sign of a pattern (R34). -/
def signOf (b : Nat) : Bool := decide (b / 2 ^ (l.mbits + l.ebits) % 2 = 1)

/-- A pattern without its sign. -/
def magOf (b : Nat) : Nat := b % 2 ^ (l.mbits + l.ebits)

/-- The exponent field of a magnitude, where a subnormal one counts as 1 (R35). -/
def expOf (p : Nat) : Nat := max (p / 2 ^ l.mbits) 1

/-- The significand of a magnitude, the leading one included where there is one. -/
def sigOf (p : Nat) : Nat := p - 2 ^ l.mbits * (l.expOf p - 1)

/-- The exponent of the last place of a magnitude. -/
def placeOf (p : Nat) : Int := (l.expOf p : Int) - l.bias - l.mbits

variable {l}

theorem expOf_mono {p r : Nat} (h : p ≤ r) : l.expOf p ≤ l.expOf r := max_le_max_right 1 (Nat.div_le_div_right h)

/-- A magnitude is subnormal, with exponent field 1 and itself as significand, or normal with its leading one. -/
theorem sig_cases (p : Nat) : (p < 2 ^ l.mbits ∧ l.expOf p = 1 ∧ l.sigOf p = p) ∨
    (2 ^ l.mbits ≤ p ∧ l.expOf p = p / 2 ^ l.mbits ∧ l.sigOf p = 2 ^ l.mbits + p % 2 ^ l.mbits) := by
  have hpos := Nat.two_pow_pos l.mbits
  rcases Nat.lt_or_ge p (2 ^ l.mbits) with h | h
  · have he : l.expOf p = 1 := by simp [expOf, Nat.div_eq_of_lt h]
    exact .inl ⟨h, he, by simp [sigOf, he]⟩
  · have hq : 1 ≤ p / 2 ^ l.mbits := (Nat.one_le_div_iff hpos).mpr h
    have he : l.expOf p = p / 2 ^ l.mbits := max_eq_left hq
    refine .inr ⟨h, he, ?_⟩
    have hsplit := Nat.div_add_mod p (2 ^ l.mbits)
    have hle : 2 ^ l.mbits * 1 ≤ 2 ^ l.mbits * (p / 2 ^ l.mbits) := Nat.mul_le_mul_left _ hq
    rw [sigOf, he, Nat.mul_sub, Nat.mul_one]
    omega

theorem sigOf_lt (p : Nat) : l.sigOf p < 2 * 2 ^ l.mbits := by
  have hmod := Nat.mod_lt p (Nat.two_pow_pos l.mbits)
  rcases sig_cases (l := l) p with ⟨h, -, hs⟩ | ⟨-, -, hs⟩ <;> omega

theorem magOf_mod (b : Nat) : l.magOf b % 2 ^ l.mbits = b % 2 ^ l.mbits := by
  rw [magOf, Nat.pow_add, Nat.mod_mul_right_mod]

theorem magOf_div (b : Nat) : l.magOf b / 2 ^ l.mbits = b / 2 ^ l.mbits % 2 ^ l.ebits := by
  rw [magOf, Nat.pow_add, Nat.mod_mul_right_div_self]

theorem magOf_eq (b : Nat) : l.magOf b = b / 2 ^ l.mbits % 2 ^ l.ebits * 2 ^ l.mbits + b % 2 ^ l.mbits := by
  rw [← magOf_div, ← magOf_mod, Nat.div_add_mod']

theorem signBit_add_magOf {b : Nat} (hb : b < 2 ^ (l.mbits + l.ebits + 1)) : signBit l (l.signOf b) + l.magOf b = b := by
  have hsign : b / 2 ^ (l.mbits + l.ebits) < 2 := Nat.div_lt_of_lt_mul hb
  rw [signBit, signOf, b2n_odd hsign, magOf, Nat.div_add_mod']

/-- The larger pattern has the larger value (R34). -/
theorem magLe_of_le {p r : Nat} (h : p ≤ r) : magLe (l.sigOf p) (l.placeOf p) (l.sigOf r) (l.placeOf r) = true := by
  have hexp := expOf_mono (l := l) h
  have hplace : l.placeOf r - l.placeOf p = ((l.expOf r - l.expOf p : Nat) : Int) := by
    simp only [placeOf]
    omega
  have hmin : min (l.placeOf p) (l.placeOf r) = l.placeOf p := min_eq_left (by omega)
  simp only [magLe, hmin, Int.sub_self, hplace, Int.toNat_zero, Int.toNat_natCast, pow_zero, mul_one, decide_eq_true_eq]
  rcases Nat.eq_or_lt_of_le hexp with he | hlt
  · rw [he, Nat.sub_self, pow_zero, mul_one, sigOf, sigOf, he]
    exact Nat.sub_le_sub_right h _
  · have hone : 1 ≤ l.expOf p := le_max_right _ _
    have hnormal : 2 ^ l.mbits ≤ l.sigOf r := by
      rcases sig_cases (l := l) r with ⟨-, he, -⟩ | ⟨-, -, hs⟩ <;> omega
    calc l.sigOf p ≤ 2 ^ l.mbits * 2 := by
          have := sigOf_lt (l := l) p
          omega
      _ ≤ l.sigOf r * 2 ^ (l.expOf r - l.expOf p) := Nat.mul_le_mul hnormal (Nat.le_self_pow (by omega) 2)

/-- The last place to which the value of a pattern rounds is the pattern's own (R46). -/
theorem lastPlace_sigOf (p : Nat) : lastPlace l (l.sigOf p) (l.placeOf p) = l.placeOf p := by
  rw [lastPlace, bitLen_eq_size]
  have hsize : (l.sigOf p).size ≤ l.mbits + 1 := Nat.size_le.mpr (by rw [Nat.pow_succ']; exact sigOf_lt p)
  rcases sig_cases (l := l) p with ⟨h, he, hs⟩ | ⟨h, he, hs⟩
  · have hsub : (l.sigOf p).size ≤ l.mbits := Nat.size_le.mpr (by omega)
    simp only [placeOf, he]
    omega
  · have hfull : l.mbits < (l.sigOf p).size := Nat.lt_size.mpr (by omega)
    have hone : 1 ≤ l.expOf p := le_max_right _ _
    simp only [placeOf]
    omega

theorem encodeMag_sigOf (p : Nat) : encodeMag l (l.sigOf p) (l.placeOf p) = p := by
  have hne : l.sigOf p ≠ 2 ^ (l.mbits + 1) := by
    rw [Nat.pow_succ']
    exact (sigOf_lt p).ne
  have hexp : (l.placeOf p + l.bias + l.mbits).toNat = l.expOf p := by
    simp only [placeOf]
    omega
  simp only [encodeMag, if_neg hne, hexp]
  rcases sig_cases (l := l) p with ⟨h, he, hs⟩ | ⟨h, he, hs⟩
  · rw [hs, if_pos h]
  · rw [hs, if_neg (by omega), he, Nat.add_sub_cancel_left, Nat.div_add_mod']

end FLayout

/-- What a finite pattern reads as, and that it is none of the patterns that stand for an infinity or NaN (R34 to R36). -/
theorem decodeFloat_eq_fin {fmt : Nat} {l : FLayout} {b : Nat} {n : Bool} {m : Nat} {e : Int} (h : decodeFloat fmt l b = .fin n m e) :
    n = l.signOf b ∧ m = l.sigOf (l.magOf b) ∧ e = l.placeOf (l.magOf b) ∧
    ¬((fmt = 0 ∨ fmt = 1 ∨ fmt = 2 ∨ fmt = 4) ∧ b / 2 ^ l.mbits % 2 ^ l.ebits = 2 ^ l.ebits - 1) ∧
    ¬(fmt = 3 ∧ b / 2 ^ l.mbits % 2 ^ l.ebits = 2 ^ l.ebits - 1 ∧ b % 2 ^ l.mbits = 7) := by
  simp only [decodeFloat] at h
  split at h
  · split at h <;> cases h
  · next hinf =>
    split at h
    · cases h
    · next hnan =>
      rcases FLayout.sig_cases (l := l) (l.magOf b) with ⟨hp, he, hs⟩ | ⟨hp, he, hs⟩
      · rw [← FLayout.magOf_div, ← FLayout.magOf_mod, if_pos (Nat.div_eq_of_lt hp), Nat.mod_eq_of_lt hp] at h
        cases h
        exact ⟨rfl, hs.symm, by rw [FLayout.placeOf, he]; rfl, hinf, hnan⟩
      · rw [← FLayout.magOf_div, ← FLayout.magOf_mod, if_neg (Nat.div_pos hp (Nat.two_pow_pos _)).ne'] at h
        cases h
        exact ⟨rfl, hs.symm, by rw [FLayout.placeOf, he], hinf, hnan⟩

theorem decodeFloat_eq_inf {fmt : Nat} {l : FLayout} {b : Nat} {n : Bool} (h : decodeFloat fmt l b = .inf n) :
    (fmt = 0 ∨ fmt = 1 ∨ fmt = 2 ∨ fmt = 4) ∧ n = l.signOf b ∧ l.magOf b = (2 ^ l.ebits - 1) * 2 ^ l.mbits := by
  simp only [decodeFloat] at h
  split at h
  · next hinf =>
    split at h
    · next hm =>
      cases h
      exact ⟨hinf.1, rfl, by rw [FLayout.magOf_eq, hinf.2, hm, Nat.add_zero]⟩
    · cases h
  · split at h
    · cases h
    · split at h <;> cases h

section

variable {fmt : Nat} {l : FLayout} (hl : layoutOf fmt = some l)

include hl

theorem lt_eight_of_layoutOf : fmt < 8 := by
  by_contra h
  obtain ⟨k, rfl⟩ := Nat.exists_eq_add_of_le' (Nat.le_of_not_lt h)
  cases hl

theorem isIntFmt_of_layoutOf : isIntFmt fmt = false :=
  decide_eq_false (by have := lt_eight_of_layoutOf hl; omega)

theorem fmtWidth_of_layoutOf : fmtWidth fmt = l.mbits + l.ebits + 1 := by
  have h := lt_eight_of_layoutOf hl
  interval_cases fmt <;> cases hl <;> rfl

theorem decodeElem_of_layoutOf (b : Nat) : decodeElem fmt b = decodeFloat fmt l b := by
  have h := lt_eight_of_layoutOf hl
  simp [decodeElem, isIntFmt_of_layoutOf hl, hl, show fmt ≠ 0xD by omega, show fmt ≠ 0xE by omega]

theorem convert_fin (sat : Bool) (n : Bool) (m : Nat) (e : Int) : convert fmt sat (.fin n m e) = roundFloat fmt l n m e := by
  have h := lt_eight_of_layoutOf hl
  simp [convert, isIntFmt_of_layoutOf hl, hl, show fmt ≠ 0xE by omega]

theorem convert_inf (hinf : fmt = 0 ∨ fmt = 1 ∨ fmt = 2 ∨ fmt = 4) (sat n : Bool) :
    convert fmt sat (.inf n) = (signBit l n + (2 ^ l.ebits - 1) * 2 ^ l.mbits, Flags.infSeen) := by
  have h := lt_eight_of_layoutOf hl
  simp [convert, isIntFmt_of_layoutOf hl, hl, show fmt ≠ 0xE by omega, hinf]

/-- The value that R34 gives a format as its largest. -/
theorem maxFinite_eq : (decodeFloat fmt l (maxFiniteBits fmt)).toFin = (l.sigOf (maxFiniteBits fmt), l.placeOf (maxFiniteBits fmt)) := by
  have h := lt_eight_of_layoutOf hl
  interval_cases fmt <;> cases hl <;> decide

/-- No finite element is above the largest one (R34). -/
theorem magOf_le_maxFinite {b : Nat} {n : Bool} {m : Nat} {e : Int} (h : decodeFloat fmt l b = .fin n m e) : l.magOf b ≤ maxFiniteBits fmt := by
  obtain ⟨-, -, -, hinf, hnan⟩ := decodeFloat_eq_fin h
  have hexp := Nat.mod_lt (b / 2 ^ l.mbits) (Nat.two_pow_pos l.ebits)
  have hmant := Nat.mod_lt b (Nat.two_pow_pos l.mbits)
  rw [FLayout.magOf_eq]
  have hfmt := lt_eight_of_layoutOf hl
  interval_cases fmt <;> cases hl <;> simp [maxFiniteBits] at hinf hnan hexp hmant ⊢ <;> omega

theorem roundFloat_sigOf (n : Bool) {p : Nat} (hp : p ≤ maxFiniteBits fmt) :
    roundFloat fmt l n (l.sigOf p) (l.placeOf p) = (signBit l n + p, 0#8) := by
  simp only [roundFloat, FLayout.lastPlace_sigOf, rneAt_self, FLayout.encodeMag_sigOf, maxFinite_eq hl, FLayout.magLe_of_le hp, if_true]
  split
  · next h0 =>
    have hzero : p = 0 := by
      have hpos := Nat.two_pow_pos l.mbits
      rcases FLayout.sig_cases (l := l) p with ⟨-, -, hs⟩ | ⟨-, -, hs⟩ <;> omega
    rw [hzero, Nat.add_zero]
  · rfl

theorem convert_decodeElem_fin (sat : Bool) {b : Nat} (hb : b < 2 ^ fmtWidth fmt) {n : Bool} {m : Nat} {e : Int}
    (h : decodeElem fmt b = .fin n m e) : convert fmt sat (decodeElem fmt b) = (b, 0#8) := by
  rw [fmtWidth_of_layoutOf hl] at hb
  rw [h, convert_fin hl]
  rw [decodeElem_of_layoutOf hl] at h
  have hle := magOf_le_maxFinite hl h
  obtain ⟨rfl, rfl, rfl, -, -⟩ := decodeFloat_eq_fin h
  rw [roundFloat_sigOf hl _ hle, FLayout.signBit_add_magOf hb]

theorem convert_decodeElem_inf (sat : Bool) {b : Nat} (hb : b < 2 ^ fmtWidth fmt) {n : Bool} (h : decodeElem fmt b = .inf n) :
    convert fmt sat (decodeElem fmt b) = (b, Flags.infSeen) := by
  rw [fmtWidth_of_layoutOf hl] at hb
  rw [h]
  rw [decodeElem_of_layoutOf hl] at h
  obtain ⟨hinf, rfl, hmag⟩ := decodeFloat_eq_inf h
  rw [convert_inf hl hinf, ← hmag, FLayout.signBit_add_magOf hb]

end

theorem layoutOf_of_lt {fmt : Nat} (h : fmt < 8) : ∃ l, layoutOf fmt = some l :=
  Option.isSome_iff_exists.mp (by revert fmt; decide)

/-- The multiple that `rneAt` takes is within half a last place, and even where both neighbours are as near (R46). -/
theorem rneAt_nearest_even (m k : Nat) (e : Int) :
    2 * m ≤ 2 * rneAt m e (e + k) * 2 ^ k + 2 ^ k ∧ 2 * rneAt m e (e + k) * 2 ^ k ≤ 2 * m + 2 ^ k ∧
      ((2 * m = 2 * rneAt m e (e + k) * 2 ^ k + 2 ^ k ∨ 2 * rneAt m e (e + k) * 2 ^ k = 2 * m + 2 ^ k) → rneAt m e (e + k) % 2 = 0) := by
  cases k with
  | zero =>
    rw [Int.natCast_zero, Int.add_zero, rneAt_self]
    omega
  | succ j =>
    have hsplit := Nat.div_add_mod' m (2 ^ (j + 1))
    have hmod := Nat.mod_lt m (Nat.two_pow_pos (j + 1))
    have hhalf : 2 ^ (j + 1) = 2 * 2 ^ j := Nat.pow_succ'
    have hk : (e + ((j + 1 : Nat) : Int) - e).toNat = j + 1 := by omega
    simp only [rneAt, if_neg (show ¬e + ((j + 1 : Nat) : Int) ≤ e by omega), hk, Nat.add_sub_cancel]
    split
    · rw [Nat.mul_assoc, Nat.add_mul, Nat.one_mul]
      omega
    · rw [Nat.mul_assoc]
      omega

/-- Settles O60: the value of a magnitude has the magnitude's own place as its last place and encodes back to it (`FLayout.lastPlace_sigOf`,
`FLayout.encodeMag_sigOf`), the largest finite pattern bounds it, and the sign bit joins on (`FLayout.signBit_add_magOf`). -/
theorem elementsConvertToThemselves : Obligations.ElementsConvertToThemselves := by
  refine ⟨fun fmt hfmt sat b hb => ?_, fun m k e => rneAt_nearest_even m k e⟩
  obtain ⟨l, hl⟩ := layoutOf_of_lt hfmt
  exact ⟨fun n m e h => convert_decodeElem_fin hl sat hb h, fun n h => convert_decodeElem_inf hl sat hb h⟩

end Sys2Proof.Machine

/- Cores, carriers and steps after an update, and what a row of the cores answers. -/

namespace Sys2Proof.Machine

namespace State

theorem lc_modLc_ne (s : State) {c k : Nat} (f : LCore → LCore) (h : k ≠ c) : (s.modLc c f).lc k = s.lc k := by
  simp [lc, List.getD_eq_getElem?_getD, List.getElem?_modify_ne _ _ h.symm]

theorem pcr_modPc_self (s : State) {p : Nat} (f : PCore → PCore) (h : p < s.pcores.length) : (s.modPc p f).pcr p = f (s.pcr p) := by
  simp [pcr, h]

theorem pcr_modPc_ne (s : State) {p q : Nat} (f : PCore → PCore) (h : q ≠ p) : (s.modPc p f).pcr q = s.pcr q := by
  simp [pcr, List.getD_eq_getElem?_getD, List.getElem?_modify_ne _ _ h.symm]

theorem step?_modStep_self (s : State) (n : Nat) (f : StepRec → StepRec) : (s.modStep n f).step? n = (s.step? n).map f := by
  simp [step?]

theorem carrier_congr {s t : State} {k : Nat} (h : (t.lc k).carrier = (s.lc k).carrier) : t.carrier k = s.carrier k := by
  unfold carrier
  rw [h]

/-- A row that leaves a state for the cores answers that state with the faults settled. -/
theorem next_coreDone_eq {s t u : State} (h : t = u) : (.next (s.coreDone t) : Result) = .next (s.coreDone u) := by rw [h]

/-- Without a faulting step there is nothing to settle. -/
theorem settleFaults_of_calm {s : State} (h : s.Calm) : s.settleFaults = s := by
  have hnone : s.steps.list.filter (fun p => p.2.stage == .faulting) = [] := List.filter_eq_nil_iff.mpr (fun p hp => by simpa using h p hp)
  rw [settleFaults, hnone]
  rfl

theorem coreDone_of_calm {s t : State} (h : s.Calm) (hs : t.steps = s.steps) : s.coreDone t = s.coreRow t := by
  have ht : t.Calm := by
    unfold Calm
    rwa [hs]
  rw [coreDone, settleFaults_of_calm ht]

end State

end Sys2Proof.Machine

/- The descriptors of a core: issue (R62, R74, R75). -/

namespace Sys2Proof.Machine

namespace State

/-- A descriptor that issues by a row is one that the row names. -/
theorem issuing_names {s : State} {core : Nat} {p : Desc → Bool} {x : Running} {d : Desc} (h : s.issuing core p = some (x, d)) : p d = true := by
  unfold issuing at h
  split at h
  · cases h
  · split at h
    · cases h
    · split at h
      · next hc =>
        cases h
        simp only [Bool.and_eq_true] at hc
        exact hc.1.2
      · cases h

/-- Only a MATMUL can be SHADOW_ONLY and only a CHECK can be above the level in force: no descriptor of another kind passes (R80, R92). -/
theorem issuing_not_passes {s : State} {core kind : Nat} {x : Running} {d : Desc} (h : s.issuing core (fun d => d.kind == kind) = some (x, d))
    (h1 : kind ≠ 1) (h7 : kind ≠ 7) (level : Nat) : passes d level = false := by
  have hk : d.kind = kind := by simpa using issuing_names h
  simp [passes, hk, h1, h7]

section

variable {s : State} {core : Nat} {x : Running} {d : Desc} (es : List RowError)

/-- An engine's descriptor issues with the rows that it will write, and leaves its flags (R64, R95). -/
theorem runEngine_issues {kind : Nat} {run : Desc → Nat → RowRead → EngineOut} (h : s.issuing core (fun d => d.kind == kind) = some (x, d))
    (hp : passes d x.r.level = false) :
    s.runEngine core kind run es =
      (s.issue core x d (InFlight.plain x.q.idx d (run d x.q.batch (s.rows core)).writes) es).modSeq core
        (fun q => q.collect x.q.idx d (run d x.q.batch (s.rows core))) := by
  simp [runEngine, h, hp]

theorem runEngine_passes {kind : Nat} {run : Desc → Nat → RowRead → EngineOut} (h : s.issuing core (fun d => d.kind == kind) = some (x, d))
    (hp : passes d x.r.level = true) : s.runEngine core kind run es = s.issueDone core x d := by
  simp [runEngine, h, hp]

theorem runAttnIssue_issues (h : s.issuing core (fun d => d.kind == 3) = some (x, d)) :
    s.runAttnIssue core es = (s.issue core x d (InFlight.plain x.q.idx d []) es).wakeCore core := by
  simp [runAttnIssue, h]

/-- A MOVE issues with its pieces before it, notes the streams that it writes, and holds the epoch of its pool when it walks one (R87, R180, R208). -/
theorem runMove_issues (h : s.issuing core (fun d => d.kind == 5) = some (x, d)) {t : State}
    (ht : t = (s.issue core x d { InFlight.plain x.q.idx d [] with move := some ⟨d.loads, s.movePieces core x d, 0, [], false⟩ } es).noteWrites core x d) :
    s.runMove core es =
      (if d.other = 4 then t.modKv x.r.ctx (fun k => { k with holds := k.holds ++ [(k.epoch, holdId x.n core x.q.idx)] }) else t).pump core x.q.idx := by
  subst ht
  simp only [runMove, h]

theorem runPost_issues (h : s.issuing core isPost = some (x, d)) :
    s.runPost core = ((bitsSet (d.fld 8 7 0)).foldl (fun (u : State) (k : Nat) =>
      if k = core then u.landMsg (.belay k (d.fld 6 15 0) x.n)
      else u.inject (u.station core) (u.station k) (.belay k (d.fld 6 15 0) x.n)) s).issueDone core x d := by
  simp only [runPost, h]

theorem runWait_issues (h : s.issuing core isWait = some (x, d)) :
    s.runWait core = (s.issue core x d { InFlight.plain x.q.idx d [] with waits := true } []).tryWait core x.q.idx := by
  simp only [runWait, h]

end

end State

/-- Settles O35: each row takes the descriptor that `State.issuing` gives it by the lemma of its kind, and of the engines' descriptors only a
MATMUL can pass (`State.issuing_not_passes`). -/
theorem descriptorsIssue : Obligations.DescriptorsIssue := fun _ _ es _ _ =>
  ⟨fun h hp => State.next_coreDone_eq (State.runEngine_issues es h hp),
    fun h hp => State.next_coreDone_eq (State.runEngine_passes es h hp),
    fun h => State.next_coreDone_eq (State.runEngine_issues es h (State.issuing_not_passes h (by decide) (by decide) _)),
    fun h => State.next_coreDone_eq (State.runEngine_issues es h (State.issuing_not_passes h (by decide) (by decide) _)),
    fun h => State.next_coreDone_eq (State.runAttnIssue_issues es h),
    fun h => State.next_coreDone_eq (State.runMove_issues es h rfl),
    fun h => State.next_coreDone_eq (State.runPost_issues h),
    fun h => State.next_coreDone_eq (State.runWait_issues h)⟩

namespace State

section

variable {s : State} {core : Nat} {x : Running} {d : Desc} (es : List RowError)

/-- A REDUCE issues: what the collector's buffer of the contributor holds goes out, the rest waits with it, and a participant that awaits nothing
reports at once (R119 to R123). -/
theorem runReduce_issues {op : Nat} (h : s.issuing core (fun d => d.kind == 6 && d.collOp == op) = some (x, d)) {flits : List (Nat × Bytes)}
    (hf : flits = if 1 < d.members.length ∧ (op ≠ 2 ∨ core = d.fld 7 2 0) then s.contribFlits core d else []) {t u : State}
    (ht : t = (s.issue core x d { InFlight.plain x.q.idx d (d.ownRows core (s.rows core)).writes with
      acks := d.awaits core, waits := decide (1 < d.members.length), send := flits.drop 64 } es).modSeq core
        (fun q => q.collect x.q.idx d (d.ownRows core (s.rows core))))
    (hu : u = (flits.take 64).foldl (fun (v : State) m => v.inject (v.station core) tierStation (.contrib x.n d.collId core m.1 m.2 [])) t) :
    s.runReduce core op es = if d.members.length ≤ 1 then t else if d.awaits core = 0 then u.reportColl core x.n d.collId else u := by
  have hop : d.collOp = op := by
    have hn := issuing_names h
    simp only [Bool.and_eq_true, beq_iff_eq] at hn
    exact hn.2
  have hsends : (if (decide (1 < d.members.length) && (d.collOp != 2 || core == d.fld 7 2 0)) = true then s.contribFlits core d else []) = flits := by
    rw [hf, hop]
    simp only [Bool.and_eq_true, Bool.or_eq_true, decide_eq_true_eq, bne_iff_ne, beq_iff_eq]
  simp only [runReduce, h, hsends]
  by_cases hm : d.members.length ≤ 1
  · rw [ht, if_pos hm, if_pos (by simpa using hm)]
    rfl
  · rw [hu, ht, if_neg hm, if_neg (by simpa using hm)]
    rfl

theorem exec_reduce (s : State) {op : Nat} {c : Instr}
    (h : (op, c) ∈ [(0, .reduceAllReduce core es), (1, .reduceAllGather core es), (2, .reduceBroadcast core es)]) :
    exec c s = .next (s.coreDone (s.runReduce core op es)) := by
  simp only [List.mem_cons, Prod.mk.injEq, List.not_mem_nil, or_false] at h
  obtain ⟨rfl, rfl⟩ | ⟨rfl, rfl⟩ | ⟨rfl, rfl⟩ := h <;> rfl

/-- The CHECKs whose digest travels to another core, or comes from one (R91). -/
theorem exec_awaitingCheck (s : State) {m : Nat} {c : Instr}
    (h : (m, c) ∈ [(1, .checkSend core es), (2, .checkReceive core es), (3, .checkShadow core es)]) :
    exec c s = .next (s.coreDone (s.runCheck core m es)) := by
  simp only [List.mem_cons, Prod.mk.injEq, List.not_mem_nil, or_false] at h
  obtain ⟨rfl, rfl⟩ | ⟨rfl, rfl⟩ | ⟨rfl, rfl⟩ := h <;> rfl

theorem runCheck_passes {m : Nat} (h : s.issuing core (fun d => d.kind == 7 && d.checkMode == m) = some (x, d)) (hp : passes d x.r.level = true) :
    s.runCheck core m es = s.issueDone core x d := by
  simp only [runCheck, h, hp, if_true]

theorem runCheck_compare (h : s.issuing core (fun d => d.kind == 7 && d.checkMode == 0) = some (x, d)) (hp : passes d x.r.level = false) :
    s.runCheck core 0 es =
      if s.checkDigest core x (InFlight.plain x.q.idx d []) = streamLe (s.rows core) (d.region 12).first 0 8 then
        s.issue core x d (InFlight.plain x.q.idx d []) es
      else (s.issue core x d (InFlight.plain x.q.idx d []) es).checkFault core x x.q.idx d [core] := by
  simp only [runCheck, h, hp, Bool.false_eq_true, if_false]

theorem runCheck_send (h : s.issuing core (fun d => d.kind == 7 && d.checkMode == 1) = some (x, d)) (hp : passes d x.r.level = false) {t : State}
    (ht : t = s.issue core x d { InFlight.plain x.q.idx d [] with waits := true } es) :
    s.runCheck core 1 es =
      t.inject (t.station core) (t.station (d.fld 5 2 0)) (.digest (d.fld 5 2 0) d.slot (s.checkDigest core x (InFlight.plain x.q.idx d [])) core x.q.idx) := by
  simp only [runCheck, h, hp, Bool.false_eq_true, if_false, ht]

theorem runCheck_receive (h : s.issuing core (fun d => d.kind == 7 && d.checkMode == 2) = some (x, d)) (hp : passes d x.r.level = false) :
    s.runCheck core 2 es = (s.issue core x d { InFlight.plain x.q.idx d [] with waits := true } es).takeDigest core x.q.idx := by
  simp only [runCheck, h, hp, Bool.false_eq_true, if_false]

theorem runCheck_shadow (h : s.issuing core (fun d => d.kind == 7 && d.checkMode == 3) = some (x, d)) (hp : passes d x.r.level = false) :
    s.runCheck core 3 es = (s.issue core x d { InFlight.plain x.q.idx d [] with
      writes := (runMatmul ((x.img.stream core).getD (d.fld 16 31 0) 0) x.q.batch (s.rows core)).writes, waits := true } es).takeDigest core x.q.idx := by
  simp only [runCheck, h, hp, Bool.false_eq_true, if_false]

end

end State

/-- Settles O36: the three operations of REDUCE share `State.runReduce_issues`, and a CHECK above the level in force passes whatever its mode
(`State.runCheck_passes`), or issues by the lemma of its mode. -/
theorem reduceAndCheckIssue : Obligations.ReduceAndCheckIssue := by
  refine fun s core es x d => ⟨fun op c hc h => ?_, fun h hp => ?_, fun h hp => ?_, fun m c hc h hp => ?_, fun h hp => ⟨_, rfl, ?_⟩, fun h hp => ?_,
    fun h hp => ?_⟩
  · rw [State.exec_reduce es s hc, State.runReduce_issues es h rfl rfl rfl]
  · exact State.next_coreDone_eq (State.runCheck_compare es h hp)
  · exact State.next_coreDone_eq (State.runCheck_passes es h hp)
  · rw [State.exec_awaitingCheck es s hc, State.runCheck_passes es h hp]
  · exact State.next_coreDone_eq (State.runCheck_send es h hp rfl)
  · exact State.next_coreDone_eq (State.runCheck_receive es h hp)
  · exact State.next_coreDone_eq (State.runCheck_shadow es h hp)

end Sys2Proof.Machine

/- Tokens, digests and completions. -/

namespace Sys2Proof.Machine

namespace State

/-- An increment of a token other than the start token raises its counter, and the WAIT in flight for it looks again (R149, R150). -/
theorem belayLands_counts {s u : State} {core token : Nat} {x : Running} {m : Msg} {r : Rope} (hx : s.current core = some x)
    (hm : s.rope.takeLanded (Msg.isBelay x.img core (x.img.sourceOf token)) = some (m, r)) (ht : m.token = some token) (h0 : token ≠ 0)
    (hu : u = ({ s with rope := r } : State).modLc core (fun l => { l with
      counters := AList.count l.counters (x.counter core token) (AList.getD l.counters (x.counter core token) 0 + 1) })) :
    s.belayLands core token =
      (x.q.inflight.find? (fun f => isWait f.desc && f.desc.fld 6 15 0 == token)).elim u (fun f => u.tryWait core f.idx) := by
  simp only [belayLands, hx, hm, ht, ne_eq, not_true_eq_false, if_false, h0, ← hu]
  cases x.q.inflight.find? (fun f => isWait f.desc && f.desc.fld 6 15 0 == token) <;> rfl

/-- The start token starts the core's stream (R151). -/
theorem belayLands_starts {s : State} {core : Nat} {x : Running} {m : Msg} {r : Rope} (hx : s.current core = some x)
    (hm : s.rope.takeLanded (Msg.isBelay x.img core (x.img.sourceOf 0)) = some (m, r)) (ht : m.token = some 0) :
    s.belayLands core 0 = ({ s with rope := r } : State).modSeq core (fun q => { q with started := true }) := by
  simp only [belayLands, hx, hm, ht, ne_eq, not_true_eq_false, if_false, if_true]

/-- A digest lands in an empty slot and ends its SEND, and a CHECK that waits for the slot takes it and ends (R91). -/
theorem fillSlot_lands {s u : State} {core slot dst sl v frm desc : Nat} {r : Rope} (he : AList.has (s.lc core).slots slot = false)
    (hm : s.rope.takeLanded (Msg.isDigest core slot) = some (.digest dst sl v frm desc, r))
    (hu : u = (({ s with rope := r } : State).modLc core (fun l => { l with slots := l.slots.set slot (frm * 2 ^ 64 + v) })).finishDesc frm desc) :
    s.fillSlot core slot =
      ((u.lc core).seqr.bind (fun q => q.inflight.find? (fun f => isTake f.desc && f.waits && f.desc.slot == slot))).elim u
        (fun f => (u.takeDigest core f.idx).finishDesc core f.idx) := by
  simp only [fillSlot, he, Bool.false_eq_true, if_false, hm, ← hu]
  cases (u.lc core).seqr.bind (fun q => q.inflight.find? (fun f => isTake f.desc && f.waits && f.desc.slot == slot)) <;> rfl

theorem completeDesc_ends {s : State} {core idx : Nat} {x : Running} {f : InFlight} (hx : s.current core = some x) (hf : s.flight core idx = some f)
    (hr : s.running = true) (hc : (s.carrier core).isSome = true) (hh : (s.scratch core).halted = false) (he : f.mayEnd x.q = true) :
    s.completeDesc core idx = ((if f.desc.kind = 3 then s.formAttn core idx x f.desc else s).finishDesc core idx).wakeAll := by
  simp [completeDesc, hx, hf, hr, Option.isSome_iff_ne_none.mp hc, hh, he]

end State

/-- Settles O37: an increment ends in `State.belayLands_counts` or `State.belayLands_starts`, a digest in `State.fillSlot_lands`, and each hypothesis
on a waiting descriptor picks the outcome. -/
theorem tokensAndCompletions : Obligations.TokensAndCompletions := by
  refine ⟨fun s core token x m r hx hm ht h0 hw => State.next_coreDone_eq ?_, fun s core token x m r f hx hm ht h0 hw => State.next_coreDone_eq ?_,
    fun s core x m r hx hm ht => State.next_coreDone_eq (State.belayLands_starts hx hm ht),
    fun s u core slot dst sl v frm desc r he hm hu hw => State.next_coreDone_eq ?_,
    fun s u core slot dst sl v frm desc r f he hm hu hw => State.next_coreDone_eq ?_,
    fun s core idx x f hx hf hr hc hh he => State.next_coreDone_eq (State.completeDesc_ends hx hf hr hc hh he)⟩
  · rw [State.belayLands_counts hx hm ht h0 rfl, hw]
    rfl
  · rw [State.belayLands_counts hx hm ht h0 rfl, hw]
    rfl
  · rw [State.fillSlot_lands he hm hu, hw]
    rfl
  · rw [State.fillSlot_lands he hm hu, hw]
    rfl

end Sys2Proof.Machine

/- Faults that stop a step. -/

namespace Sys2Proof.Machine

namespace State

theorem reportFault_stops {s : State} {core : Nat} {x : Running} {f : FaultRec} (hx : s.current core = some x) (hf : x.q.fault = some f)
    (hr : s.running = true) (ho : s.coreOut 1 = false) (hst : x.r.stage = .running) (hd : s.drained core = true) :
    s.reportFault core = s.faultStep x.n f := by
  simp [reportFault, hx, hf, hr, ho, hst, hd]

/-- A core whose unit has held an operation too long is halted, faults its descriptor, and the spare is asked for (R441, R442). -/
theorem stopCore_halts {s : State} {core p : Nat} {x : Running} {f : InFlight} (hx : s.current core = some x) (hc : s.carrier core = some p)
    (hf : x.q.inflight.find? InFlight.internal = some f) (hr : s.running = true) (hh : (s.pcr p).halted = false) :
    s.stopCore core =
      ((s.modPc p (fun c => { c with halted := true, coreFaults := lastDay c.coreFaults s.boot.timer ++ [s.boot.timer] })).raise core
        (descFault core f.idx f.desc 5 stCoreFail)).orderSpare core p 3 := by
  simp [stopCore, hx, hc, hf, hr, hh]

/-- The sequencers of some cores issue nothing more. -/
def stopCores (s : State) (l : List Nat) : State := l.foldl (fun (u : State) (c : Nat) => u.modSeq c (fun q => { q with stopped := true })) s

theorem faultStep_eq {s : State} {n : Nat} {r : StepRec} (h : s.step? n = some r) (f : FaultRec) :
    s.faultStep n f =
      (s.modStep n (fun y => { y with stage := .faulting, fault := if y.fault.isSome then y.fault else some f })).stopCores r.cores := by
  simp only [faultStep, h]
  rfl

theorem stopCores_steps (l : List Nat) (s : State) : (s.stopCores l).steps = s.steps := by
  induction l generalizing s with
  | nil => rfl
  | cons c l ih => exact ih _

theorem step?_stopCores (s : State) (l : List Nat) (n : Nat) : (s.stopCores l).step? n = s.step? n := by
  unfold step?
  rw [stopCores_steps]

/-- Stopping cores changes a sequencer in that flag alone, and sets it for the cores named. -/
theorem stopCores_seqr {core : Nat} (l : List Nat) {s : State} (h : core < s.lcores.length) :
    ((s.stopCores l).lc core).seqr = (s.lc core).seqr.map (fun q => { q with stopped := q.stopped || decide (core ∈ l) }) := by
  induction l generalizing s with
  | nil => simp [stopCores]
  | cons c l ih =>
    have hstep := ih (s := s.modSeq c (fun q => { q with stopped := true })) (by simpa [modSeq] using h)
    refine hstep.trans ?_
    unfold modSeq
    by_cases hc : core = c
    · subst hc
      rw [lc_modLc_self _ _ h]
      simp [Function.comp_def]
    · rw [lc_modLc_ne _ _ hc]
      simp [hc]

theorem faultStep_seqr {s : State} {n core : Nat} {r : StepRec} {q : Seqr} (h : s.step? n = some r) (hc : core ∈ r.cores)
    (hl : core < s.lcores.length) (hq : (s.lc core).seqr = some q) (f : FaultRec) :
    ((s.faultStep n f).lc core).seqr = some { q with stopped := true } := by
  have hlc (g : StepRec → StepRec) : (s.modStep n g).lc core = s.lc core := rfl
  rw [faultStep_eq h, stopCores_seqr r.cores (by simpa using hl), hlc, hq]
  simp [hc]

end State

/-- Settles O39: a fault leaves its step faulting with the first fault that was found, and each of its cores stopped (`State.stopCores_seqr`). -/
theorem faultsStop : Obligations.FaultsStop := by
  refine ⟨fun s core x f hx hf hr ho hst hd => State.next_coreDone_eq (State.reportFault_stops hx hf hr ho hst hd),
    fun s core p x f hx hc hf hr hh => State.next_coreDone_eq (State.stopCore_halts hx hc hf hr hh),
    fun s n r f h => ⟨{ r with stage := .faulting, fault := if r.fault.isSome then r.fault else some f }, ?_, rfl, ?_⟩,
    fun s n core r f q h hc hl hq => ⟨_, State.faultStep_seqr h hc hl hq f, rfl, rfl, rfl⟩⟩
  · rw [State.faultStep_eq h, State.step?_stopCores, State.step?_modStep_self, h]
    rfl
  · cases r.fault <;> rfl

end Sys2Proof.Machine

/- Switches to the spare core (R96 to R98). -/

namespace Sys2Proof.Machine

/-- A row that awaits scrub since its run was marked reads zero (R107). -/
theorem PCore.row_markScrub_of_mem (p : PCore) {first n r : Nat} (hlo : first ≤ r) (hhi : r < first + n) : (p.markScrub first n).row r = 0 := by
  have hn : n ≠ 0 := by omega
  have hmarked : Ranges.has (p.markScrub first n).scrub r = true := by
    simp [markScrub, Ranges.addRun, hn, Ranges.has, hlo, hhi]
  simp [row, hmarked]

namespace State

/-- A switch under way: the old carrier only forwards, and the spare core's rows await scrub (R96 events 2 to 4). -/
def switching (s : State) (c p : Nat) : State :=
  (({ s with sparing := { s.sparing with busy := some c, wanted := none } } : State).modPc p
    (fun y => { y with halted := true, forwardOnly := true })).modPc 8
      (fun y => { (y.markScrub 0 scratchRows) with forwardOnly := false, lastCtx := none })

theorem switching_steps (s : State) (c p : Nat) : (s.switching c p).steps = s.steps := rfl

theorem startSwitch_begins {s : State} {c p : Nat} (hw : s.sparing.wanted = some c) (hr : s.running = true) (h1 : s.coreOut 1 = false)
    (h2 : s.coreOut 2 = false) (hu : s.sparing.usable = true) (hd : (s.pcr 8).dom = 0) (ht : (s.pcr 8).testing = false) (h8 : s.carried 8 = none)
    (hl : s.lcoreUsed c = false) (hc : s.carrier c = some p) (hp : (s.pcr p).testing = false) : s.startSwitch c = s.switching c p := by
  simp [startSwitch, switching, hw, hr, h1, h2, hu, hd, ht, h8, hl, hc, hp]

theorem switching_pcr {s : State} {p : Nat} (hp : p < 8) (hlen : s.pcores.length = 9) (c : Nat) :
    (s.switching c p).pcr p = { s.pcr p with halted := true, forwardOnly := true } ∧
      (s.switching c p).pcr 8 = { ((s.pcr 8).markScrub 0 scratchRows) with forwardOnly := false, lastCtx := none } ∧
      ∀ q, q ≠ p → q ≠ 8 → (s.switching c p).pcr q = s.pcr q := by
  refine ⟨?_, ?_, fun q hq h8 => ?_⟩ <;> unfold switching
  · rw [pcr_modPc_ne _ _ (by omega), pcr_modPc_self _ _ (by simp [hlen]; omega)]
    rfl
  · rw [pcr_modPc_self _ _ (by simp [hlen]), pcr_modPc_ne _ _ (by omega)]
    rfl
  · rw [pcr_modPc_ne _ _ h8, pcr_modPc_ne _ _ hq]
    rfl

/-- Copying a region writes rows of the spare core or marks the region lost in its context. -/
theorem copyRegion_eq (s : State) (old : Option Nat) (lost : List Nat) (ctx key : Nat) (r : Resident) :
    s.copyRegion old lost ctx key r =
      { s with ctxs := (s.copyRegion old lost ctx key r).ctxs, pcores := (s.copyRegion old lost ctx key r).pcores } := by
  unfold copyRegion
  split
  · dsimp only
    split <;> rfl
  · rfl

/-- The resident regions of a logical core, each with its context. -/
def regionsOf (s : State) (c : Nat) : List (Nat × Nat × Resident) :=
  s.ctxs.flatMap (fun x => (x.2.residents.filter (fun r => r.1 / 65536 == c)).map (fun r => (x.1, r)))

/-- Regions copied to the spare core, one after the other. -/
def copyRegions (s : State) (old : Option Nat) (lost : List Nat) (l : List (Nat × Nat × Resident)) : State :=
  l.foldl (fun (u : State) (x : Nat × Nat × Resident) => u.copyRegion old lost x.1 x.2.1 x.2.2) s

theorem copyRegions_eq (s : State) (old : Option Nat) (lost : List Nat) (l : List (Nat × Nat × Resident)) :
    s.copyRegions old lost l = { s with ctxs := (s.copyRegions old lost l).ctxs, pcores := (s.copyRegions old lost l).pcores } := by
  refine List.foldlRecOn l _ (motive := fun u : State => u = { s with ctxs := u.ctxs, pcores := u.pcores }) rfl (fun u hu x _ => ?_)
  rw [copyRegion_eq, hu]

/-- A state whose copies to the spare core are done: the spare carries the logical core, the old carrier is out of service, and the service record
holds the switch (R96 events 5 and 6, R98). -/
def spareCarries (s : State) (c p : Nat) : State :=
  let t := (s.modPc p (fun y => { y with outOfService := true })).modLc c (fun l => { l with carrier := 8 })
  { t with
    sparing := { s.sparing with busy := none, retired := BitVec.ofNat 4 p }
    nv := { s.nv with switched := some (c, p), carrierless := s.nv.carrierless.filter (· != c) } }

theorem endSwitch_ends {s : State} {c p : Nat} (hb : s.sparing.busy = some c) (hr : s.running = true) (h1 : s.coreOut 1 = false)
    (h2 : s.coreOut 2 = false) (hc : s.carrier c = some p) (lost : List Nat) :
    s.endSwitch c lost = ((s.copyRegions (some p) lost (s.regionsOf c)).spareCarries c p).logPf (mkLog 0x0012 [(0, c), (4, 8)]) := by
  have hgo : ¬(s.sparing.busy ≠ some c ∨ !s.running ∨ s.coreOut 1 ∨ s.coreOut 2) := by simp [hb, hr, h1, h2]
  simp only [endSwitch, if_neg hgo, hc]
  rfl

/-- What the end of a switch leaves alone, and what it leaves of the cores, the switch and the service record: its copies change contexts and
scratchpads, and its log entry the parts that an entry can change. -/
theorem endSwitch_leaves {s : State} {c p : Nat} (hb : s.sparing.busy = some c) (hr : s.running = true) (h1 : s.coreOut 1 = false)
    (h2 : s.coreOut 2 = false) (hc : s.carrier c = some p) (lost : List Nat) :
    (s.endSwitch c lost).lcores = s.lcores.modify c (fun l => { l with carrier := 8 }) ∧
      (s.endSwitch c lost).sparing = { s.sparing with busy := none, retired := BitVec.ofNat 4 p } ∧
      (s.endSwitch c lost).nv.switched = some (c, p) ∧ (s.endSwitch c lost).steps = s.steps ∧ (s.endSwitch c lost).dram = s.dram := by
  rw [endSwitch_ends hb hr h1 h2 hc, State.logPf, (posts_logTo _ _ _).eq, copyRegions_eq]
  exact ⟨rfl, rfl, rfl, rfl, rfl⟩

/-- A logical core that the spare core comes to carry, and the others. -/
theorem carrier_of_lcores {s t : State} {c : Nat} (h : t.lcores = s.lcores.modify c (fun l => { l with carrier := 8 })) (hl : c < s.lcores.length) :
    t.carrier c = some 8 ∧ ∀ k, k ≠ c → t.carrier k = s.carrier k := by
  have hlc (k : Nat) : t.lc k = (s.modLc c (fun l => { l with carrier := 8 })).lc k := congrArg (fun l : List LCore => l.getD k (LCore.fresh k)) h
  refine ⟨?_, fun k hk => carrier_congr ?_⟩
  · unfold carrier
    rw [hlc, lc_modLc_self _ _ hl]
    rfl
  · rw [hlc, lc_modLc_ne _ _ hk]

end State

/-- Settles O40: a switch begins in `State.switching` and ends as `State.endSwitch_leaves` says; without a faulting step nothing else follows
(`State.coreDone_of_calm`). -/
theorem spareSwitches : Obligations.SpareSwitches := by
  refine ⟨fun s c p hcalm hw hr h1 h2 hu hd ht h8 hl hc hp _ hlen htp => ⟨s.coreRow (s.switching c p), ?_, rfl, ?_⟩,
    fun s c p lost hcalm hb hr h1 h2 hc _ hl => ⟨s.coreRow (s.endSwitch c lost), ?_, ?_⟩⟩
  · show (.next (s.coreDone (s.startSwitch c)) : Result) = _
    rw [State.startSwitch_begins hw hr h1 h2 hu hd ht h8 hl hc htp, State.coreDone_of_calm hcalm (s.switching_steps c p)]
  · obtain ⟨hold, hspare, hother⟩ := State.switching_pcr hp hlen c
    have hpcr (q : Nat) : (s.coreRow (s.switching c p)).pcr q = (s.switching c p).pcr q := rfl
    rw [hpcr, hold, hpcr, hspare]
    exact ⟨rfl, rfl, rfl, fun r hrow => PCore.row_markScrub_of_mem (s.pcr 8) (Nat.zero_le r) (hrow.trans_eq (Nat.zero_add _).symm), rfl, hother⟩
  · obtain ⟨-, -, -, hsteps, -⟩ := State.endSwitch_leaves hb hr h1 h2 hc lost
    show (.next (s.coreDone (s.endSwitch c lost)) : Result) = _
    rw [State.coreDone_of_calm hcalm hsteps]
  · obtain ⟨hlcores, hsparing, hswitched, -, hdram⟩ := State.endSwitch_leaves hb hr h1 h2 hc lost
    obtain ⟨hnew, hothers⟩ := State.carrier_of_lcores (t := s.coreRow (s.endSwitch c lost)) hlcores hl
    exact ⟨hnew, congrArg Sparing.busy hsparing, congrArg Sparing.retired hsparing, hswitched, hothers, hdram⟩

end Sys2Proof.Machine

/- Scratchpad rows that await scrub (R39, R104, R105, R107). -/

namespace Sys2Proof

/- Little-endian numbers and their bytes (R39). -/

theorem fixLen_length (n : Nat) (b : Bytes) : (fixLen n b).length = n := by
  simp only [fixLen, List.length_append, List.length_take, List.length_replicate]
  omega

theorem leAt_cons_succ (a : Byte) (b : Bytes) (off n : Nat) : leAt (a :: b) (off + 1) n = leAt b off n := by
  induction n generalizing off with
  | zero => rfl
  | succ n ih => simp only [leAt, List.getD_cons_succ, ih]

theorem leAt_of_zeros {b : Bytes} (h : ∀ i, b.getD i 0#8 = 0#8) (off n : Nat) : leAt b off n = 0 := by
  induction n generalizing off with
  | zero => rfl
  | succ n ih =>
    rw [leAt, h, ih]
    rfl

theorem leAt_toLe (x n : Nat) : leAt (toLe x n) 0 n = x % 2 ^ (8 * n) := by
  induction n generalizing x with
  | zero => simp [leAt, Nat.mod_one]
  | succ n ih =>
    calc leAt (toLe x (n + 1)) 0 (n + 1)
        = x % 256 + 256 * leAt (toLe (x / 256) n) 0 n := by simp [leAt, toLe, leAt_cons_succ]
      _ = x % (256 * 2 ^ (8 * n)) := by rw [ih, Nat.mod_mul]
      _ = x % 2 ^ (8 * (n + 1)) := by rw [Nat.mul_succ, Nat.pow_add, Nat.mul_comm]

theorem toLe_leAt (b : Bytes) : toLe (leAt b 0 b.length) b.length = b := by
  induction b with
  | nil => rfl
  | cons a b ih =>
    have hle : leAt (a :: b) 0 (b.length + 1) = a.toNat + 256 * leAt b 0 b.length := by simp [leAt, leAt_cons_succ]
    have ha := a.isLt
    rw [List.length_cons, hle, toLe]
    congr 1
    · apply BitVec.eq_of_toNat_eq
      rw [BitVec.toNat_ofNat]
      omega
    · rw [show (a.toNat + 256 * leAt b 0 b.length) / 256 = leAt b 0 b.length by omega, ih]

namespace Machine

/- Membership in a set of ranges after each operation on it. -/

namespace Ranges

theorem has_nil (x : Nat) : has [] x = false := rfl

theorem has_cons (a n : Nat) (r : Ranges) (x : Nat) : has ((a, n) :: r) x = (decide (a ≤ x ∧ x < a + n) || has r x) := by
  simp [has]

theorem has_append (r k : Ranges) (x : Nat) : has (r ++ k) x = (has r x || has k x) := List.any_append

/-- A run that is listed only when it is not empty. -/
theorem has_run {c : Prop} [Decidable c] {a n : Nat} (h : c ↔ 0 < n) (x : Nat) :
    has (if c then [(a, n)] else []) x = decide (a ≤ x ∧ x < a + n) := by
  by_cases hn : 0 < n
  · rw [if_pos (h.mpr hn), has_cons, has_nil, Bool.or_false]
  · rw [if_neg (mt h.mp hn), has_nil, eq_comm, decide_eq_false_iff_not]
    omega

theorem has_removeRun (r : Ranges) (x k y : Nat) : has (removeRun r x k) y = (has r y && !decide (x ≤ y ∧ y < x + k)) := by
  induction r with
  | nil => rfl
  | cons p r ih =>
    obtain ⟨a, n⟩ := p
    rw [removeRun, has_append, has_append, has_run (by omega), has_run (by omega), has_cons, ih, Bool.and_or_distrib_right]
    congr 1
    rw [Bool.eq_iff_iff]
    simp only [Bool.or_eq_true, Bool.and_eq_true, Bool.not_eq_true', decide_eq_true_eq, decide_eq_false_iff_not]
    omega

theorem has_remove (r : Ranges) (x y : Nat) : has (remove r x) y = (has r y && y != x) := by
  induction r with
  | nil => rfl
  | cons p r ih =>
    obtain ⟨a, n⟩ := p
    rw [remove, has_cons, Bool.and_or_distrib_right, ← ih]
    split
    · rw [has_append, has_append, has_run (by omega), has_run (by omega)]
      congr 1
      rw [Bool.eq_iff_iff]
      simp only [Bool.or_eq_true, Bool.and_eq_true, decide_eq_true_eq, bne_iff_ne]
      omega
    · rw [has_cons]
      congr 1
      rw [Bool.eq_iff_iff]
      simp only [Bool.and_eq_true, decide_eq_true_eq, bne_iff_ne]
      omega

theorem has_addRun (r : Ranges) (x k y : Nat) : has (addRun r x k) y = (has r y || decide (x ≤ y ∧ y < x + k)) := by
  unfold addRun
  split
  · next hk => rw [decide_eq_false (by omega), Bool.or_false]
  · rw [has_append, has_removeRun, has_cons, has_nil, Bool.or_false]
    cases decide (x ≤ y ∧ y < x + k) <;> simp

end Ranges

/- What a memory reads after a run of it has been written or cleared. -/

theorem Mem.readN_write_self (m : Mem) (a : Nat) (b : Bytes) : (m.write a b).readN a b.length = b := by
  rw [Mem.readN_eq]
  refine List.ext_getElem (by simp) (fun i _ hi => ?_)
  simp [Mem.read_write, hi]

namespace PCore

variable {p t : PCore} {r q : Nat}

/-- A row that awaits scrub reads zero (R107). -/
theorem row_of_scrub (h : Ranges.has p.scrub r = true) : p.row r = 0 := if_pos h

theorem row_of_not_scrub (h : Ranges.has p.scrub r = false) : p.row r = leAt (p.mem.readN (r * 512) 512) 0 512 := by
  simp [row, h]

/-- A row is what the list of rows that await scrub and its own bytes say. -/
theorem row_congr (hs : Ranges.has t.scrub q = Ranges.has p.scrub q) (hm : ∀ i < 512, t.mem.read (q * 512 + i) = p.mem.read (q * 512 + i)) :
    t.row q = p.row q := by
  rw [row, row, hs, Mem.readN_congr hm]

theorem row_writeRow (p : PCore) (r q : Nat) (b : Bytes) :
    (p.writeRow r b).row q = if q = r then leAt (fixLen 512 b) 0 512 else p.row q := by
  have hscrub : Ranges.has (p.writeRow r b).scrub q = (Ranges.has p.scrub q && q != r) := Ranges.has_remove _ _ _
  split
  · next h =>
    subst h
    have hread := Mem.readN_write_self p.mem (q * 512) (fixLen 512 b)
    rw [fixLen_length] at hread
    rw [row_of_not_scrub (by simp [hscrub])]
    exact congrArg (leAt · 0 512) hread
  · next h =>
    refine row_congr (by simp [hscrub, h]) (fun i hi => ?_)
    rw [writeRow, Mem.read_write, fixLen_length, if_neg (by omega)]

/-- A narrow write of a row that awaits scrub first makes the row zero (R105). -/
theorem writeWord_of_scrub (h : Ranges.has p.scrub r = true) (w : Nat) (b : Bytes) :
    p.writeWord r w b =
      { p with mem := (p.mem.clear (r * 512) 512).write (r * 512 + 8 * w) (fixLen 8 b), scrub := Ranges.remove p.scrub r } := by
  simp [writeWord, h]

theorem scrubRow_of_scrub (h : Ranges.has p.scrub r = true) :
    p.scrubRow r = { p with mem := p.mem.clear (r * 512) 512, scrub := Ranges.remove p.scrub r } := if_pos h

theorem read_writeWord {w i : Nat} (hw : w < 64) (hi : i < 512) (h : Ranges.has p.scrub r = true) (b : Bytes) :
    (p.writeWord r w b).mem.read (q * 512 + i) =
      if q = r then (if 8 * w ≤ i ∧ i < 8 * w + 8 then (fixLen 8 b).getD (i - 8 * w) 0#8 else 0#8) else p.mem.read (q * 512 + i) := by
  rw [writeWord_of_scrub h, Mem.read_write, Mem.read_clear, fixLen_length]
  by_cases hq : q = r
  · subst hq
    rw [if_pos rfl, if_pos (c := q * 512 ≤ _ ∧ _) (by omega)]
    refine if_congr (by omega) ?_ rfl
    rw [Nat.add_sub_add_left]
    rfl
  · rw [if_neg hq, if_neg (by omega), if_neg (by omega)]

theorem row_scrubRow (h : Ranges.has p.scrub r = true) (q : Nat) : (p.scrubRow r).row q = if q = r then 0 else p.row q := by
  rw [scrubRow_of_scrub h]
  split
  · next hq =>
    subst hq
    rw [row_of_not_scrub (by simp [Ranges.has_remove])]
    refine leAt_of_zeros (fun i => ?_) _ _
    rw [Mem.readN_eq]
    by_cases hi : i < 512
    · simp [hi, Mem.read_clear, Mem.blank]
    · simp [hi]
  · next hq =>
    refine row_congr (by simp [Ranges.has_remove, hq]) (fun i hi => ?_)
    rw [Mem.read_clear, if_neg (by omega)]

theorem scrub_markScrub (p : PCore) (r n q : Nat) :
    Ranges.has (p.markScrub r n).scrub q = (Ranges.has p.scrub q || decide (r ≤ q ∧ q < r + n)) := Ranges.has_addRun _ _ _ _

theorem row_markScrub (p : PCore) (r n q : Nat) : (p.markScrub r n).row q = if r ≤ q ∧ q < r + n then 0 else p.row q := by
  split
  · next h => exact row_markScrub_of_mem p h.1 h.2
  · next h => exact row_congr (by simp [scrub_markScrub, h]) (fun _ _ => rfl)

end PCore

/-- Settles O32: each write changes the bytes of its row and takes the row out of the ranges that await scrub (`Ranges.has_remove`), and bytes and
numbers agree by `leAt_toLe` and `toLe_leAt`. -/
theorem scrubPendingRows : Obligations.ScrubPendingRows :=
  ⟨fun _ _ h => PCore.row_of_scrub h, fun p r q b => PCore.row_writeRow p r q b,
    fun p r w q i b hw hi h => ⟨PCore.read_writeWord hw hi h b, by rw [PCore.writeWord_of_scrub h, Ranges.has_remove]⟩,
    fun p r q h => ⟨PCore.row_scrubRow h q, by rw [PCore.scrubRow_of_scrub h, Ranges.has_remove]⟩, fun p r n q => PCore.row_markScrub p r n q,
    leAt_toLe, fun b n h => by rw [← h, toLe_leAt]⟩

end Machine

end Sys2Proof

/- Gating of cores and the scrub of rows that lie in no resident region (R107, R459, R462). -/

namespace Sys2Proof.Machine

theorem Ranges.has_foldl_removeRun (r : Ranges) (acc : Ranges) (x : Nat) :
    has (r.foldl (fun acc p => removeRun acc p.1 p.2) acc) x = (has acc x && !has r x) := by
  induction r generalizing acc with
  | nil => simp [has_nil]
  | cons p r ih => rw [List.foldl_cons, ih, has_removeRun, has_cons, Bool.not_or, Bool.and_assoc]

theorem Ranges.has_compl (r : Ranges) (top x : Nat) : has (compl r top) x = (decide (x < top) && !has r x) := by
  rw [compl, has_foldl_removeRun, has_cons, has_nil]
  simp

namespace PCore

/-- A physical core with every row of some ranges marked. -/
def markScrubs (p : PCore) (rows : Ranges) : PCore := rows.foldl (fun (y : PCore) r => y.markScrub r.1 r.2) p

theorem markScrubs_eq (rows : Ranges) (p : PCore) : p.markScrubs rows = { p with scrub := (p.markScrubs rows).scrub } :=
  List.foldlRecOn rows _ (motive := fun y : PCore => y = { p with scrub := y.scrub }) rfl (fun y hy r _ => by rw [markScrub, hy])

theorem scrub_markScrubs (rows : Ranges) (p : PCore) (r : Nat) :
    Ranges.has (p.markScrubs rows).scrub r = (Ranges.has p.scrub r || Ranges.has rows r) := by
  induction rows generalizing p with
  | nil => exact (Bool.or_false _).symm
  | cons x rows ih => exact (ih _).trans (by rw [scrub_markScrub, Ranges.has_cons, Bool.or_assoc])

end PCore

namespace State

variable {s : State} {p q r : Nat}

theorem scrubOthers_eq (s : State) (p : Nat) :
    s.scrubOthers p = s.modPc p (fun x => x.markScrubs (Ranges.compl (s.residentRows p) scratchRows)) := rfl

/-- A core with a field changed whose rows in no resident region then await scrub. -/
def changedAndScrubbed (s : State) (p : Nat) (f : PCore → PCore) : State := (s.modPc p f).scrubOthers p

theorem changedAndScrubbed_pcr (hp : p < s.pcores.length) (f : PCore → PCore) :
    (s.changedAndScrubbed p f).pcr p = (f (s.pcr p)).markScrubs (Ranges.compl (s.residentRows p) scratchRows) := by
  rw [changedAndScrubbed, scrubOthers_eq, pcr_modPc_self _ _ (by simpa using hp), pcr_modPc_self _ _ hp]
  rfl

theorem changedAndScrubbed_pcr_ne (hq : q ≠ p) (f : PCore → PCore) : (s.changedAndScrubbed p f).pcr q = s.pcr q := by
  rw [changedAndScrubbed, scrubOthers_eq, pcr_modPc_ne _ _ hq, pcr_modPc_ne _ _ hq]

theorem changedAndScrubbed_row (hp : p < s.pcores.length) (hr : r < scratchRows) (h : Ranges.has (s.residentRows p) r = false) (f : PCore → PCore) :
    ((s.changedAndScrubbed p f).pcr p).row r = 0 := by
  rw [changedAndScrubbed_pcr hp]
  exact PCore.row_of_scrub (by simp [PCore.scrub_markScrubs, Ranges.has_compl, hr, h])

end State

theorem EvReg.isSet_raise (e : EvReg) (bit now : Nat) : (e.raise bit now).isSet bit = true := by simp [raise, isSet]

/-- Settles O56: each row's conditions hold, and the rows of a core that is on again are those of `State.changedAndScrubbed`. -/
theorem coreGating : Obligations.CoreGating := by
  refine ⟨fun s p hrun ho hp hd ht hu hb hl => if_pos ?_, fun s hrun ho hd ht h8 hb hw => if_pos ?_, fun s p hrun hd => if_pos ⟨hrun, hd⟩,
    fun s p hrun ho hn hd => if_pos ?_, fun s p hrun ho hn hd he => ⟨_, (if_neg ?_).trans (if_pos ?_), rfl, EvReg.isSet_raise _ _ _⟩,
    fun s p hrun hp hd => ⟨_, if_pos ⟨hrun, hd⟩, ?_, fun r hr hres => State.changedAndScrubbed_row hp hr hres _,
      fun q hq => State.changedAndScrubbed_pcr_ne hq _, rfl⟩⟩
  · simp [hrun, ho, hd, ht, hu, hb, hl, hp.ne, (show p < 9 by omega)]
  · simp [hrun, ho, hd, ht, h8, hb, hw, State.coreUsed, State.coreNeeded]
  · simp [hrun, ho, hn, hd]
  · simp [hd]
  · simp [hrun, ho, hn, hd, he]
  · refine (congrArg PCore.dom (State.changedAndScrubbed_pcr hp (fun y => { y with dom := 0 }))).trans ?_
    rw [PCore.markScrubs_eq]

end Sys2Proof.Machine

/- Self-tests of cores and periodic comparisons (R107, R434, R435, R440, R442). -/

namespace Sys2Proof.Machine

namespace State

variable {s : State} {p c : Nat}

theorem Calm.of_steps {t : State} (h : s.Calm) (hs : t.steps = s.steps) : t.Calm := by
  unfold Calm
  rwa [hs]

theorem coreDone_eq_coreRow {t : State} (h : t.Calm) (s : State) : s.coreDone t = s.coreRow t := by
  rw [coreDone, settleFaults_of_calm h]

theorem coreDone_self (h : s.Calm) : s.coreDone s = s := coreDone_eq_coreRow h s

theorem logPf_eq (s : State) (r : LogRec) : s.logPf r = s.postOf (s.logPf r) := (posts_logTo s 0 r).eq

/- The spare core's order (R442). -/

/-- What an order of the spare core can change. -/
theorem orderSpare_leaves (s : State) (core p trigger : Nat) :
    (s.orderSpare core p trigger).pcores = s.pcores ∧ (s.orderSpare core p trigger).steps = s.steps ∧
      (s.orderSpare core p trigger).dram = s.dram ∧ (s.orderSpare core p trigger).boot = s.boot := by
  unfold orderSpare
  dsimp only
  split
  · exact ⟨rfl, rfl, rfl, rfl⟩
  · split
    · exact ⟨rfl, rfl, rfl, rfl⟩
    · rw [logPf_eq]
      split <;> exact ⟨rfl, rfl, rfl, rfl⟩

theorem orderSpare_wanted (hb : s.sparing.busy = none) (hw : s.sparing.wanted = none) (core p trigger : Nat) :
    (s.orderSpare core p trigger).sparing.wanted = if s.sparing.usable = true ∧ s.carried 8 = none then some core else none := by
  unfold orderSpare
  dsimp only
  rw [if_neg (by simp [hb, hw])]
  by_cases hu : s.sparing.usable = true ∧ s.carried 8 = none
  · rw [if_pos ⟨hu.1, hb, hw, hu.2⟩, if_pos hu]
  · rw [if_neg (fun h => hu ⟨h.1, h.2.2.2⟩), if_neg hu, logPf_eq]
    split <;> exact hw

/-- Without a spare core, a core that failed its self-test or was stopped loses its carrier. -/
theorem orderSpare_denied (hb : s.sparing.busy = none) (hw : s.sparing.wanted = none) (hu : s.sparing.usable = false) (hc : c < s.lcores.length)
    {trigger : Nat} (ht : 2 ≤ trigger) (p : Nat) :
    (s.orderSpare c p trigger).carrier c = none ∧ c ∈ (s.orderSpare c p trigger).nv.carrierless := by
  unfold orderSpare
  dsimp only
  rw [if_neg (by simp [hb, hw]), if_neg (by simp [hu]), if_neg (by omega), logPf_eq]
  refine ⟨?_, List.mem_cons_self⟩
  have hlc := lc_modLc_self s (fun l => { l with carrier := 15 }) hc
  unfold carrier
  exact if_pos (congrArg (fun l : LCore => l.carrier.toNat) hlc)

/- The end of a self-test (R440). -/

/-- A core whose self-test has ended: its rows in no resident region await scrub. -/
def tested (s : State) (p : Nat) : State := s.changedAndScrubbed p (fun y => { y with testing := false })

/-- The re-executions that wait for a test of a logical core go on. -/
def katTaken (s : State) (c : Nat) : State :=
  { s with steps := { s.steps with
      list := s.steps.list.map (fun r => if r.2.stage = .waiting then (r.1, { r.2 with kat := r.2.kat.filter (· != c) }) else r) } }

theorem calm_katTaken (h : s.Calm) (c : Nat) : (s.katTaken c).Calm := by
  intro r hr
  obtain ⟨r, hmem, rfl⟩ := List.mem_map.mp hr
  dsimp only
  split <;> exact h r hmem

/-- The state of a tested core once the re-executions that waited for it go on. -/
def katReleased (s : State) (p : Nat) : State := (s.carried p).elim (s.tested p) (fun c => (s.tested p).katTaken c)

/-- The end of a self-test up to the order of the spare core: a failed test leaves a log entry. -/
def afterKat (s : State) (p : Nat) (passes : Bool) : State :=
  let awaited := (s.carried p).any (fun c => s.steps.list.any (fun r => r.2.stage == .waiting && r.2.kat.contains c))
  if passes then s.katReleased p else (s.katReleased p).logPf (mkLog 0x0103 [(0, p), (4, b2n (!awaited))])

theorem endKat_eq (hr : s.running = true) (ho : s.coreOut 1 = false) (ht : (s.pcr p).testing = true) (passes : Bool) :
    s.endKat p passes = (s.carried p).elim (s.afterKat p passes) (fun c =>
      if !passes then (s.afterKat p passes).orderSpare c p 2
      else if s.param 0x0605 0 ≤ (lastDay (s.pcr p).checkFaults s.boot.timer).length then (s.afterKat p passes).orderSpare c p 0
      else s.afterKat p passes) := by
  unfold endKat afterKat katReleased
  simp only [hr, ho, ht, Bool.not_true, Bool.or_self, Bool.false_eq_true, if_false]
  cases s.carried p <;> rfl

/-- What the end of a self-test leaves of the physical cores, the DRAM, the tile's life and the steps, whatever the spare core is asked for. -/
structure KatEnded (s t : State) (p : Nat) : Prop where
  pcores : t.pcores = (s.tested p).pcores
  dram : t.dram = s.dram
  boot : t.boot = s.boot
  calm : s.Calm → t.Calm

theorem KatEnded.orderSpare {t : State} (h : s.KatEnded t p) (c trigger : Nat) : s.KatEnded (t.orderSpare c p trigger) p := by
  obtain ⟨hpcores, hsteps, hdram, hboot⟩ := t.orderSpare_leaves c p trigger
  exact ⟨hpcores.trans h.pcores, hdram.trans h.dram, hboot.trans h.boot, fun hs => (h.calm hs).of_steps hsteps⟩

theorem katReleased_leaves (s : State) (p : Nat) :
    s.KatEnded (s.katReleased p) p ∧ (s.katReleased p).sparing = s.sparing ∧ (s.katReleased p).lcores = s.lcores ∧ (s.katReleased p).fw = s.fw := by
  unfold katReleased
  cases s.carried p with
  | none => exact ⟨⟨rfl, rfl, rfl, fun h => h.of_steps rfl⟩, rfl, rfl, rfl⟩
  | some c => exact ⟨⟨rfl, rfl, rfl, fun h => calm_katTaken (h.of_steps rfl) c⟩, rfl, rfl, rfl⟩

theorem afterKat_leaves (s : State) (p : Nat) (passes : Bool) :
    s.KatEnded (s.afterKat p passes) p ∧ (s.afterKat p passes).sparing = s.sparing ∧ (s.afterKat p passes).lcores = s.lcores := by
  obtain ⟨hk, hsparing, hlcores, -⟩ := s.katReleased_leaves p
  unfold afterKat
  dsimp only
  split
  · exact ⟨hk, hsparing, hlcores⟩
  · rw [logPf_eq]
    exact ⟨⟨hk.pcores, hk.dram, hk.boot, fun h => (hk.calm h).of_steps rfl⟩, hsparing, hlcores⟩

theorem katEnded_endKat (hr : s.running = true) (ho : s.coreOut 1 = false) (ht : (s.pcr p).testing = true) (passes : Bool) :
    s.KatEnded (s.endKat p passes) p := by
  obtain ⟨hk, -, -⟩ := s.afterKat_leaves p passes
  rw [endKat_eq hr ho ht]
  cases s.carried p with
  | none => exact hk
  | some c =>
    simp only [Option.elim_some]
    split
    · exact hk.orderSpare c 2
    · split
      · exact hk.orderSpare c 0
      · exact hk

/-- A test that passes leaves its core in place, as long as its CHECK faults are few (R442). -/
theorem endKat_passes (hr : s.running = true) (ho : s.coreOut 1 = false) (ht : (s.pcr p).testing = true)
    (hfew : (lastDay (s.pcr p).checkFaults s.boot.timer).length < s.param 0x0605 0) :
    (s.endKat p true).fw = s.fw ∧ (s.endKat p true).sparing = s.sparing ∧ (s.endKat p true).lcores = s.lcores := by
  obtain ⟨-, hsparing, hlcores, hfw⟩ := s.katReleased_leaves p
  have he : s.endKat p true = s.katReleased p := by
    rw [endKat_eq hr ho ht]
    cases s.carried p with
    | none => rfl
    | some c => exact if_neg (Nat.not_le.mpr hfew)
  rw [he]
  exact ⟨hfw, hsparing, hlcores⟩

/-- A test that fails asks for the spare core, and leaves its core without a carrier when there is none (R442). -/
theorem endKat_fails (hr : s.running = true) (ho : s.coreOut 1 = false) (ht : (s.pcr p).testing = true) (hc : s.carried p = some c)
    (hl : c < s.lcores.length) (hb : s.sparing.busy = none) (hw : s.sparing.wanted = none) :
    (s.endKat p false).sparing.wanted = (if s.sparing.usable = true ∧ s.carried 8 = none then some c else none) ∧
      (s.sparing.usable = false → (s.endKat p false).carrier c = none ∧ c ∈ (s.endKat p false).nv.carrierless) := by
  obtain ⟨-, hsparing, hlcores⟩ := s.afterKat_leaves p false
  have he : s.endKat p false = (s.afterKat p false).orderSpare c p 2 := by
    rw [endKat_eq hr ho ht, hc]
    rfl
  have h8 : (s.afterKat p false).carried 8 = s.carried 8 := by
    unfold carried lc
    rw [hlcores]
  rw [he, ← h8, ← hsparing]
  rw [← hsparing] at hb hw
  rw [← hlcores] at hl
  exact ⟨orderSpare_wanted hb hw c p 2, fun hu => orderSpare_denied hb hw hu hl le_rfl p⟩

/- Periodic comparisons (R434, R435). -/

theorem compareAll_nil (h : s.cachedTiles = []) (bad : List (Nat × Nat × Nat)) : s.compareAll bad = s := by
  unfold compareAll
  rw [h]
  split <;> rfl

/-- The comparison of one cached tile that is read (R434). -/
theorem compareTile_read {g i : Nat} {sg : Seg} {t : Tile} {b : Bytes} (hg : s.seg c g = some sg) (ht : s.tile c g i = some t) (hk : sg.kind = .model)
    (hp : sg.prot = false) (hst : t.st = .upper) (hb : s.dram.readFrame t.frame t.off tileBytes = some b) (bad : List (Nat × Nat × Nat)) :
    s.compareTile bad c g i = if bad.contains (c, g, i) = true ∨ s.digestOk sg i t b = false then s.expel c g i t else s := by
  simp [compareTile, hg, ht, hk, hp, hst, hb]

theorem scanCtx_nil (s : State) (n : Nat) {x : Ctx} (h : x.residents = []) : s.scanCtx n x = s := by
  unfold scanCtx
  rw [h]
  rfl

theorem scanAll_nil (h : ∀ p ∈ s.ctxs, p.2.residents = []) : s.scanAll = s := by
  unfold scanAll
  split
  · exact List.foldlRecOn s.ctxs _ (motive := fun t : State => t = s) rfl (fun t ht p hp => by rw [ht, scanCtx_nil s p.1 (h p hp)])
  · rfl

end State

/-- Settles O41: the end of a self-test is `State.katEnded_endKat`, `State.endKat_passes` and `State.endKat_fails`; a comparison goes through the cached
tiles by `State.compareTile`, a scan through the contexts by `State.scanCtx`. -/
theorem selfTestsAndPeriodicChecks : Obligations.SelfTestsAndPeriodicChecks := by
  refine ⟨⟨fun s p hcalm hr ho hp hper hd ht hh hos hu hb => ?_, fun s p ok hcalm hr ho hp ht => ?_⟩, fun s bad hcalm hnone => ?_,
    fun s bad c g i sg t b hcalm hf hone hg ht hk hpr hst hb => ?_, fun s bad hf => State.next_coreDone_eq (if_pos hf), fun s hcalm hnone => ?_,
    fun s hf => State.next_coreDone_eq (if_pos hf), fun s p r hr hrow => if_pos ⟨hr, hrow⟩⟩
  · have hstart : s.startKat p = s.modPc p (fun y => { y with testing := true }) := by
      simp [State.startKat, hr, ho, hp, hper, hd, ht, hh, hos, hu, hb]
    show (.next (s.coreDone (s.startKat p)) : Result) = _
    rw [hstart, State.coreDone_of_calm (t := s.modPc p _) hcalm rfl]
    rfl
  · obtain ⟨hpcores, hdram, -, hcalm'⟩ := State.katEnded_endKat hr ho ht ok
    have hpcr (q : Nat) : (s.coreRow (s.endKat p ok)).pcr q = (s.tested p).pcr q := congrArg (fun l : List PCore => l.getD q (PCore.fresh false)) hpcores
    refine ⟨s.coreRow (s.endKat p ok), congrArg Host.Outcome.next (State.coreDone_eq_coreRow (hcalm' hcalm) s), ?_, fun r hrow hres => ?_, fun q hq => ?_,
      fun hok hfew => ?_, fun c hok hc hl hb hw => ?_, hdram, rfl⟩
    · rw [hpcr, State.tested, State.changedAndScrubbed_pcr hp, PCore.markScrubs_eq]
    · rw [hpcr]
      exact State.changedAndScrubbed_row hp hrow hres _
    · rw [hpcr]
      exact State.changedAndScrubbed_pcr_ne hq _
    · subst hok
      exact State.endKat_passes hr ho ht hfew
    · subst hok
      exact State.endKat_fails hr ho ht hc hl hb hw
  · show (.next (s.coreDone (s.compareAll bad)) : Result) = _
    rw [State.compareAll_nil hnone, State.coreDone_self hcalm]
  · have hcmp : s.compareAll bad = s.compareTile bad c g i := by
      rw [State.compareAll, if_pos hf, hone, List.foldl_cons, List.foldl_nil]
    show (.next (s.coreDone (s.compareAll bad)) : Result) = _
    rw [hcmp, State.compareTile_read hg ht hk hpr hst hb]
    split
    · rfl
    · rw [State.coreDone_self hcalm]
  · show (.next (s.coreDone s.scanAll) : Result) = _
    rw [State.scanAll_nil hnone, State.coreDone_self hcalm]

end Sys2Proof.Machine

/- Host reads of the tile: their answers, expiries and unknown tags (R118, R330, R357, R358, R379). -/

namespace Sys2Proof.Machine

namespace State

variable {s : State} {tag : Nat} {q : Tlp} {g : LinkRead}

/-- An answer to no read of the tile (R358). -/
theorem hostReadDone_unknown (h : s.link.tags.get? tag = none) (r : HostRead) : s.hostReadDone tag r = s := by
  simp only [hostReadDone, h]

/-- An answer frees its tag and brings its part; the last part ends the read (R118, R357). -/
theorem hostReadDone_ok (hq : s.link.tags.get? tag = some q) (hg : s.link.reads.get? q.read = some g) (b : Bytes) {h : LinkRead}
    (hh : h = { g with parts := g.parts.set q.part (some (fixLen q.len b)) }) :
    s.hostReadDone tag (.ok b) =
      if h.parts.all (·.isSome) = true then
        ({ s with link := { s.link with tags := s.link.tags.erase tag, reads := s.link.reads.erase q.read } } : State).landRead h
      else { s with link := { s.link with tags := s.link.tags.erase tag, reads := s.link.reads.set q.read h } } := by
  subst hh
  simp only [hostReadDone, hq, hg]

/-- A read that expires or is poisoned frees its tag, is counted, and ends (R358). -/
theorem hostReadDone_failed {u : State} (hq : s.link.tags.get? tag = some q) (hg : s.link.reads.get? q.read = some g) (p : Bool)
    (hu : u = ({ s with link := { s.link with tags := s.link.tags.erase tag } } : State).readFailed p) :
    s.hostReadDone tag (if p then .poisoned else .expired) =
      ({ u with link := { u.link with reads := u.link.reads.erase q.read } } : State).readDied g := by
  subst hu
  cases p <;> simp only [hostReadDone, hq, hg, Bool.false_eq_true, if_false, if_true]

/-- The bytes of a read outside a confidential context, with zeros where they lie outside the window (R118). -/
theorem readBytes_plain {r : LinkRead} (h : s.isConf r.ctx = false) (seq : Option Nat) :
    s.readBytes r seq = (some (fixLen r.len (fixLen r.good ((r.parts.map (fun p => p.getD [])).flatten))), s) := by
  simp only [readBytes, h, Bool.false_eq_true, if_false]

theorem landRead_request {r : LinkRead} {core desc loc : Nat} {x : Running} {f : InFlight} (hw : r.who = .request core desc loc)
    (hc : s.isConf r.ctx = false) (hx : s.current core = some x) (hf : s.flight core desc = some f) :
    s.landRead r =
      s.windowData x core desc loc r.win r.off (fixLen r.len (fixLen r.good ((r.parts.map (fun p => p.getD [])).flatten))) := by
  simp only [landRead, readBytes_plain hc, hw, hx, hf]

theorem readDied_request {r : LinkRead} {core desc loc : Nat} {f : InFlight} (hw : r.who = .request core desc loc)
    (hf : s.flight core desc = some f) :
    s.readDied r =
      ((s.raise core (descFault core desc f.desc 4 stDmaPoison)).modMove core desc (fun m => { m with out := m.out - 1, pieces := [] })).settleMove
        core desc := by
  simp only [readDied, failReads, hw, hf]

theorem exec_hostReadCompletion (h : s.linkOpen = true) (b : Bytes) :
    exec (.hostReadCompletion tag b) s = .next (s.coreDone (s.hostReadDone tag (.ok b))) := congrArg Host.Outcome.next (if_pos h)

end State

/-- Settles O42: an answer, a failure and an unknown tag are the cases of `State.hostReadDone`, and what a read brings or ends for a MOVE is
`State.landRead_request` and `State.readDied_request`. -/
theorem hostReadsReturn : Obligations.HostReadsReturn := by
  refine ⟨fun s tag b q g h hopen hq hg hh => ⟨fun hmore => ?_, fun hall => ?_⟩,
    fun s r core desc loc x f hw hc hx hf => State.landRead_request hw hc hx hf,
    fun s u tag q g p hq hg hu => State.next_coreDone_eq (State.hostReadDone_failed hq hg p hu),
    fun s r core desc loc f hw hf => State.readDied_request hw hf, fun s tag b p hcalm hnone => ⟨?_, ?_⟩⟩
  · rw [State.exec_hostReadCompletion hopen, State.hostReadDone_ok hq hg b hh, hmore, if_neg Bool.false_ne_true]
  · rw [State.exec_hostReadCompletion hopen, State.hostReadDone_ok hq hg b hh, if_pos hall]
  · show (.next (if s.linkOpen then s.coreDone (s.hostReadDone tag (.ok b)) else s) : Result) = _
    rw [State.hostReadDone_unknown hnone, State.coreDone_self hcalm, ite_self]
  · show (.next (s.coreDone (s.hostReadDone tag _)) : Result) = _
    rw [State.hostReadDone_unknown hnone, State.coreDone_self hcalm]

end Sys2Proof.Machine

/- Schedule images: loading and unloading. -/

namespace Sys2Proof.AList

theorem eq_nil_of_get?_eq_none {α : Type} {l : AList α} (h : ∀ n, l.get? n = none) : l = [] := by
  cases l with
  | nil => rfl
  | cons p l =>
    have hp := h p.1
    rw [get?, if_pos rfl] at hp
    cases hp

end Sys2Proof.AList

namespace Sys2Proof.Machine

/-- The second state holds the images and their copies of the first one, and the same DRAM. -/
structure State.SameImages (s t : State) : Prop where
  images : t.images = s.images
  copies : ∀ n slot, t.imgCopy n slot = s.imgCopy n slot
  dram : t.dram = s.dram

/-- The images that have a copy are the same in both states; where the copies lie may differ. -/
def State.SameCopied (s t : State) : Prop := ∀ n slot, t.imgCopy n slot = none ↔ s.imgCopy n slot = none

namespace State

variable {s t u : State} {ctx slot : Nat}

/- What leaves the images and their copies. -/

theorem SameImages.refl (s : State) : s.SameImages s := ⟨rfl, fun _ _ => rfl, rfl⟩

theorem SameImages.trans (h : s.SameImages t) (k : t.SameImages u) : s.SameImages u :=
  ⟨k.images.trans h.images, fun n slot => (k.copies n slot).trans (h.copies n slot), k.dram.trans h.dram⟩

theorem SameImages.foldl {α : Type} {f : State → α → State} (h : ∀ (s : State) (a : α), s.SameImages (f s a)) (l : List α) (s : State) :
    s.SameImages (l.foldl f s) := by
  induction l generalizing s with
  | nil => exact .refl s
  | cons a l ih => exact (h s a).trans (ih _)

theorem imgCopy_modCtx (s : State) (ctx : Nat) (f : Ctx → Ctx) (n slot : Nat) :
    (s.modCtx ctx f).imgCopy n slot = if n = ctx then (s.ctx ctx).bind (fun c => (f c).copies.get? slot) else s.imgCopy n slot := by
  unfold imgCopy State.ctx
  rw [modCtx_ctxs, AList.get?_upd]
  split
  · exact Option.bind_map
  · rfl

theorem sameImages_modCtx (s : State) (ctx : Nat) {f : Ctx → Ctx} (hf : ∀ c, (f c).copies = c.copies) : s.SameImages (s.modCtx ctx f) := by
  refine ⟨rfl, fun n slot => ?_, rfl⟩
  rw [imgCopy_modCtx]
  simp only [hf]
  split
  · next h => rw [h]; rfl
  · rfl

theorem sameImages_tier (s : State) (x : Tier) : s.SameImages { s with tier := x } := ⟨rfl, fun _ _ => rfl, rfl⟩

theorem sameImages_scrubRows (s : State) (core first rows : Nat) : s.SameImages (s.scrubRows core first rows) := by
  unfold scrubRows modScratch
  split <;> exact ⟨rfl, fun _ _ => rfl, rfl⟩

theorem sameImages_makeResidents (s : State) (ctx : Nat) (i : Image) : s.SameImages (s.makeResidents ctx i) := by
  refine .foldl (fun t k => .foldl (fun v e => ?_) _ t) _ s
  dsimp only
  split
  · exact .refl v
  · exact (sameImages_scrubRows _ _ _ _).trans (sameImages_modCtx _ _ (fun _ => rfl))

theorem sameImages_dropResidents (s : State) (ctx : Nat) (keys : List Nat) : s.SameImages (s.dropResidents ctx keys) := by
  refine .foldl (fun t k => ?_) _ s
  split
  · exact .refl t
  · exact (sameImages_scrubRows _ _ _ _).trans (sameImages_modCtx _ _ (fun _ => rfl))

theorem Posts.sameImages (h : s.Posts t) : s.SameImages t := by
  have hcopy (v : State) (n slot : Nat) : v.imgCopy n slot = ((v.ctx n).map Ctx.masked).bind (fun c => c.copies.get? slot) := by
    rw [Option.bind_map]
    rfl
  exact ⟨by rw [h.eq]; rfl, fun n slot => by rw [hcopy, hcopy, h.ctx_masked], by rw [h.eq]; rfl⟩

theorem sameImages_complete (s : State) (fid st : Nat) (r : Bytes) : s.SameImages (s.complete fid st r) := by
  cases h : s.cmds.find fid with
  | none => rw [complete_none h]; exact .refl s
  | some c => exact SameImages.trans (t := s.unlisted fid) ⟨rfl, fun _ _ => rfl, rfl⟩ (complete_posts h st r).sameImages

/- Charges: image tiles may move with the frames that are given back (R226). -/

theorem SameCopied.refl (s : State) : s.SameCopied s := fun _ _ => .rfl

theorem SameCopied.trans (h : s.SameCopied t) (k : t.SameCopied u) : s.SameCopied u := fun n slot => (k n slot).trans (h n slot)

theorem SameImages.sameCopied (h : s.SameImages t) : s.SameCopied t := fun n slot => by rw [h.copies]

theorem sameCopied_of (h : t.ctxs = s.ctxs) : s.SameCopied t := fun n slot => by unfold imgCopy State.ctx; rw [h]

theorem sameCopied_movePlaces (s : State) (ctx : Nat) (moves : List (Nat × Nat)) : s.SameCopied (s.movePlaces ctx moves) := by
  intro n slot
  unfold movePlaces
  dsimp only
  rw [imgCopy_modCtx]
  split
  · next h =>
    subst h
    unfold imgCopy
    simp only [Option.bind_eq_none_iff, AList.get?_eq_none, AList.keys, List.map_map, Function.comp_def]
    exact .rfl
  · rfl

theorem sameCopied_giveBack (s : State) (ctx f : Nat) : s.SameCopied (s.giveBack ctx f) :=
  (sameCopied_movePlaces s ctx _).trans (sameCopied_of rfl)

theorem imagePlaces_of_no_copy (h : ∀ k, s.imgCopy ctx k = none) : s.imagePlaces ctx = [] := by
  unfold imagePlaces
  cases hx : s.ctx ctx with
  | none => rfl
  | some c =>
    have hc : c.copies = [] := AList.eq_nil_of_get?_eq_none (fun k => by simpa [imgCopy, hx] using h k)
    simp [hc]

theorem giveBack_dram_of_no_copy (h : ∀ k, s.imgCopy ctx k = none) (f : Nat) : (s.giveBack ctx f).dram = s.dram := by
  unfold giveBack
  rw [imagePlaces_of_no_copy h]
  rfl

theorem sameCopied_giveBacks (l : List Nat) (s : State) (ctx : Nat) : s.SameCopied (l.foldl (fun v f => v.giveBack ctx f) s) := by
  induction l generalizing s with
  | nil => exact .refl s
  | cons f l ih => exact (sameCopied_giveBack s ctx f).trans (ih _)

theorem giveBacks_dram_of_no_copy (l : List Nat) {s : State} (h : ∀ k, s.imgCopy ctx k = none) :
    (l.foldl (fun v f => v.giveBack ctx f) s).dram = s.dram := by
  induction l generalizing s with
  | nil => rfl
  | cons f l ih => exact (ih (fun k => (sameCopied_giveBack s ctx f ctx k).mpr (h k))).trans (giveBack_dram_of_no_copy h f)

/-- A charge that is set takes frames, which touches neither contexts nor DRAM, and then gives frames back. -/
theorem setCharge_giveBacks {key n : Nat} (h : s.setCharge ctx key n = some t) :
    ∃ (u : State) (l : List Nat), s.SameImages u ∧ t = l.foldl (fun v f => State.giveBack v ctx f) u := by
  unfold setCharge at h
  dsimp only at h
  obtain ⟨u, hu, rfl⟩ := Option.map_eq_some_iff.mp h
  refine ⟨u, _, ?_, rfl⟩
  rw [growCharge_eq ctx _ _ _ hu]
  exact (sameImages_modCtx s ctx (by intro _; rfl)).trans (sameImages_tier _ _)

theorem dropCharge_giveBacks (s : State) (ctx key : Nat) :
    ∃ (u : State) (l : List Nat), s.SameImages u ∧ s.dropCharge ctx key = l.foldl (fun v f => State.giveBack v ctx f) u := by
  unfold dropCharge lowerCharge
  cases h : s.setCharge ctx key 0 with
  | none => exact ⟨s, [], .refl s, rfl⟩
  | some t => exact setCharge_giveBacks h

theorem sameCopied_dropCharge (s : State) (ctx key : Nat) : s.SameCopied (s.dropCharge ctx key) := by
  obtain ⟨u, l, hu, he⟩ := s.dropCharge_giveBacks ctx key
  rw [he]
  exact hu.sameCopied.trans (sameCopied_giveBacks l u ctx)

theorem dropCharge_dram_of_no_copy (h : ∀ k, s.imgCopy ctx k = none) (key : Nat) : (s.dropCharge ctx key).dram = s.dram := by
  obtain ⟨u, l, hu, he⟩ := s.dropCharge_giveBacks ctx key
  rw [he, giveBacks_dram_of_no_copy l (fun k => (hu.copies ctx k).trans (h k)), hu.dram]

/- Unloading (R132). -/

/-- The image is taken off its slot, its unshared resident regions are released, and then its copy, its charge and its holds. -/
theorem unloadImage_eq {i : Image} (h : s.images.imgs.get? slot = some i) :
    ∃ u, ({ s with images := { imgs := s.images.imgs.erase slot, nextGen := s.images.nextGen.set slot (i.gen + 1) } } : State).SameImages u ∧
      s.unloadImage slot = ((u.modCtx i.ctx (fun c => { c with copies := c.copies.erase slot })).dropCharge i.ctx (chargeImage slot)).releaseGens
        i.gens := by
  simp only [unloadImage, h]
  exact ⟨_, sameImages_dropResidents _ _ _, rfl⟩

theorem unloadImage_images {i : Image} (h : s.images.imgs.get? slot = some i) :
    (s.unloadImage slot).images = { imgs := s.images.imgs.erase slot, nextGen := s.images.nextGen.set slot (i.gen + 1) } := by
  obtain ⟨u, hu, he⟩ := unloadImage_eq h
  rw [he, dropCharge_eq]
  exact hu.images

theorem unloadImage_imgCopy {i : Image} (h : s.images.imgs.get? slot = some i) : (s.unloadImage slot).imgCopy i.ctx slot = none := by
  obtain ⟨u, -, he⟩ := unloadImage_eq h
  rw [he]
  refine (sameCopied_dropCharge _ _ _ i.ctx slot).mpr ?_
  rw [imgCopy_modCtx, if_pos rfl]
  simp

theorem unloadImage_dram {i : Image} (h : s.images.imgs.get? slot = some i)
    (honly : ∀ x, s.ctx i.ctx = some x → ∀ k ∈ x.copies.keys, k = slot) : (s.unloadImage slot).dram = s.dram := by
  obtain ⟨u, hu, he⟩ := unloadImage_eq h
  have hnone (k : Nat) (hk : k ≠ slot) : u.imgCopy i.ctx k = none := by
    refine (hu.copies i.ctx k).trans (Option.bind_eq_none_iff.mpr (fun x hx => ?_))
    exact (AList.get?_eq_none _ _).mpr (fun hm => hk (honly x hx k hm))
  rw [he]
  refine (dropCharge_dram_of_no_copy (fun k => ?_) _).trans hu.dram
  rw [imgCopy_modCtx, if_pos rfl]
  by_cases hk : k = slot
  · subst hk
    simp
  · simp only [AList.get?_erase_ne _ hk]
    exact hnone k hk

theorem ownImage_get? {c : Cmd} {i : Image} (h : s.ownImage c = some i) : s.images.imgs.get? (c.fld 8 4 % 8192) = some i :=
  (Option.filter_eq_some_iff.mp h).1

theorem schedUnload_of_own {c : Cmd} {i : Image} (h : s.ownImage c = some i) :
    s.schedUnload c = (s.unloadImage (c.fld 8 4 % 8192)).answer c stOk := by
  simp only [schedUnload, h]

theorem schedUnload_of_bad_handle {c : Cmd} (h : s.ownImage c = none) : s.schedUnload c = s.answer c stBadHandle := by
  simp only [schedUnload, h]

/- Loading: the checks of R146 that an image passes. -/

theorem recordImage_of_not_held {c : Cmd} (h : s.heldRecords c.ctxNo = []) (b : Bytes) : s.recordImage c b = s := by
  unfold recordImage recordWaiting
  unfold Cmd.ctxNo at h
  dsimp only
  split
  · rfl
  · next n hn =>
    rw [hn, Option.getD_some] at h
    rw [h]
    rfl

theorem schedLoad_of_short {c : Cmd} (h : c.fld 24 4 < 64) (r : HostRead) : s.schedLoad c r = s.loadRefused c (ImgErr.plain 0x40) := if_pos h

/-- Reads that bring an image which passes check 1 leave it to the other checks. -/
theorem schedLoad_of_read {c : Cmd} {r : HostRead} {h w : WinRead} {hd b : Bytes} (hlen : 64 ≤ c.fld 24 4)
    (hh : h = s.winRead c.ctxNo (c.fld 8 2) (c.fld 16 8) 64 none r) (hhd : h.data = some hd) (hmin : 64 ≤ leAt hd 8 4)
    (hfits : leAt hd 8 4 ≤ c.fld 24 4) (hmax : leAt hd 8 4 ≤ 268435456)
    (hw : w = h.s.winRead c.ctxNo (c.fld 8 2) (c.fld 16 8) (leAt hd 8 4) none r) (hb : w.data = some b)
    (ht : t = w.s.countViol c.ctxNo w.viol) (hheld : t.heldRecords c.ctxNo = []) (hcheck : check1 b (c.fld 24 4) = none) :
    s.schedLoad c r = s.takeImage t c b := by
  subst ht
  have hsize : ¬(leAt hd 8 4 < 64 ∨ c.fld 24 4 < leAt hd 8 4 ∨ 268435456 < leAt hd 8 4) := by omega
  simp only [schedLoad, if_neg (Nat.not_lt.mpr hlen), ← hh, hhd, if_neg hsize, ← hw, hb, recordImage_of_not_held hheld, hcheck]

theorem takeImage_of_checks {c : Cmd} {x : Ctx} {b : Bytes} (hx : t.ctx c.ctxNo = some x) (hslot : t.images.freeSlot = some slot)
    (hroom : (t.images.imgs.filter (fun p => p.2.ctx == c.ctxNo)).length < 64) (hcores : t.deniedCore x (parseImage b) = none)
    (hchecks : checks4to9 b (x.residents.map (fun e => (e.1, (e.2.first, e.2.rows)))) = none) :
    s.takeImage t c b = s.admitImage t c x b (parseImage b) slot := by
  simp only [takeImage, hx, hslot, if_neg (Nat.not_le.mpr hroom), hcores, hchecks]

end State

/-- An image as it stands in its slot once it is admitted (R131, R142, R148). -/
def Image.admitted (i : Image) (gen ctx : Nat) (counters : AList Nat) (gens : List Nat) (digest : Bytes) : Image :=
  { i.withFacts with gen := gen, ctx := ctx, counterOf := counters, gens := gens, digest := digest }

namespace State

variable {s t u v : State} {ctx slot : Nat}

/-- An image put in its slot and in the charged DRAM of its context, with its resident regions (R129, R140). -/
def installImage (s : State) (ctx slot : Nat) (img : Image) (b : Bytes) : State :=
  ({ s.storeImage ctx slot b with images := { s.images with imgs := s.images.imgs.set slot img } } : State).makeResidents ctx img

/-- An image that passes checks 10 to 14 of R146 is installed, and the command completes with its handle. -/
theorem admitImage_of_checks {c : Cmd} {x : Ctx} {b : Bytes} {i : Image} {counters : AList Nat} {gens : List Nat} {gen : Nat}
    (hgen : gen = AList.getD t.images.nextGen slot 0) (hrows : t.scratchTaken c.ctxNo i = none) (hcount : t.assignCounters i = .ok counters)
    (htables : t.holdTables i.refs 0 = .ok (u, gens)) (hbatch : i.maxBatch ≤ x.size)
    (hclaim : u.claimTiles c.ctxNo (chargeImage slot) (i.tiles + i.workspace) = .ok v) :
    s.admitImage t c x b i slot =
      (v.installImage c.ctxNo slot (i.admitted gen c.ctxNo counters gens (fixLen 48 (Config.sha384 (b.take (leAt b 8 4)))))
        (b.take (leAt b 8 4))).complete c.fid stOk (toLe (slot + 8192 * gen) 4) := by
  subst hgen
  simp only [admitImage, hrows, hcount, htables, if_neg (Nat.not_lt.mpr hbatch), hclaim]
  rfl

theorem installImage_complete_images (s : State) (ctx slot : Nat) (img : Image) (b : Bytes) (fid st : Nat) (r : Bytes) :
    ((s.installImage ctx slot img b).complete fid st r).images.imgs.get? slot = some img := by
  rw [(sameImages_complete _ _ _ _).images, installImage, (sameImages_makeResidents _ _ _).images]
  exact AList.get?_set_self _ _ _

theorem storeImage_imgCopy (h : (s.ctx ctx).isSome = true) (slot : Nat) (b : Bytes) : ((s.storeImage ctx slot b).imgCopy ctx slot).isSome = true := by
  obtain ⟨x, hx⟩ := Option.isSome_iff_exists.mp h
  unfold storeImage
  dsimp only
  rw [imgCopy_modCtx, if_pos rfl]
  unfold State.ctx at hx ⊢
  simp [hx]

theorem installImage_complete_imgCopy (h : (s.ctx ctx).isSome = true) (slot : Nat) (img : Image) (b : Bytes) (fid st : Nat) (r : Bytes) :
    (((s.installImage ctx slot img b).complete fid st r).imgCopy ctx slot).isSome = true := by
  rw [(sameImages_complete _ _ _ _).copies, installImage, (sameImages_makeResidents _ _ _).copies]
  exact storeImage_imgCopy h slot b

/- The claims of an admission leave the contexts that exist. -/

theorem claimTable_ctxs {table : Bytes} {p : Option Nat} {g : Nat} {w : Bool} (h : s.claimTable table p = (some (t, g), w)) :
    t.ctxs = s.ctxs := by
  unfold claimTable at h
  dsimp only at h
  split at h
  · cases h; rfl
  · split at h
    · cases h; rfl
    · split at h
      · cases h
      · split at h <;> cases h
        rfl

theorem holdTables_ctxs {refs : List Bytes} {n : Nat} {gens : List Nat} (h : s.holdTables refs n = .ok (t, gens)) : t.ctxs = s.ctxs := by
  induction refs generalizing s n gens with
  | nil => cases h; rfl
  | cons r refs ih =>
    unfold holdTables at h
    split at h
    · cases h
    · next u g w hclaim =>
      split at h <;> cases h
      next hrest => exact (ih hrest).trans (claimTable_ctxs hclaim)

theorem claimTiles_ctx_isSome {key n : Nat} (h : s.claimTiles ctx key n = .ok t) (k : Nat) : (t.ctx k).isSome = (s.ctx k).isSome := by
  unfold claimTiles at h
  dsimp only at h
  split at h
  · cases h
  · split at h
    · next hs =>
      cases h
      simpa using congrArg Option.isSome ((sameBare_setCharge hs).ctx k)
    · cases hl : s.lacks ctx (cdiv n 32) <;> rw [hl] at h <;> cases h

/- The rows. -/

theorem exec_schedLoad {fid : Nat} {c : Cmd} (h : s.CmdReady fid 0x02 stBadField c) (hf : 0 < s.freeTags) (r : HostRead) :
    exec (.schedLoad fid r) s = .next (s.schedCmd (s.schedLoad c r)) :=
  congrArg (fun t => Host.Outcome.next (s.schedCmd t)) (h.runRead hf _)

theorem exec_schedUnload {fid : Nat} {c : Cmd} (h : s.CmdReady fid 0x03 stBadField c) :
    exec (.schedUnload fid) s = .next (s.schedCmd (s.schedUnload c)) :=
  congrArg (fun t => Host.Outcome.next (s.schedCmd t)) (h.runOp _)

end State

/-- Settles O25: the reads and checks lead to `State.installImage` (`State.schedLoad_of_read`, `State.takeImage_of_checks`,
`State.admitImage_of_checks`), and an unloaded image leaves its slot and its copy (`State.unloadImage_eq`). -/
theorem scheduleCommands : Obligations.ScheduleCommands := by
  refine ⟨fun s fid c r hc hf hlen => ?_, ?_, fun s fid c i hc hi => ?_, fun s fid c hc hi => ?_⟩
  · rw [State.exec_schedLoad hc hf r, State.schedLoad_of_short hlen r, State.loadRefused, State.schedCmd_complete rfl]
  · intro s t u v fid slot c r h w x hd b counters gens hc hf hlen hh hhd hmin hfits hmax hw hb ht hheld hcheck hx hslot hroom hcores hchecks
      hrows hcount htables hbatch hclaim
    have hload := (State.schedLoad_of_read hlen hh hhd hmin hfits hmax hw hb ht hheld hcheck).trans
      ((State.takeImage_of_checks hx hslot hroom hcores hchecks).trans (State.admitImage_of_checks rfl hrows hcount htables hbatch hclaim))
    have hctx : (v.ctx c.ctxNo).isSome = true := by
      rw [State.claimTiles_ctx_isSome hclaim, State.ctx, State.holdTables_ctxs htables]
      exact Option.isSome_iff_exists.mpr ⟨x, hx⟩
    have hrun := (State.exec_schedLoad hc hf r).trans (congrArg (fun z => Host.Outcome.next (s.schedCmd z)) hload)
    exact ⟨_, _, hrun, hc.fid_eq ▸ State.complete_gone _ _ _ _, State.installImage_complete_images _ _ _ _ _ _ _ _, rfl, rfl, rfl, rfl,
      State.installImage_complete_imgCopy hctx _ _ _ _ _ _, rfl, rfl⟩
  · have hget := State.ownImage_get? hi
    have hrun := (State.exec_schedUnload hc).trans (congrArg (fun z => Host.Outcome.next (s.schedCmd z)) (State.schedUnload_of_own hi))
    have hsame := State.sameImages_complete (s.unloadImage (c.fld 8 4 % 8192)) c.fid stOk c.refused
    have himages := hsame.images.trans (State.unloadImage_images hget)
    exact ⟨_, hrun, hc.fid_eq ▸ State.complete_gone _ _ _ _, congrArg Images.imgs himages, congrArg Images.nextGen himages,
      (hsame.copies _ _).trans (State.unloadImage_imgCopy hget), rfl, rfl, fun honly => hsame.dram.trans (State.unloadImage_dram hget honly)⟩
  · rw [State.exec_schedUnload hc, State.schedUnload_of_bad_handle hi, State.answer, hc.fid_eq, State.schedCmd_complete rfl]

end Sys2Proof.Machine

/- Submissions (R154 to R157). -/

namespace Sys2Proof.Machine

/- Window reads of commands. -/

theorem insideLen_of_le {w : Window} {off n : Nat} (h : off + n ≤ w.len) : insideLen (some w) off n = n := by
  unfold insideLen
  dsimp only
  split <;> omega

theorem fixLen_of_length {n : Nat} {b : Bytes} (h : b.length = n) : fixLen n b = b := by
  simp [fixLen, h]

/-- The requests of an access lie within it (R118). -/
theorem winRequests_le {fuel off n : Nat} {p : Nat × Nat} (h : p ∈ winRequests fuel off n) : p.1 + p.2 ≤ off + n := by
  induction fuel generalizing off n with
  | zero => cases h
  | succ fuel ih =>
    unfold winRequests at h
    split at h
    · cases h
    · rcases List.mem_cons.mp h with rfl | h
      · exact Nat.add_le_add_left (Nat.min_le_left _ _) _
      · have := ih h
        omega

/-- No request of an access violates when all its bytes lie inside. -/
theorem winRuns_none_outside (off n : Nat) : (winRuns off n).filter (fun x => decide (off + n < x.1 + x.2)) = [] :=
  List.filter_eq_nil_iff.mpr (fun _ hx => by simpa using winRequests_le hx)

/-- What the answer of a window read brings: no bytes when none are fetched. -/
theorem fetched_eq {good : Nat} {b : Bytes} (h : b.length = good) : (if good = 0 then HostRead.ok [] else .ok b) = .ok b := by
  split
  · next hz => rw [List.length_eq_zero_iff.mp (h.trans hz)]
  · rfl

namespace State

variable {s t : State}

/-- A read that lies inside a window of a context in clear brings its bytes and changes nothing (R118). -/
theorem winRead_inside {ctx win off n : Nat} {x : Ctx} {w : Window} {b : Bytes} (hx : s.ctx ctx = some x) (hconf : x.confidential = false)
    (hw : x.window? win = some w) (hin : off + n ≤ w.len) (hb : b.length = n) (hlink : s.linkOpen = true) (seq : Option Nat) :
    s.winRead ctx win off n seq (.ok b) = { s := s, data := some b, viol := 0, bad := none } := by
  have hclear : s.isConf ctx = false := by simp [isConf, hx, hconf]
  simp only [winRead, hclear, Bool.false_eq_true, if_false, plainRead, hx, hw, insideLen_of_le hin, onLink, hlink, if_true, fetched_eq hb,
    fixLen_of_length hb, winRuns_none_outside, List.length_nil, List.head?_nil, Option.map_none]

/-- The parts that a command's window read can change. -/
def readOf (s r : State) : State := { s with ctxs := r.ctxs, link := r.link, pf := r.pf }

theorem readFailed_readOf (s : State) (p : Bool) : s.readFailed p = s.readOf (s.readFailed p) := by
  cases p <;> rfl

theorem readOf_trans {u : State} (h : t = s.readOf t) (k : u = t.readOf u) : u = s.readOf u := by
  rw [k, h]
  rfl

theorem openUnit_readOf {ctx win u : Nat} {seq : Option Nat} {raw p : Bytes} (h : s.openUnit ctx win u seq raw = some (p, t)) :
    t = s.readOf t := by
  unfold openUnit at h
  split at h
  · cases h
  · dsimp only at h
    split at h
    · cases h
    · split at h <;> cases h
      split <;> rfl

theorem openUnits_readOf (s : State) (ctx win u0 n : Nat) (seq : Option Nat) (raw : Bytes) :
    (s.openUnits ctx win u0 n seq raw).2 = s.readOf (s.openUnits ctx win u0 n seq raw).2 := by
  unfold openUnits
  refine List.foldlRecOn _ _ (motive := fun (acc : Option Bytes × State) => acc.2 = s.readOf acc.2) rfl (fun acc hacc i _ => ?_)
  split
  · exact hacc
  · split
    · next hopen => exact readOf_trans hacc (openUnit_readOf hopen)
    · exact readOf_trans hacc rfl

theorem plainRead_readOf (s : State) (ctx win off n : Nat) (r : HostRead) :
    (s.plainRead ctx win off n r).s = s.readOf (s.plainRead ctx win off n r).s := by
  unfold plainRead
  split
  · rfl
  · dsimp only
    split
    · exact readFailed_readOf s false
    · exact readFailed_readOf s true
    · rfl

theorem bounceRead_readOf (s : State) (ctx win off n : Nat) (seq : Option Nat) (r : HostRead) :
    (s.bounceRead ctx win off n seq r).s = s.readOf (s.bounceRead ctx win off n seq r).s := by
  unfold bounceRead
  dsimp only
  split
  · rfl
  · generalize List.filter _ (List.range _) = inside
    split
    · rfl
    · split
      · exact readFailed_readOf s false
      · exact readFailed_readOf s true
      · have hopen := s.openUnits_readOf ctx win
        split
        · exact readOf_trans (hopen _ _ _ _) (readFailed_readOf _ true)
        · exact hopen _ _ _ _

theorem winRead_readOf (s : State) (ctx win off n : Nat) (seq : Option Nat) (r : HostRead) :
    (s.winRead ctx win off n seq r).s = s.readOf (s.winRead ctx win off n seq r).s := by
  unfold winRead
  split
  · exact s.bounceRead_readOf ctx win off n seq r
  · exact s.plainRead_readOf ctx win off n r

/- The checks of R156 in order. -/

/-- Checks 4 to 6 of R156 on the tokens that a submission's read has brought, and its acceptance. -/
def submitTokens (t : State) (c : Cmd) (i : Image) (ts : List Token) : State :=
  match batchStreams ts (c.fld 12 2) i.tps with
  | none => t.answer c stTokenCount
  | some streams =>
    if !streams.all (t.strmOk c.ctxNo i) then t.answer c stStreamInvalid
    else if (t.pausedCheck c.ctxNo i streams).2 then (t.pausedCheck c.ctxNo i streams).1.answer c stStreamPaused
    else t.acceptStep c i ts streams

section

variable {c : Cmd} {i : Image} {x : Ctx} {r : HostRead} {streams : List Nat}

theorem submitStep_of_bad_handle (h : s.ownImage c = none) (r : HostRead) : s.submitStep c r = s.answer c stBadHandle := by
  simp only [submitStep, h]

theorem submitStep_of_faulted (hi : s.ownImage c = some i) (hx : s.ctx c.ctxNo = some x) (h : x.state = 2) (r : HostRead) :
    s.submitStep c r = s.answer c stCtxFaulted := by
  simp only [submitStep, hi, hx, if_pos h]

theorem submitStep_of_batch_range (hi : s.ownImage c = some i) (hx : s.ctx c.ctxNo = some x) (hlive : x.state ≠ 2)
    (h : c.fld 12 2 = 0 ∨ i.maxBatch < c.fld 12 2) (r : HostRead) : s.submitStep c r = s.answer c stBatchRange := by
  simp only [submitStep, hi, hx, if_neg hlive, if_pos h]

section

variable (hi : s.ownImage c = some i) (hx : s.ctx c.ctxNo = some x) (hlive : x.state ≠ 2)
  (hmin : c.fld 12 2 ≠ 0) (hmax : c.fld 12 2 ≤ i.maxBatch)
include hi hx hlive hmin hmax

theorem submitStep_of_token_count (h : c.fld 16 4 ≠ c.fld 12 2 * i.tps) (r : HostRead) : s.submitStep c r = s.answer c stTokenCount := by
  have hrange : ¬(c.fld 12 2 = 0 ∨ i.maxBatch < c.fld 12 2) := by omega
  simp only [submitStep, hi, hx, if_neg hlive, if_neg hrange, if_pos h]

/-- A submission whose token read succeeds goes on with its tokens. -/
theorem submitStep_of_read {w : WinRead} {b : Bytes} (hcount : c.fld 16 4 = c.fld 12 2 * i.tps)
    (hw : w = s.winRead c.ctxNo (c.fld 20 2) (c.fld 24 8) (16 * c.fld 16 4) (some (s.seqAhead c.ctxNo)) r) (hb : w.data = some b)
    (ht : t = w.s.countViol c.ctxNo w.viol) : s.submitStep c r = t.submitTokens c i (readTokens b (c.fld 16 4)) := by
  subst ht
  have hrange : ¬(c.fld 12 2 = 0 ∨ i.maxBatch < c.fld 12 2) := by omega
  simp only [submitStep, hi, hx, if_neg hlive, if_neg hrange, if_neg (not_not.mpr hcount), ← hw, hb]
  rfl

end

variable {ts : List Token} (hs : batchStreams ts (c.fld 12 2) i.tps = some streams)

theorem submitTokens_of_no_batch (h : batchStreams ts (c.fld 12 2) i.tps = none) : t.submitTokens c i ts = t.answer c stTokenCount := by
  simp only [submitTokens, h]

include hs

theorem submitTokens_of_invalid (h : ∃ n ∈ streams, t.strmOk c.ctxNo i n = false) : t.submitTokens c i ts = t.answer c stStreamInvalid := by
  have hall : streams.all (t.strmOk c.ctxNo i) = false := List.all_eq_false.mpr (by simpa using h)
  simp only [submitTokens, hs, hall, Bool.not_false, if_true]

theorem submitTokens_of_paused (h : ∀ n ∈ streams, t.strmOk c.ctxNo i n = true) (hp : (t.pausedCheck c.ctxNo i streams).2 = true) :
    t.submitTokens c i ts = (t.pausedCheck c.ctxNo i streams).1.answer c stStreamPaused := by
  simp only [submitTokens, hs, List.all_eq_true.mpr h, hp, Bool.not_true, Bool.false_eq_true, if_false, if_true]

theorem submitTokens_accepts (h : ∀ n ∈ streams, t.strmOk c.ctxNo i n = true) (hp : (t.pausedCheck c.ctxNo i streams).2 = false) :
    t.submitTokens c i ts = t.acceptStep c i ts streams := by
  simp only [submitTokens, hs, List.all_eq_true.mpr h, hp, Bool.not_true, Bool.false_eq_true, if_false]

end

/-- No stream is paused when none of the causes of R181 holds for one. -/
theorem pausedCheck_of_clear {i : Image} {streams : List Nat}
    (h : ∀ n ∈ streams, ∀ y, s.strms.get? n = some y → y.blocks i = (false, false, false)) (ctx : Nat) :
    (s.pausedCheck ctx i streams).2 = false := by
  refine List.any_eq_false.mpr (fun b hb => ?_)
  obtain ⟨n, hn, hy⟩ := List.mem_filterMap.mp hb
  obtain ⟨y, hget, rfl⟩ := Option.map_eq_some_iff.mp hy
  simp [h n hn y hget]

theorem pausedCheck_readOf (s : State) (ctx : Nat) (i : Image) (streams : List Nat) :
    (s.pausedCheck ctx i streams).1 = s.readOf (s.pausedCheck ctx i streams).1 := by
  unfold pausedCheck
  dsimp only
  split <;> split <;> rfl

/- The row. -/

theorem exec_submitStep {fid : Nat} {c : Cmd} (h : s.CmdReady fid 0x01 stBadField c) (hf : 0 < s.freeTags) (r : HostRead) :
    exec (.submitStep fid r) s = .next (s.schedCmd (s.submitStep c r)) :=
  congrArg (fun t => Host.Outcome.next (s.schedCmd t)) (h.runRead hf _)

/-- A submission that a check stops completes with its status. -/
theorem exec_submitStep_answer {fid st : Nat} {c : Cmd} {r : HostRead} (h : s.CmdReady fid 0x01 stBadField c) (hf : 0 < s.freeTags)
    (ht : t = s.readOf t) (he : s.submitStep c r = t.answer c st) : exec (.submitStep fid r) s = .next (t.complete fid st c.refused) := by
  have hframe : s.schedCmd t = t := by
    rw [ht]
    rfl
  rw [exec_submitStep h hf, he, answer, h.fid_eq, schedCmd_complete hframe]

end State

/-- Settles O26: the submission goes through the checks in order (`State.submitStep_of_read`, `State.submitTokens_accepts` and the lemma of each
check that stops it), and a token read changes no more than `State.readOf` says. -/
theorem submitStep : Obligations.SubmitStep := by
  refine ⟨?_, fun s c x w n b hx hconf hw hin hb hlink => ⟨_, State.winRead_inside hx hconf hw hin hb hlink _, rfl, rfl, rfl⟩,
    fun s fid c r hc hf hi => State.exec_submitStep_answer hc hf rfl (State.submitStep_of_bad_handle hi r),
    fun s fid c i x r hc hf hi hx => ⟨?_, ?_, ?_⟩⟩
  · intro s t fid c i x r w b hc hf hi hx hlive hmin hmax hcount hw hb ht
    have hread := State.submitStep_of_read hi hx hlive hmin hmax hcount hw hb ht
    have hframe : t = s.readOf t := by
      rw [ht, hw]
      exact State.readOf_trans (State.winRead_readOf _ _ _ _ _ _ _) rfl
    have himages : t.images = s.images := (congrArg State.images hframe).trans rfl
    have hpcores : t.pcores = s.pcores := (congrArg State.pcores hframe).trans rfl
    refine ⟨fun streams hs hok hclear => ?_, fun hs => ?_, fun streams hs hbad => ?_, fun streams hs hok hp => ?_⟩
    · have hrun := hread.trans (State.submitTokens_accepts hs hok (State.pausedCheck_of_clear hclear _))
      have hexec := (State.exec_submitStep hc hf r).trans (congrArg (fun u => Host.Outcome.next (s.schedCmd u)) hrun)
      exact ⟨_, _, hexec, rfl, rfl, rfl, rfl, rfl, rfl, rfl, rfl, rfl, rfl, rfl, rfl, rfl, himages, hpcores, rfl, rfl⟩
    · exact State.exec_submitStep_answer hc hf hframe (hread.trans (State.submitTokens_of_no_batch hs))
    · exact State.exec_submitStep_answer hc hf hframe (hread.trans (State.submitTokens_of_invalid hs hbad))
    · exact State.exec_submitStep_answer hc hf (State.readOf_trans hframe (t.pausedCheck_readOf _ _ _))
        (hread.trans (State.submitTokens_of_paused hs hok hp))
  · exact fun h => State.exec_submitStep_answer hc hf rfl (State.submitStep_of_faulted hi hx h r)
  · exact fun hlive h => State.exec_submitStep_answer hc hf rfl (State.submitStep_of_batch_range hi hx hlive h r)
  · exact fun hlive hmin hmax h => State.exec_submitStep_answer hc hf rfl (State.submitStep_of_token_count hi hx hlive hmin hmax h r)

end Sys2Proof.Machine

/- Stream commands (R182 to R184), and commands that wait for their turn (R183, R346). -/

namespace Sys2Proof.Machine

namespace State

variable {s : State} {c : Cmd}

/- What the stream rows do, on an open stream and without one. -/

theorem onStrm_of_open {x : Strm} (h : s.cmdStrm c = some x) (k : Strm → State) : s.onStrm c k = k x := by
  simp [onStrm, h]

theorem onStrm_of_unknown (h : s.cmdStrm c = none) (k : Strm → State) : s.onStrm c k = s.answer c stStreamInvalid := by
  simp [onStrm, h]

theorem streamPause_of_open {x : Strm} (h : s.cmdStrm c = some x) :
    s.streamPause c = (s.modStrm (c.fld 8 2) (fun y => { y with paused := true })).answer c stOk :=
  onStrm_of_open h _

theorem streamOpen_of_free {i : Nat} {k : Ctx} (ha : s.strmArgsOk c.newStrm = true) (hk : s.ctx c.ctxNo = some k)
    (hi : s.strms.firstFree k.first (k.first + k.size) = some i) :
    s.streamOpen c =
      (({ s with strms := s.strms.set i c.newStrm } : State).bindSeq c.ctxNo c.newStrm.kvSeq (· + 1)).complete c.fid stOk (toLe i 2) := by
  simp [streamOpen, ha, hk, hi]

theorem streamOpen_of_bad_args (h : s.strmArgsOk c.newStrm = false) : s.streamOpen c = s.answer c stStreamBadArgs := by
  simp [streamOpen, h]

/-- Only a SUBMIT_STEP that never ran carries result fields (R349). -/
theorem refused_of_opcode_ne (h : c.opcode ≠ 0x01) : c.refused = [] :=
  if_neg fun k => h k.1

/- What lies within the frame of the stream rows. -/

theorem streamCmd_setStrms (s : State) (m : AList Strm) : s.streamCmd { s with strms := m } = { s with strms := m } := rfl

/-- The count of a record's bindings lies in its context, which a completion may change anyway (R195). -/
theorem streamCmd_bindSeq_setStrms (s : State) (m : AList Strm) (n rec : Nat) (f : Nat → Nat) :
    s.streamCmd (({ s with strms := m } : State).bindSeq n rec f) = ({ s with strms := m } : State).bindSeq n rec f := by
  unfold bindSeq
  split <;> rfl

/-- A stream row that is ready completes as its effect does. -/
theorem CmdReady.streamRow_complete {fid op own st : Nat} (h : s.CmdReady fid op own c) {e : State → Cmd → State} {t : State} {r : Bytes}
    (ht : s.streamCmd t = t) (he : e s c = t.complete c.fid st r) :
    (.next (s.streamCmd (s.runOp fid op own e)) : Result) = .next (t.complete fid st r) := by
  refine next_frame_eq s.streamCmd (streamCmd_complete ht fid st r) ?_
  rw [h.runOp, he, h.fid_eq]

/-- The same for a command that answers with its status alone. -/
theorem CmdReady.streamRow_done {fid op own st : Nat} (h : s.CmdReady fid op own c) (ho : op ≠ 0x01) {e : State → Cmd → State} {t : State}
    (ht : s.streamCmd t = t) (he : e s c = t.answer c st) :
    (.next (s.streamCmd (s.runOp fid op own e)) : Result) = .next (t.complete fid st []) :=
  h.streamRow_complete ht (by rw [he, answer, h.refused ho])

/- Commands that wait. -/

/-- A fetched command that passes its checks and must wait is set aside. -/
theorem Fetched.runOp_of_mustWait {fid own op : Nat} (h : s.Fetched fid c) (ho : c.opcode = op) (hp : s.permits c = true)
    (hc : c.precheck own = none) (hw : s.mustWait c = true) (e : State → Cmd → State) : s.runOp fid op own e = s.defer fid := by
  simp [runOp, runCmd, h.found, h.runs, h.stage, h.opcodeOk, ho, hp, hc, hw]

theorem takeEffect_of_mustWait {fid : Nat} (hf : s.cmds.find fid = some c) (hw : s.mustWait c = true) : s.takeEffect fid = s := by
  unfold takeEffect
  rw [hf]
  dsimp only
  split
  · rfl
  · simp [hw]

/-- A deferred command that need not wait any more takes the effect of its opcode. -/
theorem takeEffect_of_free {fid : Nat} {e : State → Cmd → State} (hf : s.cmds.find fid = some c) (hr : s.commandsRun = true)
    (hq : c.opcodeOk = true) (hs : c.stage = .deferred) (hw : s.mustWait c = false) (he : effectOf c.opcode = some e) :
    s.takeEffect fid = e s c := by
  simp [takeEffect, hf, hr, hq, hs, hw, he]

end State

/-- Settles O18: a row sets a command that must wait aside (`State.Fetched.runOp_of_mustWait`), and COMMAND_TAKES_EFFECT looks at the same
condition (`State.takeEffect_of_free`, `State.takeEffect_of_mustWait`). -/
theorem deferredCommands : Obligations.DeferredCommands := by
  refine ⟨fun s fid c hf hr ho hq hs hp hc hw => ?_, fun s fid c x hf hr ho hq hs hw hx => ?_, fun s fid c hf hw => ?_⟩
  · exact State.next_frame_eq s.streamCmd rfl (State.Fetched.runOp_of_mustWait ⟨hf, hr, hs, hq⟩ ho hp hc hw _)
  · have hpause := State.streamPause_of_open hx
    rw [State.answer, State.refused_of_opcode_ne (by rw [ho]; decide), State.cmd_fid_of_find hf] at hpause
    refine congrArg Host.Outcome.next ((State.takeEffect_of_free hf hr hq hs hw (by rw [ho]; rfl)).trans ?_)
    exact (congrArg s.streamCmd hpause).trans (State.streamCmd_complete (s.streamCmd_setStrms _) fid stOk [])
  · exact congrArg Host.Outcome.next (State.takeEffect_of_mustWait hf hw)

/-- Settles O19: each row acts by its equation (`State.streamOpen_of_free`, `State.onStrm_of_open`) or refuses (`State.streamOpen_of_bad_args`,
`State.onStrm_of_unknown`), and what it completes with lies within the frame of the stream rows (`State.CmdReady.streamRow_complete`). -/
theorem streamCommands : Obligations.StreamCommands := by
  refine ⟨fun s fid i c k hc ha hk hi => ?_, fun s fid c hc ha => ?_, fun s fid c x hx => ?_, fun s fid c hx => ?_⟩
  · exact hc.streamRow_complete (s.streamCmd_bindSeq_setStrms _ _ _ _) (State.streamOpen_of_free ha hk hi)
  · exact hc.streamRow_complete rfl (State.streamOpen_of_bad_args ha)
  · exact ⟨fun hc => hc.streamRow_done (by decide) (s.streamCmd_setStrms _) (State.streamPause_of_open hx),
      fun hc => hc.streamRow_done (by decide) (s.streamCmd_setStrms _) (State.onStrm_of_open hx _),
      fun hc => hc.streamRow_done (by decide) (s.streamCmd_setStrms _) (State.onStrm_of_open hx _),
      fun hc => hc.streamRow_done (by decide) (s.streamCmd_bindSeq_setStrms _ _ _ _) (State.onStrm_of_open hx _),
      fun hc => hc.streamRow_complete rfl (State.onStrm_of_open hx _)⟩
  · exact ⟨fun hc => hc.streamRow_complete rfl (State.onStrm_of_unknown hx _), fun hc => hc.streamRow_complete rfl (State.onStrm_of_unknown hx _),
      fun hc => hc.streamRow_complete rfl (State.onStrm_of_unknown hx _), fun hc => hc.streamRow_complete rfl (State.onStrm_of_unknown hx _),
      fun hc => hc.streamRow_complete rfl (State.onStrm_of_unknown hx _)⟩

end Sys2Proof.Machine

/- KV pools and sequences (R189 to R197). -/

namespace Sys2Proof.Machine

/-- Limbo pages of a pool without transfers all join the free list (R208). -/
theorem KvPool.release_limbo {k : KvPool} (h : k.holds = []) : k.release.limbo = [] := by
  simp [KvPool.release, h]

namespace State

variable {s t : State} {c : Cmd} {k : KvPool}

/- What the pool rows do. -/

theorem kvPoolCreate_of_room (ha : c.newPool.argsOk = true) (hk : s.kv? c.ctxNo = none)
    (ht : s.claimTiles c.ctxNo chargeKv c.newPool.metaTiles = .ok t) :
    s.kvPoolCreate c = (t.modCtx c.ctxNo (fun x => { x with kv := some c.newPool })).answer c stOk := by
  simp [kvPoolCreate, ha, hk, ht]

theorem kvPoolDestroy_of_empty (hk : s.kv? c.ctxNo = some k) (hs : k.seqs = []) :
    s.kvPoolDestroy c = ((s.modCtx c.ctxNo (fun x => { x with kv := none })).dropCharge c.ctxNo chargeKv).answer c stOk := by
  simp [kvPoolDestroy, hk, hs]

theorem kvPoolDestroy_of_open (hk : s.kv? c.ctxNo = some k) (hs : k.seqs ≠ []) : s.kvPoolDestroy c = s.answer c stKvSeqBound := by
  simp [kvPoolDestroy, hk, hs]

/-- A charge made or given up, and what its context then holds, lie within the frame of the stream rows. -/
theorem streamCmd_modCtx_of_charged (h : t = { s with ctxs := t.ctxs, tier := t.tier, dram := t.dram }) (n : Nat) (f : Ctx → Ctx) :
    s.streamCmd (t.modCtx n f) = t.modCtx n f := by
  rw [h]
  rfl

theorem streamCmd_dropCharge_modCtx (s : State) (n : Nat) (f : Ctx → Ctx) (m key : Nat) :
    s.streamCmd ((s.modCtx n f).dropCharge m key) = (s.modCtx n f).dropCharge m key := by
  rw [dropCharge_eq]
  rfl

/- The pool of a context after the operations that a fork ends with. -/

@[simp] theorem kv?_modKv_self (s : State) (n : Nat) (f : KvPool → KvPool) : (s.modKv n f).kv? n = (s.kv? n).map f := by
  simp only [kv?, modKv, State.ctx, modCtx_ctxs, AList.get?_upd_self]
  cases s.ctxs.get? n <;> rfl

@[simp] theorem kv?_modCmd (s : State) (fid : Nat) (f : Cmd → Cmd) (n : Nat) : (s.modCmd fid f).kv? n = s.kv? n := rfl

theorem SameBare.kv? (h : s.SameBare t) (n : Nat) : t.kv? n = s.kv? n := by
  have hkv (o : Option Ctx) : o.bind (fun x => x.kv) = (o.map bareOf).bind (fun x => x.kv) := by cases o <;> rfl
  rw [State.kv?, State.kv?, hkv, h.ctx n, ← hkv]

@[simp] theorem kv?_complete (s : State) (fid st : Nat) (r : Bytes) (n : Nat) : (s.complete fid st r).kv? n = s.kv? n :=
  (sameBare_complete s fid st r).kv? n

@[simp] theorem kv?_kvEvent (s : State) (m bit n : Nat) : (s.kvEvent m bit).kv? n = s.kv? n := by
  simp only [kvEvent, kv?, State.ctx, modCtx_ctxs, AList.get?_upd]
  split
  · next h =>
    rw [h]
    cases s.ctxs.get? m <;> rfl
  · rfl

/- A fork that copies nothing. -/

/-- The end of a fork, also of one that copied nothing, releases the limbo pages of a pool without transfers (R208). -/
theorem forkEnd_limbo (hp : c.job.pins = []) (hk : s.kv? c.ctxNo = some k) (hh : k.holds = []) :
    ((s.forkEnd c).kv? c.ctxNo).map KvPool.limbo = some [] := by
  simp only [forkEnd, dropJob, hp, List.foldl_nil, kv?_modCmd, kv?_modKv_self, hk, Option.map_some]
  exact congrArg some (KvPool.release_limbo (by simp [hh]))

/-- So a fork that is done leaves such a pool without limbo pages. -/
theorem forkDone_limbo (hp : c.job.pins = []) (hk : s.kv? c.ctxNo = some k) (hh : k.holds = []) (rec base n groups : Nat)
    (shared : List (Nat × Nat)) : ((s.forkDone c rec base n groups shared).kv? c.ctxNo).map KvPool.limbo = some [] := by
  unfold forkDone
  dsimp only
  rw [kv?_complete, ← forkEnd_limbo hp hk hh]
  split <;> simp [Function.comp_def]

/-- A fork that meets no page of the highest count is done at once. -/
theorem kvSeqFork_of_unsaturated {src : SeqRec} {r b : Nat} (hk : s.kv? c.ctxNo = some k) (hs : k.seqs.get? (c.fld 8 4) = some src)
    (hn : c.fld 12 4 ≤ src.length) (hg : cdiv (c.fld 12 4) k.p ≤ c.fld 16 4) (hp : k.place (c.fld 16 4) = some (r, b)) (hf : c.fork = none)
    (hc : ∀ e ∈ k.sharedEntries src (cdiv (c.fld 12 4) k.p), AList.getD k.counts e.2 0 < 65535) :
    s.kvSeqFork c = s.forkDone c r b (c.fld 12 4) (c.fld 16 4) (k.sharedEntries src (cdiv (c.fld 12 4) k.p)) := by
  have hfull : (k.sharedEntries src (cdiv (c.fld 12 4) k.p)).filter (fun e => 65535 ≤ AList.getD k.counts e.2 0) = [] :=
    List.filter_eq_nil_iff.mpr (fun e he => by simpa using hc e he)
  have hargs : ¬(src.length < c.fld 12 4 ∨ c.fld 16 4 < cdiv (c.fld 12 4) k.p) := by omega
  simp only [kvSeqFork, onPool, hk, hs, if_neg hargs, hp, hf, hfull, Option.isSome_none, Bool.false_eq_true, if_false, List.isEmpty_nil, if_true]

theorem exec_kvSeqFork {fid : Nat} (h : s.CmdReady fid 0x13 stBadField c) : exec (.kvSeqFork fid) s = .next (s.streamCmd (s.kvSeqFork c)) :=
  congrArg (fun t => Host.Outcome.next (s.streamCmd t)) (h.runOp _)

end State

/- A tile on which a fork that copies nothing changes more of its pool than the record, the list and the counts. -/

/-- KV_SEQ_FORK of the 128 positions of sequence 0, for one group. -/
def limboFork : Cmd :=
  { fid := 7, q := .pair 3, func := 0, ctx := some 5, entry := toLe (0x13 + 128 * 2 ^ 96 + 2 ^ 128) 64, stage := .fetched, recorded := false }

/-- Sequence 0, of one page. -/
def limboSeq : SeqRec := { length := 128, base := 0, groups := 1, binds := 0 }

/-- A pool of two pages: sequence 0 names page 0, and page 1 is in limbo although no transfer holds an epoch. -/
def limboPool : KvPool :=
  { base := 0, pages := 2, headDim := 32, fmt := 1, lanes := 1, maxSeqs := 2, entries := 4, epoch := 1, list := [(0, 0)], counts := [(0, 1)],
    prov := [], limbo := [(1, 0)], holds := [], seqs := [(0, limboSeq)] }

/-- The tile after reset, serving, with that pool in context 5 and the fork fetched. -/
def limboTile : State :=
  { State.reset with
    boot := { State.reset.boot with life := .serving }
    ctxs := [(5, { limboFork.newCtx State.reset 0 [] with kv := some limboPool })]
    cmds := { list := [limboFork], next := 8 } }

theorem limboTile_ready : limboTile.CmdReady 7 0x13 stBadField limboFork :=
  ⟨rfl, rfl, by decide +kernel, by decide +kernel, rfl, rfl, by decide +kernel, by decide +kernel⟩

/-- Settles O20: each row acts by its equation (`State.kvPoolCreate_of_room`, `State.kvPoolDestroy_of_empty`, `State.kvPoolDestroy_of_open`), and a
charge changes nothing outside the frame of the stream rows (`State.claimTiles_eq`, `State.dropCharge_eq`). -/
theorem kvPoolCommands : Obligations.KvPoolCommands := by
  refine ⟨fun s t fid c hc ha hk ht => ?_, fun s fid c k hc hk => ?_⟩
  · exact hc.streamRow_done (by decide) (State.streamCmd_modCtx_of_charged (State.claimTiles_eq ht) _ _) (State.kvPoolCreate_of_room ha hk ht)
  · split
    · next hs => exact hc.streamRow_done (by decide) (s.streamCmd_dropCharge_modCtx _ _ _ _) (State.kvPoolDestroy_of_empty hk hs)
    · next hs => exact hc.streamRow_done (by decide) rfl (State.kvPoolDestroy_of_open hk hs)

/-- Refutes O21: a fork that copies nothing ends as every fork does and releases the limbo pages that no transfer holds
(`State.forkDone_limbo`), while the statement's second clause has it change the record, the list and the counts alone. On `limboTile` page 1 is
such a page: the fork frees it, and the statement keeps it in limbo. The clause lacks the premise that a transfer holds every limbo page. -/
theorem not_kvSequenceCommands : ¬ Obligations.KvSequenceCommands := by
  intro h
  have hk : limboTile.kv? limboFork.ctxNo = some limboPool := rfl
  have hs : limboPool.seqs.get? (limboFork.fld 8 4) = some limboSeq := by decide +kernel
  have hn : limboFork.fld 12 4 ≤ 128 := by decide +kernel
  have hg : cdiv (limboFork.fld 12 4) limboPool.p ≤ limboFork.fld 16 4 := by decide +kernel
  have hp : limboPool.place (limboFork.fld 16 4) = some (1, 1) := by decide +kernel
  have hc : ∀ e ∈ limboPool.sharedEntries limboSeq (cdiv (limboFork.fld 12 4) limboPool.p),
      AList.getD limboPool.counts e.2 0 < 65535 := by decide +kernel
  obtain ⟨-, hshare, -⟩ := h
  have hclaim := hshare _ _ _ _ _ _ _ limboTile_ready hk hs hn hg hp rfl hc
  rw [State.exec_kvSeqFork limboTile_ready, State.kvSeqFork_of_unsaturated hk hs hn hg hp rfl hc] at hclaim
  have hlimbo := congrArg (fun t : State => (t.kv? limboFork.ctxNo).map KvPool.limbo) (Host.Outcome.next.inj hclaim)
  have hfreed := (State.forkDone_limbo (c := limboFork) rfl hk rfl 1 1 _ _ _).symm.trans hlimbo
  rw [State.kv?_complete, State.kv?_modKv_self, hk] at hfreed
  exact List.cons_ne_nil _ _ (Option.some.inj hfreed).symm

end Sys2Proof.Machine

/- Segment and model commands (R222 to R241). -/

namespace Sys2Proof.AList

/-- The lowest free key is not listed. -/
theorem get?_of_firstFree {α : Type} {l : AList α} {lo hi k : Nat} (h : l.firstFree lo hi = some k) : l.get? k = none := by
  have hfree := List.find?_some h
  simp only [Bool.and_eq_true, Bool.not_eq_true', has, Option.isSome_eq_false_iff, Option.isNone_iff_eq_none] at hfree
  exact hfree.2

end Sys2Proof.AList

namespace Sys2Proof.Machine

theorem Tile.pins_of_not_kept {t : Tile} (h : t.kept = false) : t.pins = 0 := by
  simp only [Tile.kept, Bool.or_eq_false_iff] at h
  obtain ⟨⟨⟨hpins, -⟩, -⟩, -⟩ := h
  simpa using hpins

namespace State

variable {s t : State} {c : Cmd} {fid : Nat}

/- What a segment or model row answers with. -/

/-- A tier row that is ready completes as its effect does. -/
theorem CmdReady.tierRow_complete {op own st : Nat} (h : s.CmdReady fid op own c) {e : State → Cmd → State} {t : State} {r : Bytes}
    (ht : s.tierCmd t = t) (he : e s c = t.complete c.fid st r) :
    (.next (s.tierCmd (s.runOp fid op own e)) : Result) = .next (t.complete fid st r) := by
  refine next_frame_eq s.tierCmd (tierCmd_complete ht fid st r) ?_
  rw [h.runOp, he, h.fid_eq]

/-- One that refuses, or changes nothing else, completes with its status alone. -/
theorem CmdReady.tierRow_answer {op own st : Nat} (h : s.CmdReady fid op own c) {e : State → Cmd → State} (he : e s c = s.answer c st) :
    (.next (s.tierCmd (s.runOp fid op own e)) : Result) = .next (s.complete fid st c.refused) :=
  h.tierRow_complete rfl he

/-- What one leaves besides: the parts that its frame lets through. -/
theorem CmdReady.tierRow_next {op own : Nat} (h : s.CmdReady fid op own c) {e : State → Cmd → State} (he : e s c = t) :
    (.next (s.tierCmd (s.runOp fid op own e)) : Result) = .next (s.tierCmd t) := by
  rw [h.runOp, he]

@[simp] theorem complete_nv (s : State) (fid st : Nat) (r : Bytes) : (s.complete fid st r).nv = s.nv := by
  rw [complete_eq_cplOf]
  rfl

@[simp] theorem complete_flash (s : State) (fid st : Nat) (r : Bytes) : (s.complete fid st r).flash = s.flash := by
  rw [complete_eq_cplOf]
  rfl

@[simp] theorem complete_dram (s : State) (fid st : Nat) (r : Bytes) : (s.complete fid st r).dram = s.dram := by
  rw [complete_eq_cplOf]
  rfl

theorem CmdReady.answer_gone {op own : Nat} (h : s.CmdReady fid op own c) (t : State) (st : Nat) : (t.answer c st).cmds.find fid = none :=
  h.fid_eq ▸ complete_gone t c.fid st c.refused

/- Attaching an object (R240). -/

section

variable {m : Model} {x : Ctx}

/-- A command that names an object of its function by its tag (R240). -/
theorem ownModel_filter_tag (hm : s.ownModel c = some m) (htag : m.tag = c.fld 16 8) :
    (s.ownModel c).filter (fun m => m.tag == c.fld 16 8) = some m := by
  simp [hm, htag]

theorem modelAttach_of_damaged (hm : s.ownModel c = some m) (htag : m.tag = c.fld 16 8) (hx : s.ctx c.ctxNo = some x) (hd : m.damaged = true) :
    s.modelAttach c = s.answer c stModelDamaged := by
  simp only [modelAttach, ownModel_filter_tag hm htag, hx, hd, if_true]

theorem modelAttach_of_attached (hm : s.ownModel c = some m) (htag : m.tag = c.fld 16 8) (hx : s.ctx c.ctxNo = some x) (hd : m.damaged = false)
    (ha : m.attached ≠ none) : s.modelAttach c = s.answer c stModelBusy := by
  simp only [modelAttach, ownModel_filter_tag hm htag, hx, hd, Option.isSome_iff_ne_none.mpr ha, Bool.false_eq_true, if_false, if_true]

/-- Marks an object as attached to a context. -/
def attached (s : State) (id ctx : Nat) : State :=
  { s with nv := { s.nv with models := s.nv.models.upd id (fun y => { y with attached := some ctx }) } }

theorem modelAttach_of_free (hm : s.ownModel c = some m) (htag : m.tag = c.fld 16 8) (hx : s.ctx c.ctxNo = some x) (ha : m.attached = none)
    (hd : m.damaged = false) (hprot : m.prot = x.confidential) (htop : c.fld 24 4 + m.segs ≤ 2 ^ 27) (hfree : x.segsIn (c.fld 24 4) m.segs = [])
    (hroom : x.segs.length + m.segs ≤ 2 ^ 20) (ht : s.mapSegs c.ctxNo 0 (m.segsAt (c.fld 8 2) (c.fld 24 4)) = .ok t) :
    s.modelAttach c = (((t.attached (c.fld 8 2) c.ctxNo).replayModel c.ctxNo (c.fld 8 2) m).answer c stOk) := by
  simp only [modelAttach, ownModel_filter_tag hm htag, hx, ha, hd, hprot, hfree, ht, Nat.not_lt.mpr htop, Nat.not_lt.mpr hroom, Option.isSome_none,
    bne_self_eq_false, List.isEmpty_nil, Bool.not_true, Bool.false_eq_true, if_false]
  rfl

end

/- Detaching an object whose tiles nothing keeps (R240). -/

/-- No tile of a context has a pin or a transfer that keeps it (R232). -/
def Unkept (s : State) (ctx : Nat) : Prop := ∀ i g, s.seg ctx i = some g → ∀ t ∈ g.tiles, t.kept = false

theorem unkept_of_ctx {ctx : Nat} {x : Ctx} (hx : s.ctx ctx = some x) (h : ∀ p ∈ x.segs, ∀ t ∈ p.2.tiles, t.kept = false) : s.Unkept ctx := by
  intro i g hg
  rw [seg, hx, Option.bind_some] at hg
  exact h _ (AList.mem_of_get? hg)

theorem evictSeg_of_unkept {ctx : Nat} (h : s.Unkept ctx) (i : Nat) : s.evictSeg ctx i = s := by
  unfold evictSeg
  split
  · rfl
  · next g hg =>
    refine List.foldlRecOn g.tiles.zipIdx _ (motive := fun t : State => t = s) rfl (fun t ht p hp => ?_)
    have hkept : p.1.kept = false := h i g hg _ (List.fst_mem_of_mem_zipIdx hp)
    rw [hkept, ht]
    rfl

theorem evictSegs_of_unkept {ctx : Nat} (h : s.Unkept ctx) (l : List Nat) : l.foldl (fun (t : State) i => t.evictSeg ctx i) s = s :=
  List.foldlRecOn l _ (motive := fun t : State => t = s) rfl (fun t ht i _ => by rw [ht, evictSeg_of_unkept h])

theorem seg_modSeg (s : State) (ctx i : Nat) (f : Seg → Seg) (n k : Nat) :
    (s.modSeg ctx i f).seg n k = if n = ctx ∧ k = i then (s.seg ctx i).map f else s.seg n k := by
  simp only [seg, modSeg, State.ctx, modCtx_ctxs, AList.get?_upd]
  by_cases hn : n = ctx
  · subst hn
    cases s.ctxs.get? n <;> simp [AList.get?_upd]
  · simp [hn]

/-- A change of a tile that gives it no pin and no transfer keeps no tile. -/
theorem Unkept.modTile {n : Nat} (h : s.Unkept n) (ctx i k : Nat) {f : Tile → Tile} (hf : ∀ t, t.kept = false → (f t).kept = false) :
    (s.modTile ctx i k f).Unkept n := by
  intro j g hg
  rw [State.modTile, seg_modSeg] at hg
  split at hg
  · next heq =>
    obtain ⟨rfl, rfl⟩ := heq
    obtain ⟨g, hold, rfl⟩ := Option.map_eq_some_iff.mp hg
    intro t ht
    obtain ⟨m, hm⟩ := List.mem_iff_getElem?.mp ht
    rw [List.getElem?_modify] at hm
    obtain ⟨y, hy, rfl⟩ := Option.map_eq_some_iff.mp hm
    have hkept := h j g hold y (List.mem_of_getElem? hy)
    split
    · exact hf y hkept
    · exact hkept
  · exact h j g hg

theorem Unkept.orphan {n : Nat} (h : s.Unkept n) (ctx i k : Nat) : (s.orphan ctx i k).Unkept n := by
  unfold State.orphan
  split
  · refine Unkept.modTile (s := { s with tier := _ }) h ctx i k (fun t ht => ?_)
    simp [Tile.kept, Tile.pins_of_not_kept ht]
  · exact h

theorem Unkept.orphanSeg {n : Nat} (h : s.Unkept n) (ctx i : Nat) : (s.orphanSeg ctx i).Unkept n :=
  List.foldlRecOn _ _ (motive := fun t : State => t.Unkept n) h (fun _ ht p _ => ht.orphan p.1 p.2.1 p.2.2)

theorem Unkept.any_eq_false {ctx : Nat} (h : s.Unkept ctx) {p : Tile → Bool} (hp : ∀ t, t.kept = false → p t = false) (sgs : List Nat) :
    sgs.any (fun i => (s.seg ctx i).any (fun g => g.tiles.any p)) = false := by
  refine List.any_eq_false.mpr (fun i _ => ?_)
  cases hg : s.seg ctx i with
  | none => simp
  | some g => simpa using fun t ht => hp t (h i g hg t ht)

/-- Segments whose tiles nothing keeps are freed and unmapped at once (R241). -/
theorem dropSegs_of_unkept (h : s.Unkept c.ctxNo) (sgs : List Nat) (done : State → State) :
    s.dropSegs c sgs done = done (((sgs.foldl (fun (t : State) i => t.freeSeg c.ctxNo i) s).unmapSegs c.ctxNo sgs).settleGens) := by
  have hbusy := h.any_eq_false (p := Tile.kept) (fun _ ht => ht) sgs
  simp only [dropSegs, hbusy, Bool.false_eq_true, if_false]

theorem modelDetach_of_unkept {m : Model} {x : Ctx} (hm : s.ownModel c = some m) (ha : m.attached = c.ctx) (hx : s.ctx c.ctxNo = some x)
    (h : s.Unkept c.ctxNo) : ∃ t : State, s.modelDetach c = (t.detached (c.fld 8 2)).answer c stOk := by
  have hown : (s.ownModel c).filter (fun m => m.attached == c.ctx) = some m := by simp [hm, ha]
  have hpins (sgs : List Nat) := h.any_eq_false (p := fun y => y.pins != 0) (fun t ht => by simp [Tile.pins_of_not_kept ht]) sgs
  simp only [modelDetach, hown, hx, evictSegs_of_unkept h, hpins, Bool.false_eq_true, if_false]
  refine ⟨_, dropSegs_of_unkept ?_ _ _⟩
  exact List.foldlRecOn _ _ (motive := fun t : State => t.Unkept c.ctxNo) h (fun _ ht i _ => ht.orphanSeg _ i)

theorem detached_attached {id : Nat} {y : Model} (h : (s.detached id).nv.models.get? id = some y) : y.attached = none := by
  rw [detached, AList.get?_upd_self] at h
  obtain ⟨m, -, rfl⟩ := Option.map_eq_some_iff.mp h
  rfl

/- Removing an object, and what one is (R239, R241). -/

theorem modelRemove_of_attached {m : Model} (hm : s.ownModel c = some m) (htag : m.tag = c.fld 16 8) (ha : m.attached ≠ none) :
    s.modelRemove c = s.answer c stModelBusy := by
  simp only [modelRemove, ownModel_filter_tag hm htag, Option.isSome_iff_ne_none.mpr ha, if_true]

/-- An object that is attached nowhere is gone with its pages; the rest of what changes are decode-table generations and the completion. -/
theorem modelRemove_of_free {m : Model} (hm : s.ownModel c = some m) (htag : m.tag = c.fld 16 8) (ha : m.attached = none) :
    ∃ t : State, s.modelRemove c = t.answer c stOk ∧ t.nv.models = s.nv.models.erase (c.fld 8 2) ∧
      t.flash = s.flash.unmap ((s.flash.map.filter (fun p => m.units.contains (p.1 / 128))).map (·.1)) ∧ t.dram = s.dram := by
  simp only [modelRemove, ownModel_filter_tag hm htag, ha, Option.isSome_none, Bool.false_eq_true, if_false]
  exact ⟨_, rfl, rfl, rfl, rfl⟩

theorem modelQuery_of_own {m : Model} (hm : s.ownModel c = some m) :
    s.modelQuery c = s.complete c.fid stOk
      (resultAt [(16, toLe m.segs 4 ++ toLe m.serial 4 ++ toLe (b2n m.damaged + 2 * b2n m.attached.isSome) 1)]) := by
  simp only [modelQuery, hm]

/- Installing an object (R239, R240): what a refusal and an installation leave of the objects. -/

/-- A context fault changes no more than completions can. -/
theorem faultCtx_cplOf (s : State) (ctx cls status : Nat) : s.faultCtx ctx cls status = s.cplOf (s.faultCtx ctx cls status) := by
  unfold faultCtx
  split
  · rfl
  · dsimp only
    refine List.foldlRecOn _ _ (motive := fun u : State => u = s.cplOf u) ?_ (fun u hu p _ => ?_)
    · rw [(posts_logBoth _ _ _).parts]
      rfl
    · rw [complete_eq_cplOf, hu]
      rfl

@[simp] theorem faultCtx_nv (s : State) (ctx cls status : Nat) : (s.faultCtx ctx cls status).nv = s.nv := by
  rw [faultCtx_cplOf]
  rfl

theorem winRead_nv (s : State) (ctx win off n : Nat) (seq : Option Nat) (r : HostRead) : (s.winRead ctx win off n seq r).s.nv = s.nv := by
  rw [winRead_readOf]
  rfl

@[simp] theorem answer_nv (s : State) (c : Cmd) (st : Nat) : (s.answer c st).nv = s.nv := complete_nv s c.fid st c.refused

theorem claimTable_nv {table : Bytes} {p : Option Nat} {g : Nat} {w : Bool} (h : s.claimTable table p = (some (t, g), w)) : t.nv = s.nv := by
  unfold claimTable at h
  dsimp only at h
  split at h
  · cases h; rfl
  · split at h
    · cases h; rfl
    · split at h
      · cases h
      · split at h <;> cases h
        rfl

theorem claimTables_nv {b : Bytes} {l : List Nat} {tabs : AList (Nat × Nat)} {w : Bool} (h : s.claimTables b l = (some (t, tabs), w)) :
    t.nv = s.nv := by
  induction l generalizing s t tabs w with
  | nil => cases h; rfl
  | cons i l ih =>
    unfold claimTables at h
    split at h
    · cases h
    · next u g _ hclaim =>
      split at h
      · next hrest =>
        cases h
        exact (ih hrest).trans (claimTable_nv hclaim)
      · next hrest => exact (hrest _ _ _ h).elim

/-- An installation that has completed: the objects that stood, and a new one of the submitting function under the next serial. -/
structure Installed (nv : Nv) (c : Cmd) (u : State) : Prop where
  gone : u.cmds.find c.fid = none
  serial : u.nv.nextSerial = nv.nextSerial + 1
  object : ∃ id m, nv.models.get? id = none ∧ u.nv.models = nv.models.set id m ∧ m.serial = nv.nextSerial ∧ m.func = c.func ∧
    m.tag = c.fld 32 8 ∧ m.attached = none ∧ m.damaged = false

/-- A completion after the object has joined the others ends an installation. -/
theorem Installed.complete {nv : Nv} {id : Nat} {m : Model} {gens : AList Gen} {u : State} (hid : nv.models.get? id = none)
    (hu : u.nv = { nv with models := nv.models.set id m, nextSerial := nv.nextSerial + 1, gens := gens }) (hserial : m.serial = nv.nextSerial)
    (hfunc : m.func = c.func) (htag : m.tag = c.fld 32 8) (hattached : m.attached = none) (hdamaged : m.damaged = false) (st : Nat) (r : Bytes) :
    Installed nv c (u.complete c.fid st r) := by
  have hnv := (complete_nv u c.fid st r).trans hu
  exact ⟨complete_gone u c.fid st r, congrArg Nv.nextSerial hnv, id, m, hid, congrArg Nv.models hnv, hserial, hfunc, htag, hattached, hdamaged⟩

/-- A checked container becomes an object, or no object changes. -/
theorem installObject_outcome (s : State) (c : Cmd) (b : Bytes) (ts : List Tensor) :
    (s.installObject c b ts).nv = s.nv ∨ Installed s.nv c (s.installObject c b ts) := by
  unfold installObject
  dsimp only
  split
  · exact .inl (answer_nv _ _ _)
  · split
    · exact .inl (answer_nv _ _ _)
    · next id hid =>
      split
      · exact .inl rfl
      · exact .inl (answer_nv _ _ _)
      · next t tabs _ htabs =>
        have hnv : t.nv = s.nv := claimTables_nv htabs
        split
        · exact .inl (answer_nv _ _ _)
        · rw [← hnv] at hid ⊢
          refine .inr (.complete (c := c) (m := ?m) (gens := ?gens) (AList.get?_of_firstFree hid) ?nv ?serial ?func ?tag ?attached ?damaged
            _ _)
          case nv => exact rfl
          all_goals rfl

theorem modelInstall_outcome (hb : s.flash.blocked = false) (hp : s.flash.paused = false) (r : HostRead) :
    (s.modelInstall c r).nv = s.nv ∨ Installed s.nv c (s.modelInstall c r) := by
  have hread := s.winRead_nv c.ctxNo (c.fld 8 2) (c.fld 16 8) (c.fld 24 8) none r
  unfold modelInstall
  rw [hb, hp, Bool.or_self, if_neg Bool.false_ne_true]
  dsimp only
  generalize s.winRead c.ctxNo (c.fld 8 2) (c.fld 16 8) (c.fld 24 8) none r = w at hread ⊢
  have hans (st : Nat) : ((w.s.countViol c.ctxNo w.viol).answer c st).nv = s.nv := (answer_nv _ _ _).trans hread
  split
  · exact .inl (by rw [answer_nv, faultCtx_nv, hread])
  · next b hdata =>
    split
    · exact .inl (hans _)
    · split
      · exact .inl (hans _)
      · split
        · exact .inl (hans _)
        · split
          · exact .inl (hans _)
          · next ts hts =>
            split
            · exact .inl (hans _)
            · rw [← hread]
              exact installObject_outcome (w.s.countViol c.ctxNo w.viol) c b ts

/-- The row of MODEL_INSTALL waits where it stands for a read tag (R357). -/
theorem modelInstall_row_outcome (h : s.CmdReady fid 0x20 stBadField c) (hb : s.flash.blocked = false) (hp : s.flash.paused = false)
    (r : HostRead) : ∃ t, exec (.modelInstall fid r) s = .next (s.tierCmd t) ∧ (t.nv = s.nv ∨ Installed s.nv c t) := by
  refine ⟨_, rfl, ?_⟩
  rcases Nat.eq_zero_or_pos s.freeTags with hf | hf
  · left
    simp [runRead, runCmd, h.found, h.runs, h.opcode, h.queue, h.fetched, h.permits, h.passes, hf]
  · rw [h.runRead hf]
    exact modelInstall_outcome hb hp r

end State

/-- The parts of a state that an attach leaves: its replay record and its completion change no object, no page and no frame. -/
theorem State.attach_leaves (t : State) (id ctx : Nat) (m : Model) (c : Cmd) (st : Nat) :
    (((t.attached id ctx).replayModel ctx id m).answer c st).flash = t.flash ∧
      (((t.attached id ctx).replayModel ctx id m).answer c st).dram = t.dram ∧
      (((t.attached id ctx).replayModel ctx id m).answer c st).nv = (t.attached id ctx).nv := by
  rw [State.answer, State.complete_flash, State.complete_dram, State.complete_nv, State.replayModel, (State.posts_replayRec _ _ _ _ _ _ _).parts]
  exact ⟨rfl, rfl, rfl⟩

/-- Settles O23: each row acts by its equation (`State.modelAttach_of_free`, `State.modelDetach_of_unkept`, `State.modelRemove_of_free`,
`State.modelQuery_of_own`) or refuses, and an installation ends in one of the two ways of `State.modelInstall_outcome`. -/
theorem modelCommands : Obligations.ModelCommands := by
  refine ⟨fun s t fid c m x hc hm htag hx ha hd hprot htop hfree hroom ht => ?_, fun s fid c m hc hm htag hx hd ha => ?_,
    fun s fid c m hc hm htag hx hd => ?_, fun s fid c m x hc hm ha hx hkept => ?_, fun s fid c m hc hm htag ha => ?_,
    fun s fid c m hc hm htag ha => hc.tierRow_answer (State.modelRemove_of_attached hm htag ha),
    fun s fid c m hc hm => hc.tierRow_complete rfl (State.modelQuery_of_own hm), fun s fid c r hc hb hp => ?_⟩
  · obtain ⟨hflash, hdram, hnv⟩ := t.attach_leaves (c.fld 8 2) c.ctxNo m c stOk
    exact ⟨_, hc.tierRow_next (State.modelAttach_of_free hm htag hx ha hd hprot htop hfree hroom ht), hc.answer_gone _ _, hflash, hdram, rfl,
      congrArg Nv.models hnv⟩
  · obtain ⟨x, hx⟩ := Option.isSome_iff_exists.mp hx
    exact hc.tierRow_answer (State.modelAttach_of_attached hm htag hx hd ha)
  · obtain ⟨x, hx⟩ := Option.isSome_iff_exists.mp hx
    exact hc.tierRow_answer (State.modelAttach_of_damaged hm htag hx hd)
  · obtain ⟨t, ht⟩ := State.modelDetach_of_unkept hm ha hx (State.unkept_of_ctx hx hkept)
    have hmodels := congrArg (fun nv : Nv => nv.models.get? (c.fld 8 2)) (State.answer_nv (t.detached (c.fld 8 2)) c stOk)
    exact ⟨_, hc.tierRow_next ht, hc.answer_gone _ _, rfl, rfl, rfl, fun y hy => State.detached_attached (hmodels.symm.trans hy)⟩
  · obtain ⟨t, ht, hmodels, hflash, hdram⟩ := State.modelRemove_of_free hm htag ha
    exact ⟨_, hc.tierRow_next ht, hc.answer_gone _ _, (congrArg Nv.models (State.answer_nv t c stOk)).trans hmodels,
      (t.complete_flash _ _ _).trans hflash, rfl, (t.complete_dram _ _ _).trans hdram⟩
  · obtain ⟨t, hexec, hnv | ⟨hgone, hserial, hobject⟩⟩ := State.modelInstall_row_outcome hc hb hp r
    · have hmodels : t.nv.models = s.nv.models := congrArg Nv.models hnv
      have hserial : t.nv.nextSerial = s.nv.nextSerial := congrArg Nv.nextSerial hnv
      exact ⟨_, hexec, rfl, rfl, rfl, rfl, .inl ⟨hmodels, hserial⟩⟩
    · exact ⟨_, hexec, rfl, rfl, rfl, rfl, .inr ⟨hc.fid_eq ▸ hgone, hserial, hobject⟩⟩

end Sys2Proof.Machine

/- SEG_MAP of DRAM segments on a tile whose frame list names a frame twice (R226, R241). -/

namespace Sys2Proof.Machine

/-- SEG_MAP of kind DRAM for segments 0 and 1. -/
def twiceMap : Cmd :=
  { fid := 7, q := .pair 3, func := 0, ctx := some 5, entry := toLe (0x18 + 2 * 2 ^ 96 + 2 ^ 128) 64, stage := .fetched, recorded := false }

/-- A context of the PF with a guarantee of three frames, for two segments and their table. -/
def twiceCtx : Ctx := { twiceMap.newCtx State.reset 0 [] with guarantee := 3 }

/-- The tile after reset, serving, with the SEG_MAP fetched, on which frame 9 stands twice among the frames kept for context 5. -/
def twiceTile : State :=
  { State.reset with
    boot := { State.reset.boot with life := .serving }
    ctxs := [(5, twiceCtx)]
    cmds := { list := [twiceMap], next := 8 }
    tier := { State.reset.tier with frames := [(9, .kept 5), (9, .kept 5)] } }

theorem twiceTile_ready : twiceTile.CmdReady 7 0x18 stBadField twiceMap :=
  ⟨rfl, rfl, by decide +kernel, by decide +kernel, rfl, rfl, by decide +kernel, by decide +kernel⟩

/-- The frames that a context takes for segments once a claim is granted. -/
def ClaimRes.takes (r : ClaimRes) (ctx : Nat) (l : List Nat) : Option (List (Nat × Nat)) :=
  match r with
  | .ok t => (t.takeFrames ctx l).map (·.2)
  | _ => none

theorem ClaimRes.takes_eq_some {r : ClaimRes} {ctx : Nat} {l : List Nat} {fs : List (Nat × Nat)} (h : r.takes ctx l = some fs) :
    ∃ t u, r = .ok t ∧ t.takeFrames ctx l = some (u, fs) := by
  cases r with
  | ok t =>
    obtain ⟨⟨u, gs⟩, hu, rfl⟩ := Option.map_eq_some_iff.mp h
    exact ⟨t, u, rfl, hu⟩
  | wait n => cases h
  | refused => cases h

/-- The charge for the table takes frame 9 and leaves its second entry, which then serves both segments. -/
theorem twiceTile_takes :
    (twiceTile.mapSegs twiceMap.ctxNo (twiceMap.fld 12 4) ((List.range (twiceMap.fld 12 4)).map (fun i =>
      (i + twiceMap.fld 8 4, twiceMap.newSeg twiceCtx.confidential i 0 0)))).takes twiceMap.ctxNo
        ((List.range (twiceMap.fld 12 4)).map (· + twiceMap.fld 8 4)) = some [(0, 9), (1, 9)] := by
  decide +kernel

/-- Refutes O22: its third clause has every frame that SEG_MAP takes zeroed for its own segment, and where the frame list names a frame twice two
segments take that frame. On `twiceTile` both segments take frame 9, which cannot be zeroed for segment 0 and for segment 1. The clause lacks the
premise that the frame list is in its canonical form, each frame once. -/
theorem not_segmentCommands : ¬ Obligations.SegmentCommands := by
  intro h
  have hcount : twiceMap.fld 12 4 ≠ 0 := by decide +kernel
  have hkind : twiceMap.fld 16 1 % 8 = 1 := by decide +kernel
  have htop : twiceMap.fld 8 4 + twiceMap.fld 12 4 ≤ 2 ^ 27 := by decide +kernel
  have hfree : twiceCtx.segsIn (twiceMap.fld 8 4) (twiceMap.fld 12 4) = [] := rfl
  have hroom : twiceCtx.segs.length + twiceMap.fld 12 4 ≤ 2 ^ 20 := by decide +kernel
  obtain ⟨t, u, ht, hu⟩ := ClaimRes.takes_eq_some twiceTile_takes
  obtain ⟨-, -, hdram, -⟩ := h
  obtain ⟨v, d, -, -, -, -, -, -, -, hfs⟩ := hdram _ _ _ _ _ _ _ twiceTile_ready hcount hkind htop rfl hfree hroom ht hu
  have htwice := (hfs (0, 9) (by simp)).symm.trans (hfs (1, 9) (by simp))
  simp at htwice

end Sys2Proof.Machine

/- Promotions, evictions, demotions and zeroed frames (R230 to R244, R254, R386). -/

namespace Sys2Proof.Machine

namespace State

variable {s : State}

/- The end of a promotion. -/

section

variable {c g i : Nat} {bad : List (Nat × Nat)}

/-- What becomes of a tile whose promotion ends, with the codewords that no read gave and the state after their pages are counted (R242 to R244,
R264). -/
def promoEnd (s u : State) (c g i : Nat) (sg : Seg) (t : Tile) (words : List (Nat × Nat)) : State :=
  let readable := words.isEmpty && !s.masterLost sg i
  let b := s.lowerBytes c g sg i t
  if sg.kind = .model then
    (if readable && s.digestOk sg i t b then u.promoted c g i t b else u.weightFailed c g i sg.handle t readable)
  else if !readable then u.spillLost c g i
  else if s.badBlocks sg i t ≠ 0 then (u.countTalus (s.badBlocks sg i t)).spillLost c g i
  else u.promoted c g i t b

theorem promoteDone_of_listed {sg : Seg} {t : Tile} (hr : s.running = true) (hp : s.tier.promos.contains (c, g, i) = true)
    (hg : s.seg c g = some sg) (ht : s.tile c g i = some t)
    (hn : s.tier.ghosts.find? (fun x => x.ctx == c && x.seg == g && x.tile == i) = none) {words : List (Nat × Nat)}
    (hw : words = bad.dedup.filter (fun w => decide (w.1 < 4) && decide (w.2 < 8))) {u : State}
    (hu : u = (s.endPromo c g i).lostPages ((words.map (fun w => s.lpage sg i + w.1)).dedup) words.length) :
    s.promoteDone c g i bad = (s.promoEnd u c g i sg t words).wakeAll := by
  subst hw hu
  simp only [promoteDone, hn, hr, hp, hg, ht, Bool.not_true, Bool.or_self, Bool.false_eq_true, if_false]
  rfl

theorem promoteDone_of_ghost {x : Ghost} (hr : s.running = true)
    (hx : s.tier.ghosts.find? (fun x => x.ctx == c && x.seg == g && x.tile == i) = some x) :
    s.promoteDone c g i bad = (s.endGhost x).wakeAll := by
  simp only [promoteDone, hx, hr, if_true]

theorem promoteDone_of_unlisted (hp : s.tier.promos.contains (c, g, i) = false)
    (hn : s.tier.ghosts.find? (fun x => x.ctx == c && x.seg == g && x.tile == i) = none) : s.promoteDone c g i bad = s := by
  simp only [promoteDone, hn, hp, Bool.not_false, Bool.or_true, if_true]

variable {u : State} {sg : Seg} {t : Tile} {words : List (Nat × Nat)}

theorem promoEnd_of_model (hk : sg.kind = .model) :
    s.promoEnd u c g i sg t words =
      if words = [] ∧ s.masterLost sg i = false ∧ s.digestOk sg i t (s.lowerBytes c g sg i t) = true then u.promoted c g i t (s.lowerBytes c g sg i t)
      else u.weightFailed c g i sg.handle t (words.isEmpty && !s.masterLost sg i) := by
  simp only [promoEnd, if_pos hk, Bool.and_eq_true, List.isEmpty_iff, Bool.not_eq_true', and_assoc]

theorem promoEnd_of_spill (hk : sg.kind ≠ .model) (hw : words = []) (hl : s.masterLost sg i = false) (hb : s.badBlocks sg i t = 0) :
    s.promoEnd u c g i sg t words = u.promoted c g i t (s.lowerBytes c g sg i t) := by
  simp [promoEnd, hk, hw, hl, hb]

theorem promoEnd_of_lost_spill (hk : sg.kind ≠ .model) (hl : words ≠ [] ∨ s.masterLost sg i = true) :
    s.promoEnd u c g i sg t words = u.spillLost c g i := by
  have hread : (words.isEmpty && !s.masterLost sg i) = false := by
    rcases hl with h | h <;> simp [h]
  simp [promoEnd, hk, hread]

end

/- Evictions ahead of need. -/

theorem evictMore_of_short {c : Nat} {t : State} (hr : s.f2Runs = true) (hc : (s.ctx c).isSome = true) (hf : s.freeSlots c < 64)
    (ht : s.clockEvict c = some t) : s.evictMore c = t := by
  simp [evictMore, hr, hc, hf, ht]

theorem evictMore_of_room {c : Nat} (hf : 64 ≤ s.freeSlots c) : s.evictMore c = s := by
  simp [evictMore, Nat.not_lt.mpr hf]

/- Demotions. -/

theorem demoteDone_of_written {c g i : Nat} {sg : Seg} {t : Tile} {b : Bytes} {p : Bytes × List SpillIx} {f : Flash} (hr : s.running = true)
    (hd : s.tier.demos.contains (c, g, i) = true) (hg : s.seg c g = some sg) (ht : s.tile c g i = some t) (hst : t.st = .demoting)
    (hw : s.worn = false) (hb : s.dram.readFrame t.frame t.off tileBytes = some b) (hpulse : s.flash.pulses = true)
    (hp : p = packTile i sg.prot (closeWith (s.tileKeys c g sg i) b)) (hf : s.flash.writeTile .spill (s.lpage sg i) p.1 = some f) :
    s.demoteDone c g i = ((((({ s.endDemo c g i with flash := f } : State).settleSpares s.flash.spares).modTile c g i
      (fun x => { x with index := p.2 })).leave c g i t).wakeAll) := by
  subst hp
  simp only [demoteDone, hr, hd, hg, ht, hst, hw, hb, hpulse, hf, Bool.not_true, Bool.or_self, Bool.false_eq_true, if_false, ne_eq,
    not_true_eq_false]

/- Zeroed frames. -/

theorem frameZero_of_unclaimed {f : Nat} (hr : s.f2Runs = true) (hf : s.tier.frames.get? f = some (.zeroing none))
    (hc : s.tier.claims.get? f = none) :
    s.frameZero f = ((({ s with dram := s.dram.zeroFrame f 0 frameBytes } : State).freeFrame f).retireStep (f / groupFrames)).wakeAll := by
  simp [frameZero, hr, hf, hc]

theorem frameZero_of_claimed {f c : Nat} (hr : s.f2Runs = true) (hf : s.tier.frames.get? f = some (.zeroing none))
    (hc : s.tier.claims.get? f = some c) :
    s.frameZero f = (({ s with dram := s.dram.zeroFrame f 0 frameBytes, tier := { s.tier with claims := s.tier.claims.erase f } } : State).setFrame f
      (.kept c)).wakeAll := by
  simp [frameZero, hr, hf, hc]

theorem frameZero_of_segment {f c g : Nat} (hr : s.f2Runs = true) (hf : s.tier.frames.get? f = some (.zeroing (some (c, g)))) :
    s.frameZero f = (s.setFrame f (.segment c g)).mapDone c g := by
  simp [frameZero, hr, hf]

end State

/-- Settles O43: each row acts by its equation (`State.promoteDone_of_listed` with the cases of `State.promoEnd`, `State.evictMore_of_short`,
`State.demoteDone_of_written`, `State.frameZero_of_unclaimed` and its companions), and a row whose condition fails leaves a calm tile as it is. -/
theorem tiersProceed : Obligations.TiersProceed := by
  refine ⟨fun s u c g i bad words sg t hr hp hg ht hn hw hu => ?_,
    fun s c g i bad x hr hx => State.next_coreDone_eq (State.promoteDone_of_ghost hr hx),
    fun s c g i bad hcalm hp hn => ?_,
    fun s t c hr hc hf ht => State.next_coreDone_eq (State.evictMore_of_short hr hc hf ht),
    fun s c hcalm hf => ?_,
    fun s c g i sg t b p f hr hd hg ht hst hw hb hpulse hp hf =>
      State.next_coreDone_eq (State.demoteDone_of_written hr hd hg ht hst hw hb hpulse hp hf),
    fun s f hr hf => ⟨fun hc => State.next_coreDone_eq (State.frameZero_of_unclaimed hr hf hc),
      fun c hc => State.next_coreDone_eq (State.frameZero_of_claimed hr hf hc)⟩,
    fun s f c g hr hf => State.next_coreDone_eq (State.frameZero_of_segment hr hf)⟩
  · have hend := State.promoteDone_of_listed hr hp hg ht hn hw hu
    refine ⟨fun hk => State.next_coreDone_eq ?_, fun hk hwords hl hb => State.next_coreDone_eq ?_, fun hk hl => State.next_coreDone_eq ?_⟩
    · rw [hend, State.promoEnd_of_model hk, apply_ite State.wakeAll]
    · rw [hend, State.promoEnd_of_spill hk hwords hl hb]
    · rw [hend, State.promoEnd_of_lost_spill hk hl]
      rfl
  · exact (State.next_coreDone_eq (State.promoteDone_of_unlisted hp hn)).trans (congrArg Host.Outcome.next (State.coreDone_self hcalm))
  · exact (State.next_coreDone_eq (State.evictMore_of_room hf)).trans (congrArg Host.Outcome.next (State.coreDone_self hcalm))

end Sys2Proof.Machine

namespace Sys2Proof.Machine

/- Channels after an update, and what blocks and rows hold (R272 to R274, R280). -/

namespace Dram

variable {d : Dram} {c i k : Nat} {f : DramChan → DramChan}

theorem chan_setChan_self (h : c < d.chans.length) (f : DramChan → DramChan) : (d.setChan c f).chan c = f (d.chan c) := by
  simp [chan, setChan, h]

theorem chan_setChan_ne (h : i ≠ c) (f : DramChan → DramChan) : (d.setChan c f).chan i = d.chan i := by
  simp [chan, setChan, List.getD_eq_getElem?_getD, List.getElem?_modify_ne _ _ h.symm]

theorem setChan_of_length_le (h : d.chans.length ≤ c) (f : DramChan → DramChan) : d.setChan c f = d := by
  rw [setChan, List.modify_eq_self h]

/-- What a change of channels keeps of every channel, it keeps of each of them. -/
theorem chan_setChan_kept {α : Type} (g : DramChan → α) (h : ∀ x, g (f x) = g x) : g ((d.setChan c f).chan i) = g (d.chan i) := by
  by_cases hi : i = c
  · subst hi
    rcases Nat.lt_or_ge i d.chans.length with hl | hl
    · rw [chan_setChan_self hl, h]
    · rw [setChan_of_length_le hl]
  · rw [chan_setChan_ne hi]

/-- The array reads alike while no channel changes its state (R289). -/
theorem array_setChan (h : ∀ x, (f x).state = x.state) : (d.setChan c f).array k = d.array k := by
  rw [array, chan_setChan_kept DramChan.state h]
  rfl

end Dram

/-- The place of a block in its row leads back to the block (R271). -/
theorem slotBlock_blockSlot {idx : Nat} (h : idx < rankBlocks) : slotBlock (blockBank 0 idx).1 (blockBank 0 idx).2 (blockSlot idx) = idx := by
  simp only [slotBlock, blockBank, blockSlot, frameBlocks, rankBlocks] at *
  omega

theorem blockSlot_lt (idx : Nat) : blockSlot idx < 30 := Nat.mod_lt _ (by decide)

theorem keyIdx_lt (k : Nat) : keyIdx k < rankBlocks := Nat.mod_lt _ (by decide)

theorem keyIdx_le (k : Nat) : keyIdx k ≤ k := Nat.mod_le _ _

theorem keyChan_blockKey {c r x : Nat} (hr : r < 2) (hx : x < rankBlocks) : keyChan (blockKey c r x) = c := by
  simp only [keyChan, blockKey, rankBlocks] at *
  omega

/- Numbers given as a sum of distinct powers of two. -/

theorem sum_two_pow_lt (p : Nat → Bool) (n : Nat) : ((List.range n).map (fun s => if p s then 2 ^ s else 0)).sum < 2 ^ n := by
  induction n with
  | zero => exact Nat.one_pos
  | succ n ih =>
    rw [List.sum_range_succ, Nat.pow_succ]
    split <;> omega

theorem testBit_sum_two_pow (p : Nat → Bool) {n i : Nat} (h : i < n) :
    ((List.range n).map (fun s => if p s then 2 ^ s else 0)).sum.testBit i = p i := by
  induction n with
  | zero => exact absurd h (Nat.not_lt_zero i)
  | succ n ih =>
    rw [List.sum_range_succ]
    have hlt := sum_two_pow_lt p n
    rcases Nat.lt_or_eq_of_le (Nat.le_of_lt_succ h) with hi | rfl
    · split
      · rw [Nat.add_comm, Nat.testBit_two_pow_add_gt hi, ih hi]
      · exact ih hi
    · cases hp : p i
      · simpa using Nat.testBit_lt_two_pow hlt
      · simp [Nat.add_comm, Nat.testBit_two_pow_add_eq, Nat.testBit_lt_two_pow hlt]

/-- The slot of a block in POISON (R272). -/
theorem Dram.poisonWord_testBit (d : Dram) (base bank row : Nat) {i : Nat} (h : i < 30) :
    (d.poisonWord base bank row).testBit i = d.poison.contains (base + slotBlock bank row i) :=
  testBit_sum_two_pow (fun s => d.poison.contains (base + slotBlock bank row s)) h

theorem Dram.poisonWord_testBit_self (d : Dram) (k : Nat) :
    (d.poisonWord (k - keyIdx k) (blockBank 0 (keyIdx k)).1 (blockBank 0 (keyIdx k)).2).testBit (blockSlot (keyIdx k)) = d.poison.contains k := by
  rw [d.poisonWord_testBit _ _ _ (blockSlot_lt _), slotBlock_blockSlot (keyIdx_lt k), Nat.sub_add_cancel (keyIdx_le k)]

namespace State

variable {s : State} {k : Nat} {kept : Option (Option Bytes)} {e : List (Nat × Nat)} {who : Requester} {scrub : Bool}

/- A block that comes from the array with an error pattern on its codeword and none on the poison words of its row (R272 to R274). -/

theorem errWord_of_code {e : List (Nat × Nat)} (h : ∀ p ∈ e, p.1 < 72) {n : Nat} (hn : 72 ≤ n) : errWord e n = 0 := by
  unfold errWord
  induction e with
  | nil => rfl
  | cons p e ih =>
    have hp : ¬ (n ≤ p.1 ∧ p.1 < n + 4) := fun hle => absurd (h p List.mem_cons_self) (by omega)
    rw [List.foldl_cons, if_neg hp]
    exact ih (fun q hq => h q (List.mem_cons_of_mem p hq))

/-- The poison words then agree, and name the block exactly where it is poisoned. -/
theorem poisonRead_of_code (h : ∀ p ∈ e, p.1 < 72) :
    (s.poisonRead k e).1.contains (blockSlot (keyIdx k)) = s.dram.poison.contains k ∧ (s.poisonRead k e).2 = false := by
  unfold poisonRead
  simp only [errWord_of_code h (Nat.le_refl 72), errWord_of_code h (show 72 ≤ 76 by decide), Nat.xor_zero, Bool.or_self, bne_self_eq_false, and_true]
  rw [Bool.eq_iff_iff, List.contains_iff_mem, List.mem_filter, List.mem_range, s.dram.poisonWord_testBit_self k]
  simp [blockSlot_lt]

/-- A poisoned block is read as none, whether its row or the array tells (R274). -/
theorem poisonRead_getD (h : ∀ p ∈ e, p.1 < 72) :
    (if ((s.poisonRead k e).1.contains (blockSlot (keyIdx k)) && kept.isNone) = true then none else kept.getD (s.dram.array k)) =
      kept.getD (s.dram.array k) := by
  rw [(poisonRead_of_code h).1]
  split
  · next hp =>
    rw [Bool.and_eq_true, Option.isNone_iff_eq_none] at hp
    obtain ⟨hp, rfl⟩ := hp
    rw [Option.getD_none, Dram.array, if_pos (.inr (.inl hp))]
  · rfl

theorem filter_of_code (h : ∀ p ∈ e, p.1 < 72) : e.filter (fun p => p.1 < 72) = e := List.filter_eq_self.mpr (fun p hp => decide_eq_true (h p hp))

theorem decodeBlock_unreadable (h : ∀ p ∈ e, p.1 < 72) (hn : kept.getD (s.dram.array k) = none) :
    s.decodeBlock k kept e who scrub = (if scrub then s.countChanUe (keyChan k) else s.ueRead k who, none) := by
  simp only [decodeBlock, (poisonRead_getD h).trans hn, (poisonRead_of_code h).2, Bool.false_eq_true, if_false]

theorem decodeBlock_clean {b : Bytes} (hb : kept.getD (s.dram.array k) = some b) : s.decodeBlock k kept [] who scrub = (s, some b) := by
  have h : ∀ p ∈ ([] : List (Nat × Nat)), p.1 < 72 := fun _ hp => nomatch hp
  have hclean : eccDecode [] = .clean := by decide
  have hdata : errData [] b = b := rfl
  have hnone : (s.keysOf k).filter (fun _ => false) = none := Option.filter_eq_none_iff.mpr (fun _ _ => Bool.false_ne_true)
  simp only [decodeBlock, (poisonRead_getD h).trans hb, (poisonRead_of_code h).2, List.filter_nil, hclean, hdata, bne_self_eq_false, Bool.false_eq_true,
    if_false, hnone]

theorem decodeBlock_corrected {b : Bytes} {i m : Nat} {u : State} (h : ∀ p ∈ e, p.1 < 72) (hb : kept.getD (s.dram.array k) = some b)
    (he : eccDecode e = .corrected i m) (hk : s.keysOf k = none) (hu : u = s.countCe (keyChan k) (keyRank k) (keyIdx k)) :
    s.decodeBlock k kept e who scrub = ({ u with dram := if kept.isSome ∨ (u.dram.queued k).isSome then u.dram else
      (u.dram.queueWrite k (errData ((i, m) :: e) b)).getD (u.dram.store k (errData ((i, m) :: e) b)) }, some (errData ((i, m) :: e) b)) := by
  subst hu
  simp only [decodeBlock, (poisonRead_getD h).trans hb, (poisonRead_of_code h).2, filter_of_code h, he, hk, Bool.false_eq_true, if_false, Option.filter_none]
  split <;> rfl

end State

end Sys2Proof.Machine

/- The DRAM reads (R269, R271, R274, R276 to R280, R289, R298). -/

namespace Sys2Proof.Machine

namespace State

variable {s : State}

/- A row that changes the DRAM alone. -/

theorem dramDone_setDram (s : State) (d : Dram) : s.dramDone { s with dram := d } = { s with dram := d } := rfl

theorem dramRow_setDram (s : State) (d : Dram) : s.dramRow { s with dram := d } = { s with dram := d } := rfl

theorem accessRow_activated (s : State) (d : Dram) (c : Nat) (l : List (Nat × Nat)) :
    s.accessRow (activated { s with dram := d } c l) = activated { s with dram := d } c l := rfl

/- A request of a read. -/

section

variable {f b k tag : Nat} {w : Requester}

theorem exec_dramReadRequest (hr : s.running = true) (hf : f < 57600) (hb : b < 32768) :
    exec (.dramReadRequest f b w tag) s = .next (s.dramDone (s.readRequest f b w tag)) :=
  (if_neg (not_or.mpr ⟨Nat.not_le.mpr hf, Nat.not_le.mpr hb⟩)).trans (if_pos hr)

theorem readRequest_of_down (hk : k = s.dram.keyOf f b) (h : (s.dram.chan (keyChan k)).state = 3) :
    s.readRequest f b w tag = { s.ueRead k w with dram := (s.ueRead k w).dram.answer tag none } := by
  subst hk
  exact if_pos h

theorem readRequest_of_off (hk : k = s.dram.keyOf f b) (h : (s.dram.chan (keyChan k)).state ≠ 3) (ha : s.dram.accepts k = false) :
    s.readRequest f b w tag =
      { s.lateRequest f w with dram := (s.lateRequest f w).dram.answer tag (some (List.replicate 64 0#8)) } := by
  subst hk
  simp only [readRequest, if_neg h, ha, Bool.not_false, if_true]

theorem readRequest_of_queued {d : Bytes} (hk : k = s.dram.keyOf f b) (h : (s.dram.chan (keyChan k)).state ≠ 3) (ha : s.dram.accepts k = true)
    (hq : s.dram.queued k = some d) : s.readRequest f b w tag = { s with dram := s.dram.answer tag (some d) } := by
  subst hk
  simp only [readRequest, if_neg h, ha, hq, Bool.not_true, Bool.false_eq_true, if_false]

/-- A read that no queued write matches enters its channel while that has room (R276). -/
theorem readRequest_of_unqueued (hk : k = s.dram.keyOf f b) (h : (s.dram.chan (keyChan k)).state ≠ 3) (ha : s.dram.accepts k = true)
    (hq : s.dram.queued k = none) :
    s.readRequest f b w tag = if (s.dram.chan (keyChan k)).reads.length < 128 then { s with
      dram := s.dram.setChan (keyChan k) (fun x => { x with reads := x.reads ++ [⟨keyRank k, keyIdx k, s.reqClass w, w, tag, none⟩] }) } else s := by
  subst hk
  simp only [readRequest, if_neg h, ha, hq, Bool.not_true, Bool.false_eq_true, if_false]

end

/- The issue of a read and its data. -/

theorem exec_dramReadIssue {c : Nat} (hr : s.running = true) (hc : c < 32) (aged : Bool) :
    exec (.dramReadIssue c aged) s = .next (s.accessRow (s.readIssue c aged)) :=
  (if_neg (Nat.not_le.mpr hc)).trans (if_pos hr)

theorem readIssue_of_chosen {c cls used : Nat} {aged : Bool} {r : DramRead} (hi : (s.dram.chan c).issues = true)
    (hch : (s.dram.chan c).choose ((List.range 4).map (fun i => s.param 0x0202 i)) aged (fun r => (s.dram.chan c).bankFree r.rank r.block) =
      some (r, cls, used)) :
    s.readIssue c aged = State.activated { s with dram := s.dram.setChan c (fun x => { x with
      reads := x.reads.erase r, issued := x.issued ++ [r], openRows := x.openRows.set (blockBank r.rank r.block).1 (blockBank r.rank r.block).2,
      wrrClass := cls, wrrUsed := used }) } c
      (if (s.dram.chan c).openRows.get? (blockBank r.rank r.block).1 = some (blockBank r.rank r.block).2 then [] else [blockBank r.rank r.block]) := by
  simp only [readIssue, hi, hch, Bool.not_true, Bool.false_eq_true, if_false, dropRead]

section

variable {t : State} {c : Nat} {e : List (Nat × Nat)} {r : DramRead} {rest : List DramRead}

theorem exec_dramReadData (hr : s.running = true) (hc : c < 32) (e : List (Nat × Nat)) :
    exec (.dramReadData c e) s = .next (s.dramDone (s.readData c e)) :=
  (if_neg (Nat.not_le.mpr hc)).trans (if_pos hr)

/-- The oldest issued read leaves, and its answer is what decoding makes of its block (R274). -/
theorem readData_of_issued (hi : (s.dram.chan c).issued = r :: rest)
    (ht : t = { s with dram := s.dram.setChan c (fun x => { x with issued := rest }) }) {u : State} {o : Option Bytes}
    (hd : t.decodeBlock (blockKey c r.rank r.block) r.kept e r.who false = (u, o)) :
    s.readData c e = { u with dram := u.dram.answer r.tag o } := by
  subst ht
  simp only [readData, hi, hd]

theorem array_of_issued (ht : t = { s with dram := s.dram.setChan c (fun x => { x with issued := rest }) }) (k : Nat) :
    t.dram.array k = s.dram.array k := by
  subst ht
  exact Dram.array_setChan (fun _ => rfl)

end

end State

/-- Settles O44: a request, an issue and the data of a read act by their equations (`State.readRequest_of_down` and its companions,
`State.readIssue_of_chosen`, `State.readData_of_issued` with the cases of `State.decodeBlock`), and a place that does not exist stops the row. -/
theorem dramReads : Obligations.DramReads := by
  refine ⟨fun s => ⟨fun _ _ _ h => ⟨fun _ => if_pos h, fun _ => if_pos h⟩,
      fun _ h => ⟨fun _ => if_pos h, fun _ => if_pos h, fun _ _ => if_pos h, fun _ => if_pos h, fun _ _ => if_pos h, fun _ => if_pos h, if_pos h,
        fun _ => if_pos h, fun _ => if_pos h, if_pos h⟩,
      fun _ _ h => ⟨fun _ => if_pos h, fun _ => if_pos h⟩, fun _ _ h => if_pos h, fun _ _ _ h => ⟨if_pos h, if_pos h, if_pos h, if_pos h⟩⟩,
    fun s f b k tag w hr hf hb hk => ?_, fun s c aged r cls used hr hc hi hch => ?_,
    fun s t c k r rest hr hc hrank hblock hi hk ht => ?_⟩
  · rw [State.exec_dramReadRequest hr hf hb]
    refine ⟨fun h => ?_, fun h => ⟨fun ha => ?_, fun ha => ⟨fun d hq => ?_, fun hq => ?_⟩⟩⟩
    · rw [State.readRequest_of_down hk h]
    · rw [State.readRequest_of_off hk h ha]
    · rw [State.readRequest_of_queued hk h ha hq, State.dramDone_setDram]
      rfl
    · rw [State.readRequest_of_unqueued hk h ha hq, apply_ite s.dramDone, State.dramDone_setDram]
      rfl
  · rw [State.exec_dramReadIssue hr hc, State.readIssue_of_chosen hi hch, State.accessRow_activated]
  · subst hk
    rw [← State.array_of_issued ht]
    refine ⟨fun b hb => ?_, fun hn => ?_, fun e b i m u hb he hcode hkeys hu => ?_⟩
    · rw [State.exec_dramReadData hr hc, State.readData_of_issued hi ht (State.decodeBlock_clean hb)]
      subst ht
      rfl
    · rw [State.exec_dramReadData hr hc, State.readData_of_issued hi ht (State.decodeBlock_unreadable (by simp) hn), if_neg Bool.false_ne_true]
    · rw [← congrArg (fun n => t.countCe n _ _) (keyChan_blockKey hrank hblock)] at hu
      rw [State.exec_dramReadData hr hc, State.readData_of_issued hi ht (State.decodeBlock_corrected he hb hcode hkeys hu)]

end Sys2Proof.Machine

/- The DRAM writes (R274, R279, R280, R289, R292, R298). -/

namespace Sys2Proof.Machine

/-- The newest entry of a block has the data that its entries are given (R280). -/
theorem getLast?_filter_replaced {l : List DramWrite} {p : DramWrite → Bool} {b : Bytes} (hp : ∀ w, p { w with data := b } = p w)
    (h : (l.filter p).getLast? ≠ none) :
    ((l.map (fun w => if p w then { w with data := b } else w)).filter p).getLast?.map (·.data) = some b := by
  have hkept : (p ∘ fun w => if p w then { w with data := b } else w) = p := by
    funext w
    simp only [Function.comp_apply]
    split
    · exact hp w
    · rfl
  obtain ⟨w, hw⟩ := Option.ne_none_iff_exists'.mp h
  have hmem := (List.mem_filter.mp (List.mem_of_getLast? hw)).2
  rw [List.filter_map, hkept, List.getLast?_map, hw, Option.map_some, Option.map_some, if_pos hmem]

namespace Dram

variable {d e : Dram} {k : Nat} {w : Bytes}

theorem queued_setChan (h : keyChan k < d.chans.length) (f : DramChan → DramChan) :
    (d.setChan (keyChan k) f).queued k =
      ((f (d.chan (keyChan k))).writes.filter (fun w => w.rank == keyRank k && w.block == keyIdx k)).getLast?.map (·.data) := by
  rw [queued, chan_setChan_self h]

/-- A write that its queue takes changes that queue alone, and a read of its block is then answered with it (R276, R280). -/
theorem queueWrite_of_room (hs : (d.chan (keyChan k)).state ≠ 3) (hl : keyChan k < d.chans.length) (hw : w.length = 64)
    (hroom : d.queued k ≠ none ∨ (d.chan (keyChan k)).writes.length < 64) :
    ∃ e, d.queueWrite k w = some e ∧ e.queued k = some w ∧ e.data = d.data ∧ e.poison = d.poison ∧ ∀ i, i ≠ keyChan k → e.chan i = d.chan i := by
  by_cases hq : (d.queued k).isSome = true
  · refine ⟨d.writeKey k w, if_pos hq, ?_⟩
    rw [writeKey, if_neg hs, if_pos hq]
    refine ⟨?_, rfl, rfl, fun i hi => chan_setChan_ne hi _⟩
    rw [queued_setChan hl, fixLen_of_length hw]
    refine getLast?_filter_replaced (fun _ => rfl) (fun hnone => ?_)
    rw [queued, hnone] at hq
    exact Bool.false_ne_true hq
  · have hlen : (d.chan (keyChan k)).writes.length < 64 := hroom.resolve_left (fun h => hq (Option.isSome_iff_ne_none.mpr h))
    refine ⟨_, (if_neg hq).trans (if_pos hlen), ?_, rfl, rfl, fun i hi => chan_setChan_ne hi _⟩
    rw [queued_setChan hl]
    simp [List.filter_append, fixLen_of_length hw]

theorem queueWrite_of_full (hq : d.queued k = none) (h : 64 ≤ (d.chan (keyChan k)).writes.length) : d.queueWrite k w = none := by
  simp only [queueWrite, hq, Option.isSome_none, Bool.false_eq_true, if_false, if_neg (Nat.not_lt.mpr h)]

end Dram

namespace State

variable {s : State}

/- A request of a write. -/

section

variable {f b k : Nat} {r : Requester} {w : Bytes}

theorem exec_dramWriteRequest (hr : s.running = true) (hf : f < 57600) (hb : b < 32768) :
    exec (.dramWriteRequest f b r w) s = .next (s.dramRow (s.writeRequest f b r w)) :=
  (if_neg (not_or.mpr ⟨Nat.not_le.mpr hf, Nat.not_le.mpr hb⟩)).trans (if_pos hr)

theorem writeRequest_of_down (hk : k = s.dram.keyOf f b) (h : (s.dram.chan (keyChan k)).state = 3) : s.writeRequest f b r w = s.lostWrite k := by
  subst hk
  exact if_pos h

theorem writeRequest_of_off (hk : k = s.dram.keyOf f b) (h : (s.dram.chan (keyChan k)).state ≠ 3) (ha : s.dram.accepts k = false) :
    s.writeRequest f b r w = s.lateRequest f r := by
  subst hk
  simp only [writeRequest, if_neg h, ha, Bool.not_false, if_true]

/- A quad that takes requests: the write enters the queue of its channel, and of the spare rank while its frame is being copied (R276, R292). -/

variable (hk : k = s.dram.keyOf f b) (h : (s.dram.chan (keyChan k)).state ≠ 3) (ha : s.dram.accepts k = true)

include hk h ha

theorem writeRequest_of_single {d : Dram} (hm : s.dram.mirror f b = none) (hd : s.dram.queueWrite k w = some d) :
    s.writeRequest f b r w = { s with dram := d } := by
  subst hk
  simp only [writeRequest, if_neg h, ha, hm, hd, Bool.not_true, Bool.false_eq_true, if_false, Option.getD_some]

theorem writeRequest_of_mirrored {m : Nat} {d e : Dram} (hm : s.dram.mirror f b = some m) (hd : s.dram.queueWrite k w = some d)
    (he : d.queueWrite m w = some e) : s.writeRequest f b r w = { s with dram := e } := by
  subst hk
  simp only [writeRequest, if_neg h, ha, hm, hd, he, Bool.not_true, Bool.false_eq_true, if_false, Option.bind_some, Option.getD_some]

theorem writeRequest_of_full (hd : s.dram.queueWrite k w = none) : s.writeRequest f b r w = s := by
  subst hk
  cases hm : s.dram.mirror f b <;>
    simp only [writeRequest, if_neg h, ha, hm, hd, Bool.not_true, Bool.false_eq_true, if_false, Option.bind_none, Option.getD_none]

end

/- A drain burst. -/

theorem exec_writeDrainBurst {c : Nat} (hr : s.running = true) (hc : c < 32) (aged : Nat) (idle : Bool) :
    exec (.writeDrainBurst c aged idle) s = .next (s.accessRow (s.drainBurst c aged idle)) :=
  (if_neg (Nat.not_le.mpr hc)).trans (if_pos hr)

theorem drainBurst_of_due {c aged : Nat} {idle : Bool} {r : List DramWrite × List DramWrite × AList Nat} (hi : (s.dram.chan c).issues = true)
    (hdue : 48 ≤ (s.dram.chan c).writes.length ∨ aged ≠ 0 ∨ idle = true)
    (hd : r = drainWrites (s.dram.chan c).canDrain (s.dram.chan c).writes.length (s.dram.chan c).openRows ((s.dram.chan c).writes.take aged)
      (s.dram.chan c).writes) :
    s.drainBurst c aged idle = State.activated { s with
      dram := (r.1.foldl (fun (x : Dram) w => x.store (blockKey c w.rank w.block) w.data) (s.dram.poisonAll (s.dram.chan c).repoison)).setChan c
        (fun x => { x with writes := r.2.1, openRows := r.2.2, repoison := [] }) } c (rowActs (s.dram.chan c).openRows r.1) := by
  subst hd
  have hstart : (decide (48 ≤ (s.dram.chan c).writes.length) || aged != 0 || idle) = true := by simpa [or_assoc] using hdue
  simp only [drainBurst, hi, hstart, Bool.not_true, Bool.false_eq_true, or_self, if_false]

end State

/-- Settles O45: a request is taken, mirrored or refused by the queue of its channel (`State.writeRequest_of_single` and its companions, with
`Dram.queueWrite_of_room`), and a burst that is due drains it (`State.drainBurst_of_due`). -/
theorem dramWrites : Obligations.DramWrites := by
  refine ⟨fun s f b k r w hr hf hb hk => ?_, fun s c aged idle r hr hc hi hdue hd => ?_⟩
  · rw [State.exec_dramWriteRequest hr hf hb]
    refine ⟨fun h => ?_, fun h ha => ?_, fun h ha => ⟨fun hm hl hw hroom => ?_, fun m d e hm hd he => ?_, fun hq hfull => ?_⟩⟩
    · rw [State.writeRequest_of_down hk h]
    · rw [State.writeRequest_of_off hk h ha]
    · obtain ⟨d, hd, hread⟩ := Dram.queueWrite_of_room h hl hw hroom
      refine ⟨d, ?_, hread⟩
      rw [State.writeRequest_of_single hk h ha hm hd, State.dramRow_setDram]
    · rw [State.writeRequest_of_mirrored hk h ha hm hd he, State.dramRow_setDram]
    · rw [State.writeRequest_of_full hk h ha (Dram.queueWrite_of_full hq hfull)]
      rfl
  · rw [State.exec_writeDrainBurst hr hc, State.drainBurst_of_due hi hdue hd, State.accessRow_activated]

end Sys2Proof.Machine

/- Upkeep of the DRAM: row closing, refresh, MR4, neighbour refresh and patrol scrub (R281, R283 to R285). -/

namespace Sys2Proof.Machine

/-- The debt of a bank after a refresh falls due (R283). -/
theorem refreshDebt_fst (busy : Bool) (n : Nat) : (refreshDebt busy n).1 = if busy = false then n - 1 else if n < 8 then n + 1 else 7 := by
  cases busy
  · rfl
  · exact apply_ite Prod.fst (n < 8) (n + 1, false) (7, true)

namespace DramChan

variable {x : DramChan} {b : Nat}

theorem refresh_debt (m : Bool) : (x.refresh b m).debt.getD b 0 =
    if m then x.debt.getD b 0 else (refreshDebt (x.bankBusy b) (x.debt.getD b 0)).1 := by
  cases m
  · exact AList.getD_set_self _ _ _ _
  · rfl

theorem refresh_rfmDebt (m : Bool) : (x.refresh b m).rfmDebt.getD b 0 =
    if m then (refreshDebt (x.bankBusy b) (x.rfmDebt.getD b 0)).1 else x.rfmDebt.getD b 0 := by
  cases m
  · rfl
  · exact AList.getD_set_self _ _ _ _

end DramChan

namespace State

variable {s : State} {c b : Nat}

theorem exec_pageIdleClose_of_idle (hr : s.running = true) (hc : c < 32) (hb : (s.dram.chan c).bankBusy b = false) :
    exec (.pageIdleClose c b) s = .next { s with dram := s.dram.setChan c (fun x => { x with openRows := x.openRows.erase b }) } :=
  (if_neg (Nat.not_le.mpr hc)).trans (if_pos ⟨hr, by rw [hb]; rfl⟩)

theorem exec_refresh_of_refreshed (hr : s.running = true) (hc : c < 32) (hb : b < 32) (hi : (s.dram.chan c).issues = true)
    (hf : (s.dram.chan c).refreshed b = true) (m : Bool) :
    exec (.refresh c b m) s = .next { s with dram := s.dram.setChan c (fun x => x.refresh b m) } :=
  (if_neg (not_or.mpr ⟨Nat.not_le.mpr hc, Nat.not_le.mpr hb⟩)).trans (if_pos ⟨hr, hi, hf⟩)

theorem exec_mr4Poll_of_up (hr : s.running = true) (hc : c < 32) (hs : (s.dram.chan c).state ≠ 3) (r q : BitVec 4) :
    exec (.mr4Poll c r q) s = .next { s with dram := s.dram.setChan c (fun x => { x with rate := if r.toNat < q.toNat then q else r }) } :=
  (if_neg (Nat.not_le.mpr hc)).trans (if_pos ⟨hr, hs⟩)

theorem exec_neighbourRefresh (hr : s.running = true) (hc : c < 32) (hb : b < 32) (hi : (s.dram.chan c).issues = true) (row : Nat) :
    exec (.neighbourRefresh c b row) s = .next (if (s.dram.chan c).pnrDue.contains (b, row) then { s with dram := s.dram.setChan c (fun x =>
      { x with pnr := satUp x.pnr, pnrDue := x.pnrDue.erase (b, row), openRows := x.openRows.erase b }) } else s) := by
  refine (if_neg (not_or.mpr ⟨Nat.not_le.mpr hc, Nat.not_le.mpr hb⟩)).trans ?_
  rw [apply_ite Host.Outcome.next]
  exact if_congr (by simp [hr, hi]) rfl rfl

theorem exec_patrolScrub {k : Nat} (hr : s.f2Runs = true) (hp : s.dram.patrolNext s.dram.patrol = some k) {u : State} {o : Option Bytes}
    (hd : s.decodeBlock k none [] .firmware true = (u, o)) :
    exec (.patrolScrub []) s = .next (s.dramRow { u with dram := { u.dram with patrol := (k + 1) % (256 * quadBlocks) } }) := by
  refine (if_pos hr).trans ?_
  simp only [hp, hd]

end State

/-- Settles O46: each row by its equation; what a refresh leaves of the two debts is `DramChan.refresh_debt` and `DramChan.refresh_rfmDebt`, and a block
that the patrol scrub reads comes as `State.decodeBlock_clean` and `State.decodeBlock_unreadable` say. -/
theorem dramUpkeep : Obligations.DramUpkeep := by
  refine ⟨fun s c b hr hc hb => State.exec_pageIdleClose_of_idle hr hc hb, fun s c b m hr hc hb hi hf hl => ?_,
    fun s c r q hr hc hs => State.exec_mr4Poll_of_up hr hc hs r q, fun s c b row hr hc hb hi => State.exec_neighbourRefresh hr hc hb hi row,
    fun s k hr hp => ⟨fun w hw => ?_, fun hn => ?_⟩⟩
  · refine ⟨_, State.exec_refresh_of_refreshed hr hc hb hi hf m, fun k hk => Dram.chan_setChan_ne hk _, rfl, ?_⟩
    rw [Dram.chan_setChan_self hl, DramChan.refresh_debt, DramChan.refresh_rfmDebt, refreshDebt_fst, refreshDebt_fst]
    exact ⟨rfl, rfl⟩
  · rw [State.exec_patrolScrub hr hp (State.decodeBlock_clean hw), State.dramRow_setDram]
  · rw [State.exec_patrolScrub hr hp (State.decodeBlock_unreadable (by simp) hn), if_pos rfl]

end Sys2Proof.Machine

/- Service of the DRAM: retraining, retirement, migration and set points (R286 to R293, R295). -/

namespace Sys2Proof.Machine

namespace State

variable {s : State} {c : Nat}

/- Retraining. -/

theorem exec_retrainDue (hr : s.f2Runs = true) (hc : c < 32) (d : DueCause) :
    exec (.retrainDue c d) s = .next (s.dramRow (s.becomeDue c d)) :=
  (if_neg (Nat.not_le.mpr hc)).trans (if_pos hr)

/-- The state after a cause has been noted: a temperature that a die reports is kept (R286). -/
def noted (s : State) (c : Nat) (d : DueCause) : State :=
  { s with dram := s.dram.setChan c (fun x => { x with temp := match d with | .temperature v => v | _ => (s.dram.chan c).temp }) }

theorem becomeDue_eq (s : State) (c : Nat) (d : DueCause) :
    s.becomeDue c d =
      if (s.dram.chan c).state = 3 ∨ (s.dram.chan c).due = true ∨ (s.dram.chan c).training.isSome = true ∨ (!s.isDue (s.dram.chan c) d) = true then
        s.noted c d
      else ({ s.noted c d with dram := (s.noted c d).dram.setChan c (fun x => { x with due := true }) } : State).trainNext (c / 4) := by
  cases d <;> rfl

theorem becomeDue_of_due {d : DueCause} (hs : (s.dram.chan c).state ≠ 3) (hd : (s.dram.chan c).due = false)
    (ht : (s.dram.chan c).training = none) (h : s.isDue (s.dram.chan c) d = true) :
    s.becomeDue c d = ({ s.noted c d with dram := (s.noted c d).dram.setChan c (fun x => { x with due := true }) } : State).trainNext (c / 4) := by
  rw [becomeDue_eq, if_neg (by simpa [hd, ht, h] using hs)]

theorem becomeDue_of_not_due {d : DueCause} (h : s.isDue (s.dram.chan c) d = false) : s.becomeDue c d = s.noted c d := by
  rw [becomeDue_eq, if_pos (by simp [h])]

theorem exec_retrainSliceStart_of_training (hr : s.f2Runs = true) (hc : c < 32) (hs : (s.dram.chan c).state = 1) (hn : s.dram.change = none) :
    exec (.retrainSliceStart c) s = .next { s with dram := s.dram.setChan c (fun x =>
      { x with openRows := [], training := x.training.map (fun t => { t with inSlice := true }) }) } :=
  (if_neg (Nat.not_le.mpr hc)).trans (if_pos ⟨hr, hs, hn⟩)

theorem exec_retrainSliceEnd (hr : s.f2Runs = true) (hc : c < 32) (ok : Bool) :
    exec (.retrainSliceEnd c ok) s = .next (s.dramDone (s.sliceEnd c ok)) :=
  (if_neg (Nat.not_le.mpr hc)).trans (if_pos hr)

theorem sliceEnd_of_inSlice {t : Training} {u : State} (ht : (s.dram.chan c).training = some t) (hi : t.inSlice = true)
    (hu : u = { s with dram := s.dram.setChan c (fun x => { x with training := some { t with slices := t.slices + 1, inSlice := false } }) })
    (ok : Bool) : s.sliceEnd c ok = (if t.slices + 1 < trainSlices then u else u.verified c t ok).settlePoint := by
  subst hu
  simp only [sliceEnd, ht, hi, Bool.not_true, Bool.false_eq_true, if_false]

theorem verified_of_pass (s : State) (c : Nat) (t : Training) :
    s.verified c t true =
      (s.endTraining c (fun x => { x with trainCnt := satUp x.trainCnt, lastTrain := s.boot.timer, tempAtTrain := x.temp })).dramEvent 0 := rfl

/- Retirement. -/

theorem exec_rankRetire (hr : s.f2Runs = true) (hc : c < 32) (rk : Bool) : exec (.rankRetire c rk) s = .next (s.dramRow (s.retire c rk)) :=
  (if_neg (Nat.not_le.mpr hc)).trans (if_pos hr)

theorem retire_of_trigger {rk : Bool} (hn : s.dram.isRetired c rk = false) (hm : s.mustRetire c rk = true)
    (hsp : s.dram.isSpare c rk = false ∨ (s.dram.group (c / 4)).spareState = 3) :
    s.retire c rk = if s.blamesChannel c = true then s.retrainFirst c
      else if (s.dram.group (c / 4)).spareState = 0 then s.retireStart c rk else s.spareExhausted c rk := by
  have hgroup : ¬ (s.dram.group (c / 4)).retired = some (c % 4, rk) := by
    intro h
    simp [Dram.isRetired, h] at hn
  have hspare : ¬ (s.dram.isSpare c rk = true ∧ (s.dram.group (c / 4)).spareState ≠ 3) := by
    rintro ⟨h, hne⟩
    exact hsp.elim (fun hf => Bool.false_ne_true (hf.symm.trans h)) hne
  simp only [retire, hgroup, hn, hspare, hm, and_false, Bool.false_eq_true, Bool.not_true, or_self, if_false]

theorem exec_migrationFrameCopied {g : Nat} (hr : s.f2Runs = true) (hg : g < 8) (bad : List Nat) :
    exec (.migrationFrameCopied g bad) s = .next (s.dramRow (s.migrated g bad)) :=
  (if_neg (Nat.not_le.mpr hg)).trans (if_pos hr)

theorem migrated_of_more {u : State} {g ch : Nat} {rk : Bool} {bad : List Nat} (ht : (s.dram.group g).retired = some (ch, rk))
    (hs : (s.dram.group g).spareState = 2)
    (hon : (List.range 4).all (fun q => (s.dram.chan (g * 4 + (s.dram.group g).spareCh.toNat)).quad (b2n (s.dram.group g).spareRank) q == .on) = true)
    (hm : (s.dram.group g).migProgress.toNat + 1 < 960) (hu : u = bad.foldl (fun (u : State) _ => u.countChanUe (g * 4 + ch)) s) :
    s.migrated g bad = { u with
      dram := (u.dram.copyFrame (blockKey (g * 4 + ch) (b2n rk) ((s.dram.group g).migProgress.toNat * frameBlocks))
        (blockKey (g * 4 + (s.dram.group g).spareCh.toNat) (b2n (s.dram.group g).spareRank) ((s.dram.group g).migProgress.toNat * frameBlocks)) bad).setGroup g
          (fun y => { y with migProgress := BitVec.ofNat 10 ((s.dram.group g).migProgress.toNat + 1) }) } := by
  subst hu
  have hup : (List.range 4).any (fun q =>
      (s.dram.chan (g * 4 + (s.dram.group g).spareCh.toNat)).quad (b2n (s.dram.group g).spareRank) q != .on) = false := by
    rw [List.any_eq_not_all_not]
    simpa using hon
  simp only [migrated, ht, hs, hup, ne_eq, not_true_eq_false, Bool.false_eq_true, or_self, if_false, if_pos hm]

/- Set points. -/

theorem exec_setPointChange_of_wanted (hr : s.f2Runs = true) : exec (.setPointChange s.wantedPoint) s = .next (s.dramRow s.settlePoint) :=
  if_pos ⟨hr, rfl⟩

theorem exec_channelSwitchDone (hr : s.f2Runs = true) (hc : c < 32) : exec (.channelSwitchDone c) s = .next (s.dramRow (s.switched c)) :=
  (if_neg (Nat.not_le.mpr hc)).trans (if_pos hr)

theorem switched_of_change {p : BitVec 2} (h : s.dram.change = some (p, c)) :
    s.switched c = ((({ s with dram := (s.dram.setChan c (fun x =>
      { x with state := if x.state = 3 then 3 else if x.training.isSome then 1 else 0 })).switchFrom p (c + 1) } : State).settlePoint).trainNext
        (c / 4)) := by
  simp only [switched, h, ne_eq, not_true_eq_false, if_false]

end State

/-- Settles O47: each row by its equation (`State.becomeDue_of_due`, `State.sliceEnd_of_inSlice`, `State.retire_of_trigger`,
`State.migrated_of_more`, `State.switched_of_change`). -/
theorem dramService : Obligations.DramService := by
  refine ⟨fun s t c d hr hc ht => ?_,
    fun s c hr hc hs hn => State.exec_retrainSliceStart_of_training hr hc hs hn, fun s u c ok t hr hc ht hi hu => ?_, State.verified_of_pass,
    fun s c rk hr hc hn hm hsp => ?_, fun s u g ch rk bad hr hg ht hs hon hm hu => ?_, fun s hr => State.exec_setPointChange_of_wanted hr,
    fun s c p hr hc h => ?_⟩
  · have hnoted : t = s.noted c d := ht.trans (by cases d <;> rfl)
    rw [hnoted, State.exec_retrainDue hr hc]
    refine ⟨fun hs hd htr hdue => ?_, fun hdue => ?_⟩
    · rw [State.becomeDue_of_due hs hd htr hdue]
    · rw [State.becomeDue_of_not_due hdue]
      rfl
  · rw [State.exec_retrainSliceEnd hr hc, State.sliceEnd_of_inSlice ht hi hu]
  · rw [State.exec_rankRetire hr hc, State.retire_of_trigger hn hm hsp]
  · rw [State.exec_migrationFrameCopied hr hg, State.migrated_of_more ht hs hon hm hu]
  · rw [State.exec_channelSwitchDone hr hc, State.switched_of_change h]

end Sys2Proof.Machine

/- The power of bank quads, and the requests of the PF's registers (R297 to R299, R302). -/

namespace Sys2Proof.Machine

namespace State

variable {s : State} {c r q : Nat}

/- Quads. -/

/-- A row about a quad that exists does not stop (R271). -/
theorem quad_not_absent (hc : c < 32) (hr : r < 2) (hq : q < 4) : ¬ (32 ≤ c ∨ 2 ≤ r ∨ 4 ≤ q) := by omega

theorem exec_quadPowerDown_of_unused (h : s.f2Runs = true) (hc : c < 32) (hr : r < 2) (hq : q < 4) (hon : (s.dram.chan c).quad r q = .on)
    (hu : s.quadUsed c r q = false)
    (hsp : s.dram.isSpare c (r == 1) = false ∨ (s.dram.group (c / 4)).spareState = 0 ∨ (s.dram.group (c / 4)).spareState = 3) :
    exec (.quadPowerDown c r q) s = .next { s with dram := s.dram.setChan c (fun x => x.setQuad r q (.closing false)) } := by
  exact (if_neg (quad_not_absent hc hr hq)).trans (if_pos ⟨h, hon, by rw [hu]; rfl, by simpa using hsp⟩)

theorem exec_quadOffAck_of_drained {up : Bool} (h : s.running = true) (hc : c < 32) (hr : r < 2) (hq : q < 4)
    (hcl : (s.dram.chan c).quad r q = .closing up) (hw : ∀ w ∈ (s.dram.chan c).writes, w.rank = r → blockQuad w.block ≠ q)
    (hx : ∀ x ∈ (s.dram.chan c).reads, x.rank = r → blockQuad x.block ≠ q) :
    exec (.quadOffAck c r q) s = .next { s with dram := s.dram.setChan c (fun x =>
      { (x.setQuad r q (if up then .rising else .off)) with openRows := x.openRows.filter (fun p => !(p.1 / 16 == r && p.1 % 4 == q)),
                                                             pnrDue := x.pnrDue.filter (fun p => !(p.1 / 16 == r && p.1 % 4 == q)) }) } := by
  refine (if_neg (quad_not_absent hc hr hq)).trans ?_
  simp only [hcl]
  exact if_pos ⟨h, by simpa using hw, by simpa using hx⟩

theorem exec_quadPowerUp_of_off (h : s.f2Runs = true) (hc : c < 32) (hr : r < 2) (hq : q < 4) (hd : s.dram.dark c r q = false)
    (ho : (s.dram.chan c).quad r q = .off) :
    exec (.quadPowerUp c r q) s = .next { s with dram := s.dram.setChan c (fun x => x.setQuad r q .rising) } := by
  refine (if_neg (quad_not_absent hc hr hq)).trans ((if_pos ⟨h, by rw [hd]; rfl⟩).trans ?_)
  simp only [ho]

theorem exec_quadPowerUp_of_closing (h : s.f2Runs = true) (hc : c < 32) (hr : r < 2) (hq : q < 4) (hd : s.dram.dark c r q = false)
    (ho : (s.dram.chan c).quad r q = .closing false) :
    exec (.quadPowerUp c r q) s = .next { s.pwrEvent 4 with dram := s.dram.setChan c (fun x => x.setQuad r q (.closing true)) } := by
  refine (if_neg (quad_not_absent hc hr hq)).trans ((if_pos ⟨h, by rw [hd]; rfl⟩).trans ?_)
  simp only [ho]

/-- What a quad that has been powered up holds is undefined, and none of it is poisoned (R299). -/
def risen (s : State) (c r q : Nat) : State :=
  { s with dram := { s.dram.setChan c (fun x => x.setQuad r q .on) with
    wild := Ranges.addRun s.dram.wild (blockKey c r (q * quadBlocks)) quadBlocks
    wildGen := s.dram.wildGen.set (blockKey c r (q * quadBlocks) / quadBlocks)
      (s.dram.wildGen.getD (blockKey c r (q * quadBlocks) / quadBlocks) 0 + 1)
    poison := s.dram.poison.filter (fun x => x < blockKey c r (q * quadBlocks) || blockKey c r (q * quadBlocks) + quadBlocks ≤ x)
    bad := s.dram.bad.filter (fun x => x < blockKey c r (q * quadBlocks) || blockKey c r (q * quadBlocks) + quadBlocks ≤ x) } }

theorem exec_quadPowerUpDone_of_rising (h : s.running = true) (hc : c < 32) (hr : r < 2) (hq : q < 4) (ho : (s.dram.chan c).quad r q = .rising) :
    exec (.quadPowerUpDone c r q) s = .next (s.dramRow (s.tier.unplaced.foldl (fun (u : State) p => u.placeSeg p.1 p.2) (s.risen c r q))) :=
  (if_neg (quad_not_absent hc hr hq)).trans (if_pos ⟨h, ho⟩)

theorem risen_readable {k : Nat} (hlo : blockKey c r (q * quadBlocks) ≤ k) (hhi : k < blockKey c r (q * quadBlocks) + quadBlocks) :
    k ∉ (s.risen c r q).dram.poison ∧ k ∉ (s.risen c r q).dram.bad := by
  simp [risen, Nat.not_lt.mpr hlo, hhi]

/- Requests of the PF's registers. -/

theorem trainNext_eq (s : State) (g : Nat) : s.trainNext g = { s with dram := (s.trainNext g).dram } := by
  unfold trainNext
  split
  · rfl
  · split <;> rfl

/-- A channel that is due stays so until its training begins (R286). -/
theorem trainNext_due (hc : c < s.dram.chans.length) (hd : (s.dram.chan c).due = true) (g : Nat) :
    ((s.trainNext g).dram.chan c).due = true ∨ ((s.trainNext g).dram.chan c).training ≠ none := by
  unfold trainNext
  split
  · exact .inl hd
  · split
    · exact .inl hd
    · next n _ =>
      by_cases hn : c = n
      · subst hn
        refine .inr ?_
        show ((s.dram.setChan c _).chan c).training ≠ none
        rw [Dram.chan_setChan_self hc]
        exact Option.some_ne_none _
      · refine .inl ?_
        show ((s.dram.setChan n _).chan c).due = true
        rw [Dram.chan_setChan_ne hn, hd]

theorem trainRequest_of_idle (hs : (s.dram.chan c).state ≠ 3) (hd : (s.dram.chan c).due = false) (ht : (s.dram.chan c).training = none) :
    s.trainRequest c = ({ s with dram := s.dram.setChan c (fun x => { x with due := true }) } : State).trainNext (c / 4) :=
  if_neg (by simpa [hd, ht] using hs)

/-- A training request that is taken changes the DRAM alone and makes its channel due (R302). -/
theorem trainRequest_taken (hs : (s.dram.chan c).state ≠ 3) (hd : (s.dram.chan c).due = false) (ht : (s.dram.chan c).training = none)
    (hc : c < s.dram.chans.length) : s.trainRequest c = { s with dram := (s.trainRequest c).dram } ∧
      (((s.trainRequest c).dram.chan c).due = true ∨ ((s.trainRequest c).dram.chan c).training ≠ none) := by
  rw [trainRequest_of_idle hs hd ht]
  refine ⟨trainNext_eq _ _, trainNext_due ?_ ?_ _⟩
  · rwa [Dram.setChan, List.length_modify]
  · rw [Dram.chan_setChan_self hc]

theorem answerReads_dram (s : State) (f : Nat) : (s.answerReads f).dram = s.dram := by
  obtain ⟨rs, o, h⟩ := s.answerReads_eq f
  rw [h]
  rfl

theorem answerReads_mbox (s : State) (f : Nat) : ((s.answerReads f).func f).mbox = (s.func f).mbox := by
  obtain ⟨rs, h⟩ := s.answerReads_func f
  rw [h]

/-- The state after the training request of a drained write, with the reads that waited for it answered. -/
def trainDrained (s : State) (e : MboxEntry) : State := ((s.drainStart 0).trainRequest (e.val.toNat % 32)).answerReads 0

theorem exec_dramTrainRequest_of_next {e : MboxEntry} (he : s.nextEntry = some (0, e)) (hrow : s.drainRow 0 e = .train) :
    exec .dramTrainRequest s = .next { s.hostRow (s.trainDrained e) with dram := (s.trainDrained e).dram } := by
  rw [trainDrained, ← drain_eq he hrow (fun t _ e => t.trainRequest (e.val.toNat % 32))]
  rfl

theorem exec_dramRetireRequest_of_next {e : MboxEntry} {u : State} (he : s.nextEntry = some (0, e)) (hrow : s.drainRow 0 e = .retire)
    (hu : u = ((s.drainStart 0).retireRequest (e.val.toNat % 32) (e.val.toNat.testBit 5)).answerReads 0) :
    exec .dramRetireRequest s = .next { s.dramRow u with out := u.out, queues := u.queues } := by
  rw [hu, ← drain_eq he hrow (fun t _ e => t.retireRequest (e.val.toNat % 32) (e.val.toNat.testBit 5))]
  rfl

end State

/-- Settles O48: each row of a quad by its equation (`State.exec_quadPowerDown_of_unused` and its companions, `State.risen`), and the PF's requests by
what draining them does (`State.drain_eq`, `State.trainRequest_taken`). -/
theorem quadPower : Obligations.QuadPower := by
  refine ⟨fun s c r q h hc hr hq hon hu hsp => State.exec_quadPowerDown_of_unused h hc hr hq hon hu hsp,
    fun s c r q up h hc hr hq hcl hw hx => State.exec_quadOffAck_of_drained h hc hr hq hcl hw hx,
    fun s c r q h hc hr hq hd => ⟨fun ho => State.exec_quadPowerUp_of_off h hc hr hq hd ho,
      fun ho => State.exec_quadPowerUp_of_closing h hc hr hq hd ho⟩,
    fun s c r q h hc hr hq ho => ⟨s.risen c r q, State.exec_quadPowerUpDone_of_rising h hc hr hq ho, rfl, rfl, rfl, fun k => State.risen_readable⟩,
    fun s e he hrow hs hd ht hl => ?_, fun s t r e he hrow _ ht hr => State.exec_dramRetireRequest_of_next he hrow (by subst ht; exact hr)⟩
  obtain ⟨hframe, hdue⟩ := State.trainRequest_taken (s := s.drainStart 0) hs hd ht hl
  refine ⟨_, State.exec_dramTrainRequest_of_next he hrow, ?_, ?_, rfl⟩
  · show ((s.trainDrained e).func 0).mbox = _
    rw [State.trainDrained, State.answerReads_mbox, hframe]
    exact congrArg Func.mbox (s.drainStart_func 0)
  · show ((s.trainDrained e).dram.chan _).due = true ∨ ((s.trainDrained e).dram.chan _).training ≠ none
    rw [State.trainDrained, State.answerReads_dram]
    exact hdue

end Sys2Proof.Machine

/- What is burned into the one-time-programmable rows (R326, R327). -/

namespace Sys2Proof.Machine

/-- The second copy of the row is the first one after pulses: no field but ROLLBACK differs, its bits are only set, and a copy that is not valid is as
it was. -/
structure OtpRow.BurnedTo (r q : OtpRow) : Prop where
  fixed : q.fixedPart = r.fixedPart
  kept : ∀ i, r.rollback.getLsbD i = true → q.rollback.getLsbD i = true
  invalid : r.valid = false → q = r

theorem OtpRow.burnedTo_refl (r : OtpRow) : r.BurnedTo r := ⟨rfl, fun _ h => h, fun _ => rfl⟩

theorem OtpRow.burnedTo_burn (r : OtpRow) (bits : BitVec 256) : r.BurnedTo (if r.valid then r.burn bits else r) := by
  cases hv : r.valid with
  | false => exact r.burnedTo_refl
  | true => exact ⟨rfl, fun i h => by simp [OtpRow.burn, h], fun h => absurd h (by simp [hv])⟩

theorem OtpRow.burn_self (r : OtpRow) : r.burn r.rollback = r := by
  simp only [burn, BitVec.or_self]

theorem OtpRow.burn_burn_rollback (r : OtpRow) (bits : BitVec 256) : r.burn (r.burn bits).rollback = r.burn bits := by
  simp only [burn, ← BitVec.or_assoc, BitVec.or_self]

/-- Pulses for the bits that a burned copy shows bring that copy. -/
theorem OtpRow.burn_rollback_ite (r : OtpRow) (v : Bool) (bits : BitVec 256) :
    r.burn (if v then r.burn bits else r).rollback = if v then r.burn bits else r := by
  cases v with
  | false => exact r.burn_self
  | true => exact r.burn_burn_rollback bits

namespace Otp

/-- The second pair of copies is the first one, or the first one after `Otp.burn`. -/
inductive Burns (o : Otp) : Otp → Prop
  | same : o.Burns o
  | burn (bits : BitVec 256) : o.Burns (o.burn bits)

variable {o r : Otp}

theorem Burns.of_eq (h : r = o) : o.Burns r := h ▸ .same

theorem Burns.of_eq_or_eq_burn {bits : BitVec 256} (h : r = o ∨ r = o.burn bits) : o.Burns r := by
  rcases h with rfl | rfl
  · exact .same
  · exact .burn bits

theorem Burns.copies (h : o.Burns r) : o.die0.BurnedTo r.die0 ∧ o.die32.BurnedTo r.die32 := by
  cases h with
  | same => exact ⟨OtpRow.burnedTo_refl _, OtpRow.burnedTo_refl _⟩
  | burn bits => exact ⟨OtpRow.burnedTo_burn _ _, OtpRow.burnedTo_burn _ _⟩

theorem burnedOf_self (o : Otp) : o.burnedOf o = o := by
  simp only [burnedOf, OtpRow.burn_self]

/-- A frame that lets ROLLBACK bits through lets a burn through as it is. -/
theorem burnedOf_burn (o : Otp) (bits : BitVec 256) : o.burnedOf (o.burn bits) = o.burn bits := by
  simp only [burnedOf, burn, OtpRow.burn_rollback_ite]

theorem Burns.burnedOf (h : o.Burns r) : o.Burns (o.burnedOf r) := by
  cases h with
  | same => rw [burnedOf_self]; exact .same
  | burn bits => rw [burnedOf_burn]; exact .burn bits

end Otp

namespace State

variable {s t : State}

/- A boot. -/

theorem dueReset_nv (s : State) : s.dueReset.nv = s.nv := by
  unfold dueReset
  split <;> rfl

theorem bootRom_otp (s : State) : s.bootRom.nv.otp = s.nv.otp ∨ s.bootRom.nv.otp = s.nv.otp.burn s.nv.otp.rollback := by
  unfold bootRom
  split
  · exact .inl rfl
  · split
    · exact .inl rfl
    · dsimp only
      split
      · exact .inl rfl
      · exact .inr rfl

theorem recoveryGo_otp (s : State) (image : HostRead) (f : Nat) (e : MboxEntry) :
    (s.recoveryGo image f e).nv.otp = s.nv.otp ∨ (s.recoveryGo image f e).nv.otp = s.nv.otp.burn s.nv.otp.rollback := by
  unfold recoveryGo
  dsimp only
  split
  · exact .inl rfl
  · split
    · exact .inl rfl
    · exact .inl rfl
    · split
      · exact .inr rfl
      · exact .inl rfl

theorem answerReads_nv (s : State) (f : Nat) : (s.answerReads f).nv = s.nv := by
  obtain ⟨rs, o, h⟩ := s.answerReads_eq f
  rw [h]
  rfl

/-- What a drained write does to the kept state is what its effect does. -/
theorem drain_nv (s : State) (row : DrainRow) (k : State → Nat → MboxEntry → State) :
    (s.drain row k).nv = s.nv ∨ ∃ u f e, u.nv = s.nv ∧ (s.drain row k).nv = (k u f e).nv := by
  cases he : s.nextEntry with
  | none => exact .inl (by rw [drain, he])
  | some p =>
    obtain ⟨f, e⟩ := p
    by_cases hr : s.drainRow f e = row
    · exact .inr ⟨s.drainStart f, f, e, rfl, by rw [drain_eq he hr, answerReads_nv]⟩
    · exact .inl (by rw [drain, he]; exact congrArg State.nv (if_neg hr))

theorem execFwRecoveryGo_otp {image : HostRead} (h : execFwRecoveryGo image s = .next t) :
    t.nv.otp = s.nv.otp ∨ t.nv.otp = s.nv.otp.burn s.nv.otp.rollback := by
  cases h
  show s.nv.otp.burnedOf _ = _ ∨ s.nv.otp.burnedOf _ = _
  have hrow : (s.drain .recovery (recoveryGo image)).nv.otp = s.nv.otp ∨
      (s.drain .recovery (recoveryGo image)).nv.otp = s.nv.otp.burn s.nv.otp.rollback := by
    rcases s.drain_nv .recovery (recoveryGo image) with h | ⟨u, f, e, hu, h⟩
    · exact .inl (congrArg Nv.otp h)
    · rw [h, ← hu]
      exact u.recoveryGo_otp image f e
  rcases hrow with h | h <;> rw [h]
  · exact .inl (Otp.burnedOf_self _)
  · exact .inr (Otp.burnedOf_burn _ _)

theorem execBootRomStart_otp (h : execBootRomStart s = .next t) : t.nv.otp = s.nv.otp ∨ t.nv.otp = s.nv.otp.burn s.nv.otp.rollback := by
  obtain rfl | rfl := eq_or_eq_of_ite h
  · rw [← dueReset_nv s]
    exact bootRom_otp _
  · exact .inl rfl

theorem finishBoot_otp (s : State) (fspOk rate : BitVec 3) (cs : Bool) : (s.finishBoot fspOk rate cs).nv.otp = s.nv.otp := by
  unfold finishBoot
  dsimp only
  rw [logPf, (posts_logTo _ _ _).eq]
  unfold postOf
  dsimp only
  split <;> split <;> rfl

theorem execWatchdogExpiry_nv {core : Nat} (h : execWatchdogExpiry core s = .next t) : t.nv = s.nv := by
  unfold execWatchdogExpiry at h
  split at h
  · obtain rfl | rfl := eq_or_eq_of_ite h <;> rfl
  · cases h
    rfl

/- FW_SVN_COMMIT. -/

theorem fwSvnCommit_burns (s : State) (c : Cmd) : s.nv.otp.Burns (s.fwSvnCommit c).nv.otp := by
  unfold fwSvnCommit
  split
  · exact .of_eq (congrArg Nv.otp (answer_nv s c _))
  · split
    · exact .same
    · split
      · exact .of_eq (congrArg Nv.otp (answer_nv s c _))
      · split
        · exact .of_eq (congrArg Nv.otp (complete_nv s _ _ _))
        · rw [complete_nv]
          exact .burn _

/-- A command row leaves the state, completes its command, defers it, or has its effect. -/
theorem runOp_cases (s : State) (fid op own : Nat) (e : State → Cmd → State) :
    s.runOp fid op own e = s ∨ (∃ st r, s.runOp fid op own e = s.complete fid st r) ∨ s.runOp fid op own e = s.defer fid ∨
      ∃ c, s.runOp fid op own e = e s c := by
  unfold runOp runCmd
  split
  · exact .inl rfl
  · next c hc =>
    split
    · split
      · exact .inr (.inl ⟨_, _, rfl⟩)
      · split
        · exact .inr (.inl ⟨_, _, rfl⟩)
        · dsimp only
          split
          · exact .inr (.inr (.inl rfl))
          · exact .inr (.inr (.inr ⟨c, rfl⟩))
    · exact .inl rfl

theorem svnCmd_burns {r : State} (h : s.nv.otp.Burns r.nv.otp) : s.nv.otp.Burns (s.svnCmd r).nv.otp := h.burnedOf

theorem execFwSvnCommit_burns {fid : Nat} (h : execFwSvnCommit fid s = .next t) : s.nv.otp.Burns t.nv.otp := by
  cases h
  refine svnCmd_burns ?_
  rcases s.runOp_cases fid 0x92 stBadField fwSvnCommit with h | ⟨st, r, h⟩ | h | ⟨c, h⟩ <;> rw [h]
  · exact .same
  · exact .of_eq (congrArg Nv.otp (complete_nv s fid st r))
  · exact .same
  · exact s.fwSvnCommit_burns c

/-- No deferred command but FW_SVN_COMMIT touches the rows. -/
theorem effectOf_otp {op : Nat} {f : State → Cmd → State} (h : effectOf op = some f) (hop : op ≠ 0x92) (s : State) (c : Cmd) :
    (f s c).nv.otp = s.nv.otp := by
  unfold effectOf at h
  split at h <;> cases h
  any_goals rfl
  exact absurd rfl hop

theorem takeEffect_otp {fid : Nat} (h : ∀ x, s.cmds.find fid = some x → x.opcode ≠ 0x92) : (s.takeEffect fid).nv.otp = s.nv.otp := by
  unfold takeEffect
  split
  · rfl
  · next c hc =>
    split
    · rfl
    · next f hf =>
      split
      · exact effectOf_otp hf (h c hc) s c
      · rfl

theorem takeEffect_burns (s : State) (fid : Nat) : s.nv.otp.Burns (s.takeEffect fid).nv.otp := by
  by_cases h : ∀ x, s.cmds.find fid = some x → x.opcode ≠ 0x92
  · exact .of_eq (takeEffect_otp h)
  · push Not at h
    obtain ⟨c, hc, ho⟩ := h
    have he : effectOf c.opcode = some (fun s c => s.svnCmd (s.fwSvnCommit c)) := by rw [ho]; rfl
    unfold takeEffect
    rw [hc]
    dsimp only
    rw [he]
    dsimp only
    split
    · exact svnCmd_burns (s.fwSvnCommit_burns c)
    · exact .same

end State

/-- An event that is neither a boot nor an FW_SVN_COMMIT leaves the rows as they are: by its frame, or it is a tile reset or the end of a boot. -/
theorem exec_otp {c : Instr} {s t : State} (h : exec c s = .next t) (hrom : c ≠ .bootRomStart) (hgo : ∀ r, c ≠ .fwRecoveryGo r)
    (hsvn : ∀ fid, c ≠ .fwSvnCommit fid ∧ (c = .commandTakesEffect fid → ∀ x, s.cmds.find fid = some x → x.opcode ≠ 0x92)) :
    t.nv.otp = s.nv.otp := by
  cases c with
  | bootRomStart => exact absurd rfl hrom
  | fwRecoveryGo r => exact absurd rfl (hgo r)
  | fwSvnCommit fid => exact absurd rfl (hsvn fid).1
  | commandTakesEffect fid =>
    cases h
    exact State.takeEffect_otp ((hsvn fid).2 rfl)
  | powerOn | sidebandReset | powerOff => obtain rfl | rfl := eq_or_eq_of_ite h <;> rfl
  | bootComplete fspOk rate cs =>
    obtain rfl | rfl := eq_or_eq_of_ite h
    · exact s.finishBoot_otp fspOk rate cs
    · rfl
  | watchdogExpiry => exact congrArg Nv.otp (State.execWatchdogExpiry_nv h)
  | _ => exact (congrArg (fun u : State => u.nv.otp) (exec_eq_within h)).trans rfl

theorem exec_boot_otp {s t : State} {r : HostRead} (h : exec .bootRomStart s = .next t ∨ exec (.fwRecoveryGo r) s = .next t) :
    t.nv.otp = s.nv.otp ∨ t.nv.otp = s.nv.otp.burn s.nv.otp.rollback :=
  h.elim State.execBootRomStart_otp State.execFwRecoveryGo_otp

theorem exec_burns {c : Instr} {s t : State} (h : exec c s = .next t) : s.nv.otp.Burns t.nv.otp := by
  cases c with
  | bootRomStart => exact .of_eq_or_eq_burn (State.execBootRomStart_otp h)
  | fwRecoveryGo r => exact .of_eq_or_eq_burn (State.execFwRecoveryGo_otp h)
  | fwSvnCommit fid => exact State.execFwSvnCommit_burns h
  | commandTakesEffect fid =>
    cases h
    exact s.takeEffect_burns fid
  | _ => exact .of_eq (exec_otp h (by simp) (by simp) (by simp))

theorem State.idle_nv (s : State) : s.idle.nv = s.nv := by
  unfold State.idle
  split <;> rfl

theorem step_burns {s t : State} (h : step s = .next t) : s.nv.otp.Burns t.nv.otp := by
  unfold step at h
  split at h
  · cases h
    exact .of_eq (congrArg Nv.otp s.idle_nv)
  · next rest _ => exact exec_burns (s := { s with pending := rest }) h

/-- Settles O7: every step leaves the pair of rows as it is or burns it (`step_burns`), and the events that burn are those of `exec_otp` and
`exec_boot_otp`. -/
theorem otpOnlyBurns : Obligations.OtpOnlyBurns := by
  refine ⟨fun s t h => ?_, fun c s t => exec_otp, fun s t r => exec_boot_otp⟩
  obtain ⟨h0, h32⟩ := (step_burns h).copies
  exact ⟨h0.fixed, h32.fixed, h0.kept, h32.kept, h0.invalid, h32.invalid⟩

end Sys2Proof.Machine

/- Brown-out (R323, R324). -/

namespace Sys2Proof.Machine

/- A tile reset tears the pages whose programs are under way (R324). -/

theorem Flash.unmaps_cells (l : List Nat) (f : Flash) : (l.foldl (fun (h : Flash) p => h.setMap p none) f).cells = f.cells :=
  List.foldlRecOn l _ (motive := fun g : Flash => g.cells = f.cells) rfl (fun _ hg _ _ => hg)

theorem Flash.recover_cells (f : Flash) (keep : Nat → Bool) : (f.recover keep).cells = f.cells := unmaps_cells _ _

/-- The boot ROM programs no page of the array. -/
theorem State.bootRom_cells (s : State) : s.bootRom.flash.cells = s.flash.cells := by
  unfold State.bootRom
  split
  · rfl
  · split
    · rfl
    · dsimp only
      split
      · rfl
      · exact s.flash.recover_cells _

/-- A boot of a tile for which no reset is due finds the pages as they are. -/
theorem exec_bootRomStart_cells {s t : State} (h : exec .bootRomStart s = .next t) (hr : s.boot.resetReq = none) : t.flash.cells = s.flash.cells := by
  have hd : s.dueReset = s := by rw [State.dueReset, hr]
  obtain rfl | rfl := eq_or_eq_of_ite h
  · rw [State.bootRom_cells, hd]
  · rfl

/-- A boot for which a reset is due finds them as that reset leaves them. -/
theorem exec_bootRomStart_torn {s t : State} {k : BitVec 3} (h : exec .bootRomStart s = .next t) (hr : s.boot.resetReq = some k) :
    t.flash.cells = s.flash.torn.cells := by
  have hd : s.dueReset = s.tileReset k 0 none := by rw [State.dueReset, hr]
  have hb : execBootRomStart s = .next s.dueReset.bootRom := if_pos (by rw [hd]; rfl)
  cases h.symm.trans hb
  rw [State.bootRom_cells, hd]
  rfl

theorem fixLen_getD_zero (n : Nat) (b : Bytes) : (fixLen (n + 1) b).getD 0 0#8 = b.getD 0 0#8 := by
  cases b with
  | nil => rfl
  | cons x t => rfl

/-- A byte that a torn page of address 0 does not begin with, whatever the free value `Config.tornPage` is. -/
def untornByte : Byte := if (Config.tornPage 0 []).getD 0 0#8 = 1 then 2 else 1

theorem untornByte_ne : (Config.tornPage 0 []).getD 0 0#8 ≠ untornByte := by
  unfold untornByte
  split
  · next h => rw [h]; decide
  · next h => exact h

/-- A serving tile with a program of page 0 under way, whose brown-out warning has asked for a reset. -/
def brownOutInProgram : State :=
  { State.reset with
    boot := { Boot.fresh 0 with life := .serving, ready := true, phase := 6, resetReq := some 3 }
    flash := { Flash.fresh with
      cells := [(0, untornByte)], dies := [(0, { Die.fresh with ops := [(0, ⟨.program 0 .install [], true, 0⟩)] })],
      blocked := true, brownoutLast := true } }

theorem brownOutInProgram_torn :
    brownOutInProgram.flash.torn.cells = Mem.write [(0, untornByte)] 0 (fixLen pageBytes (Config.tornPage 0 [])) := rfl

theorem brownOutInProgram_torn_read : brownOutInProgram.flash.torn.cells.read 0 = (Config.tornPage 0 []).getD 0 0#8 := by
  rw [brownOutInProgram_torn, Mem.read_write, if_pos (by rw [fixLen_length]; exact ⟨Nat.le_refl 0, Nat.succ_pos _⟩)]
  exact fixLen_getD_zero 16383 _

/-- Refutes O10: the reset that a brown-out asks for cuts a program short, so the first byte of its page changes (R324), and a state that the reset
could have left with the pages as they were does not boot into what this boot gives. -/
theorem not_brownOutAndThermalTrip : ¬ Obligations.BrownOutAndThermalTrip := by
  unfold Obligations.BrownOutAndThermalTrip
  rintro ⟨-, h, -⟩
  obtain ⟨t, u, ht, hu, -, hboot⟩ := h brownOutInProgram 3 rfl
  obtain ⟨-, -, -, hreq⟩ := hu.life
  obtain ⟨-, hkept, -⟩ := hu.kept
  have hcells : brownOutInProgram.flash.torn.cells = [(0, untornByte)] :=
    (exec_bootRomStart_torn ht rfl).symm.trans ((exec_bootRomStart_cells hboot hreq).trans hkept)
  refine untornByte_ne (brownOutInProgram_torn_read.symm.trans ?_)
  rw [hcells]
  rfl

end Sys2Proof.Machine

/- The flash array: reads, programs, erases and upkeep (R303 to R322). -/

namespace Sys2Proof.Machine

/- Blocks and dies of the flash array. -/

namespace Flash

variable {f g h : Flash} {b d k l : Nat}

@[simp] theorem block_setBlock_self (f : Flash) (b : Nat) (x : FlashBlock) : (f.setBlock b x).block b = x := AList.getD_set_self _ _ _ _

theorem block_setBlock_ne (hk : k ≠ b) (x : FlashBlock) : (f.setBlock b x).block k = f.block k := AList.getD_set_ne _ _ _ hk

@[simp] theorem die_setBlock (f : Flash) (b d : Nat) (x : FlashBlock) : (f.setBlock b x).die d = f.die d := rfl

@[simp] theorem die_modDie_self (f : Flash) (d : Nat) (u : Die → Die) : (f.modDie d u).die d = u (f.die d) := AList.getD_set_self _ _ _ _

theorem die_modDie_ne (hk : k ≠ d) (u : Die → Die) : (f.modDie d u).die k = f.die k := AList.getD_set_ne _ _ _ hk

@[simp] theorem block_modDie (f : Flash) (d b : Nat) (u : Die → Die) : (f.modDie d u).block b = f.block b := rfl

/-- A change of a die that leaves its operations leaves those of the array. -/
theorem op_modDie_of_ops {u : Die → Die} (hu : ∀ x, (u x).ops = x.ops) (k l : Nat) : (f.modDie d u).op k l = f.op k l := by
  unfold op
  by_cases hk : k = d
  · rw [hk, die_modDie_self, hu]
  · rw [die_modDie_ne hk]

/- Reads that are sensed (R307). -/

/-- The second array is the first one after reads have been sensed: of its fields only blocks and dies differ, of the blocks only the read counts, and
of the dies no operation. -/
structure Senses (f g : Flash) : Prop where
  parts : g = { f with blocks := g.blocks, dies := g.dies }
  blocks : ∀ b, g.block b = { f.block b with reads := (g.block b).reads }
  ops : ∀ d l, g.op d l = f.op d l

theorem Senses.refl (f : Flash) : f.Senses f := ⟨rfl, fun _ => rfl, fun _ _ => rfl⟩

theorem Senses.trans (hfg : f.Senses g) (hgh : g.Senses h) : f.Senses h := by
  refine ⟨?_, fun b => ?_, fun d l => (hgh.ops d l).trans (hfg.ops d l)⟩
  · rw [hgh.parts, hfg.parts]
  · rw [hgh.blocks b, hfg.blocks b]

theorem Senses.cells (hfg : f.Senses g) : g.cells = f.cells := by rw [hfg.parts]

theorem Senses.map (hfg : f.Senses g) : g.map = f.map := by rw [hfg.parts]

theorem senses_modDie (f : Flash) (d : Nat) {u : Die → Die} (hu : ∀ x, (u x).ops = x.ops) : f.Senses (f.modDie d u) :=
  ⟨rfl, fun _ => rfl, op_modDie_of_ops hu⟩

theorem senses_setBlock_reads (f : Flash) (b n : Nat) : f.Senses (f.setBlock b { f.block b with reads := n }) := by
  refine ⟨rfl, fun k => ?_, fun _ _ => rfl⟩
  by_cases hk : k = b
  · rw [hk, block_setBlock_self]
  · rw [block_setBlock_ne hk]

theorem senses_sense (f : Flash) (r : FlashRead) : f.Senses (f.sense r) := by
  simp only [sense]
  exact (f.senses_setBlock_reads _ _).trans (senses_modDie _ _ (by intro _; rfl))

theorem senses_senseWaiting (f : Flash) (d : Nat) : f.Senses (f.senseWaiting d) := by
  refine List.foldlRecOn (motive := f.Senses) _ _ (.refl f) (fun g hg r _ => ?_)
  split
  · exact hg
  · exact hg.trans ((g.senses_modDie d (by intro _; rfl)).trans (senses_sense _ r))

/-- While a pulse runs on a die, its reads wait. -/
theorem senseWaiting_of_pulsing (hp : (f.die d).pulsing = true) : f.senseWaiting d = f := by
  refine List.foldlRecOn (motive := fun g => g = f) _ _ rfl (fun g hg r _ => ?_)
  rw [hg]
  exact if_pos (by rw [hp, Bool.true_or])

/-- The only read that waits on a die whose plane is free is sensed. -/
theorem senseWaiting_of_single {r : FlashRead} (hw : (f.die d).waiting = [r]) (hp : (f.die d).pulsing = false)
    (hs : (f.die d).senses (paPlane r.addr) = false) : f.senseWaiting d = (f.modDie d (fun x => { x with waiting := x.waiting.erase r })).sense r := by
  rw [senseWaiting, hw, List.foldl_cons, List.foldl_nil, if_neg (by rw [hp, hs]; exact Bool.false_ne_true)]

/-- A new read of a die without a pulse, of which no read waits and whose plane senses none, is sensed at once (R307). -/
theorem readIssue_of_free {p tag : Nat} {r : FlashRead} (hr : r = ⟨p, tag, 0, List.range 8, false, false⟩) (hp : (f.die (paDie p)).pulsing = false)
    (hw : (f.die (paDie p)).waiting = []) (hs : (f.die (paDie p)).senses (paPlane p) = false) :
    f.readIssue p tag = ((f.modDie (paDie p) (fun x => { x with waiting := x.waiting ++ [r] })).modDie (paDie p)
      (fun x => { x with waiting := x.waiting.erase r })).sense r := by
  subst hr
  refine senseWaiting_of_single ?_ ?_ ?_ <;> rw [die_modDie_self]
  · exact congrArg (· ++ _) hw
  · exact hp
  · exact hs

theorem readIssue_of_pulsing {p tag : Nat} (hp : (f.die (paDie p)).pulsing = true) :
    f.readIssue p tag = f.modDie (paDie p) (fun x => { x with waiting := x.waiting ++ [⟨p, tag, 0, List.range 8, false, false⟩] }) := by
  refine senseWaiting_of_pulsing ?_
  rw [die_modDie_self]
  exact hp

theorem sense_die (f : Flash) (r : FlashRead) : ∃ n, (f.sense r).die (paDie r.addr) = { f.die (paDie r.addr) with
    sensing := (f.die (paDie r.addr)).sensing ++
      [{ r with probe := decide (paPage r.addr % 2 = 1 ∧ ((f.die (paDie r.addr)).upperReads + 1) % 64 = 0) }],
    upperReads := n } := by
  simp only [sense, die_modDie_self, die_setBlock]
  exact ⟨_, rfl⟩

theorem sense_block (f : Flash) (r : FlashRead) :
    (f.sense r).block (paBlockId r.addr) = { f.block (paBlockId r.addr) with reads := (f.block (paBlockId r.addr)).reads + 1 } := by
  simp only [sense, block_modDie, block_setBlock_self]

theorem senses_readIssue (f : Flash) (p tag : Nat) : f.Senses (f.readIssue p tag) :=
  (f.senses_modDie (paDie p) (by intro _; rfl)).trans (senses_senseWaiting _ _)

/-- What becomes of a new read of a free plane, and of its block (R307, R318). -/
theorem readIssue_of_free_sensed {p : Nat} (tag : Nat) (hp : (f.die (paDie p)).pulsing = false) (hw : (f.die (paDie p)).waiting = [])
    (hs : (f.die (paDie p)).senses (paPlane p) = false) :
    ((f.readIssue p tag).die (paDie p)).waiting = [] ∧ ((f.readIssue p tag).die (paDie p)).sensing = (f.die (paDie p)).sensing ++
        [⟨p, tag, 0, List.range 8, decide (paPage p % 2 = 1 ∧ ((f.die (paDie p)).upperReads + 1) % 64 = 0), false⟩] ∧
      ((f.readIssue p tag).block (paBlockId p)).reads = (f.block (paBlockId p)).reads + 1 := by
  rw [readIssue_of_free rfl hp hw hs]
  generalize hr : FlashRead.mk p tag 0 (List.range 8) false false = r
  have ha : p = r.addr := by rw [← hr]
  rw [ha, sense_block]
  obtain ⟨n, hdie⟩ := sense_die ((f.modDie (paDie r.addr) (fun x => { x with waiting := x.waiting ++ [r] })).modDie (paDie r.addr)
    (fun x => { x with waiting := x.waiting.erase r })) r
  rw [hdie, die_modDie_self, die_modDie_self, ← ha]
  subst hr
  refine ⟨?_, rfl, rfl⟩
  rw [hw, List.nil_append, List.erase_cons_head]

/- Codewords and their decoding (R312, R313). -/

theorem charge_eq (f : Flash) (r : FlashRead) (c : Nat) (errs : List Nat) : f.charge r c errs = { f with stats := (f.charge r c errs).stats } := by
  unfold charge
  split
  · rfl
  · split <;> rfl

/-- Decoding adds to the statistics. -/
theorem decodeStep_eq (f : Flash) (r : FlashRead) (flips : List (List Nat)) :
    (f.decodeStep r flips).1 = { f with stats := (f.decodeStep r flips).1.stats } :=
  List.foldlRecOn (motive := fun g : Flash => g = { f with stats := g.stats }) _ _ rfl (fun g hg c _ => by rw [charge_eq, hg])

/-- The codewords left are those with more errors than the ladder step corrects. -/
theorem decodeStep_left (f : Flash) (r : FlashRead) (flips : List (List Nat)) :
    (f.decodeStep r flips).2.left = r.left.filter (fun c => decide (ladderBound r.ladder < (flips.getD c []).length)) := by
  refine List.filter_congr (fun c hc => ?_)
  rw [Bool.eq_iff_iff, Bool.not_eq_true', ← Bool.not_eq_true, List.contains_iff_mem, decide_eq_true_eq]
  simp [List.mem_filter, hc]

theorem decodeStep_left_nil {r : FlashRead} {flips : List (List Nat)} (hall : ∀ c ∈ r.left, (flips.getD c []).length ≤ ladderBound r.ladder) :
    (f.decodeStep r flips).2.left = [] := by
  rw [decodeStep_left]
  exact List.filter_eq_nil_iff.mpr (fun c hc => by simpa using hall c hc)

theorem decodeStep_left_ne_nil {r : FlashRead} {flips : List (List Nat)} (hex : ∃ c ∈ r.left, ladderBound r.ladder < (flips.getD c []).length) :
    (f.decodeStep r flips).2.left ≠ [] := by
  obtain ⟨c, hc, hlt⟩ := hex
  rw [decodeStep_left]
  exact List.ne_nil_of_mem (List.mem_filter.mpr ⟨hc, decide_eq_true hlt⟩)

/-- A codeword that decodes with more than 72 corrections marks its read. -/
theorem decodeStep_many {r : FlashRead} {flips : List (List Nat)} (hall : ∀ c ∈ r.left, (flips.getD c []).length ≤ ladderBound r.ladder)
    (hm : r.many = true ∨ ∃ c ∈ r.left, 72 < (flips.getD c []).length) : (f.decodeStep r flips).2.many = true := by
  refine Bool.or_eq_true_iff.mpr (hm.imp id (fun ⟨c, hc, hlt⟩ => ?_))
  exact List.any_eq_true.mpr ⟨c, List.mem_filter.mpr ⟨hc, decide_eq_true (hall c hc)⟩, decide_eq_true hlt⟩

/- Answers to reads (R307, R314). -/

/-- The array once a read is answered and off its die, before the reads that wait go on. -/
def answered (f : Flash) (d : Nat) (r : FlashRead) (o : Option Bytes) : Flash :=
  { f.modDie d (fun x => { x with sensing := x.sensing.filter (fun y => paPlane y.addr != paPlane r.addr) }) with answers := f.answers ++ [(r.tag, o)] }

/-- An answer changes blocks and dies besides, by the reads and operations that go on. -/
theorem answerRead_eq (f : Flash) (d : Nat) (r : FlashRead) (o : Option Bytes) : f.answerRead d r o =
    { f with answers := f.answers ++ [(r.tag, o)], blocks := (f.answerRead d r o).blocks, dies := (f.answerRead d r o).dies } :=
  congrArg (fun g : Flash => { g with dies := (f.answerRead d r o).dies }) (senses_senseWaiting (f.answered d r o) d).parts

theorem answerRead_relocate (f : Flash) (d : Nat) (r : FlashRead) (o : Option Bytes) (b : Nat) :
    ((f.answerRead d r o).block b).relocate = (f.block b).relocate := by
  show (((f.answered d r o).senseWaiting d).block b).relocate = _
  rw [(senses_senseWaiting (f.answered d r o) d).blocks b]
  rfl

/-- A page that decodes is the answer of its read. -/
theorem decoded_answers (f : Flash) (d : Nat) (r : FlashRead) : (f.decoded d r).answers = f.answers ++ [(r.tag, some (f.readPage r.addr))] := by
  unfold decoded
  dsimp only
  rw [answerRead_eq]
  split <;> rfl

theorem decoded_rest (f : Flash) (d : Nat) (r : FlashRead) :
    (f.decoded d r).cells = f.cells ∧ (f.decoded d r).retryCnt = f.retryCnt ∧ (f.decoded d r).softCnt = f.softCnt := by
  unfold decoded
  dsimp only
  rw [answerRead_eq]
  split <;> exact ⟨rfl, rfl, rfl⟩

/-- A page with many corrections, or that needed a retry, has its block queued for relocation (R314). -/
theorem decoded_relocate {r : FlashRead} (h : r.many = true ∨ r.ladder ≠ 0) : ((f.decoded d r).block (paBlockId r.addr)).relocate = true := by
  have hc : (r.many || r.ladder != 0) = true := by simpa using h
  unfold decoded
  dsimp only
  rw [if_pos hc, answerRead_relocate, block_setBlock_self]

theorem setRead_sensing (f : Flash) (d : Nat) (r : FlashRead) :
    ((f.setRead d r).die d).sensing = (f.die d).sensing.map (fun x => if paPlane x.addr = paPlane r.addr then r else x) := by
  rw [setRead, die_modDie_self]

section

variable {r : FlashRead} {flips : List (List Nat)}

theorem readDone_of_decoded (hf : (f.die d).sensing.find? (fun r => paPlane r.addr == l && r.ladder == 0) = some r)
    (hall : ∀ c ∈ r.left, (flips.getD c []).length ≤ ladderBound r.ladder) :
    f.readDone d l flips = (f.decodeStep r flips).1.decoded d (f.decodeStep r flips).2 := by
  simp only [readDone, hf, decodeStep_left_nil hall, List.isEmpty_nil, if_true]

theorem readDone_of_undecoded (hf : (f.die d).sensing.find? (fun r => paPlane r.addr == l && r.ladder == 0) = some r)
    (hex : ∃ c ∈ r.left, ladderBound r.ladder < (flips.getD c []).length) :
    f.readDone d l flips = (f.decodeStep r flips).1.setRead d { (f.decodeStep r flips).2 with ladder := 2 } := by
  simp only [readDone, hf, List.isEmpty_iff, decodeStep_left_ne_nil hex, if_false]

end

end Flash

namespace State

variable {s : State} {d l : Nat}

/- Codewords that are uncorrectable (R314). -/

theorem damageModel_flash_pf (s : State) (id : Nat) : (s.damageModel id).flash = s.flash ∧ (s.damageModel id).pf = s.pf := by
  unfold damageModel
  dsimp only
  split <;> exact ⟨rfl, rfl⟩

theorem damageModels_flash_pf (l : List Nat) (s : State) :
    (l.foldl (fun (t : State) id => t.damageModel id) s).flash = s.flash ∧ (l.foldl (fun (t : State) id => t.damageModel id) s).pf = s.pf := by
  refine List.foldlRecOn (motive := fun t : State => t.flash = s.flash ∧ t.pf = s.pf) _ _ ⟨rfl, rfl⟩ (fun t ht id _ => ?_)
  obtain ⟨hflash, hpf⟩ := t.damageModel_flash_pf id
  exact ⟨hflash.trans ht.1, hpf.trans ht.2⟩

theorem lostPages_of_words {words : Nat} (hw : words ≠ 0) (s : State) (ls : List Nat) :
    (s.lostPages ls words).flash = { s.flash.lose ls with ueCnt := satPlus s.flash.ueCnt words } ∧ (s.lostPages ls words).pf.flEv.isSet 5 = true := by
  rw [lostPages, if_neg hw]
  obtain ⟨hflash, hpf⟩ := damageModels_flash_pf (ls.filterMap s.modelOf)
    (({ s with flash := { s.flash.lose ls with ueCnt := satPlus s.flash.ueCnt words } } : State).flashEvent 5)
  exact ⟨hflash, (congrArg (fun p : PfRegs => p.flEv.isSet 5) hpf).trans (EvReg.isSet_raise _ _ _)⟩

/- The retry and soft senses (R313). -/

section

variable {r : FlashRead} {flips : List (List Nat)}

/-- The array with a retry sense or the soft sense of a read counted. -/
def counted (s : State) (r : FlashRead) : Flash :=
  if r.ladder = 9 then { s.flash with softCnt := satUp s.flash.softCnt } else { s.flash with retryCnt := satUp s.flash.retryCnt }

theorem counted_of_soft (h : r.ladder = 9) : s.counted r = { s.flash with softCnt := satUp s.flash.softCnt } := if_pos h

theorem counted_of_retry (h : r.ladder ≠ 9) : s.counted r = { s.flash with retryCnt := satUp s.flash.retryCnt } := if_neg h

/-- Nothing but the two counters differs. -/
theorem counted_eq (s : State) (r : FlashRead) :
    s.counted r = { s.flash with softCnt := (s.counted r).softCnt, retryCnt := (s.counted r).retryCnt } := by
  unfold counted
  split <;> rfl

/-- What a retry or soft sense that decodes its page leaves. -/
theorem counted_decoded (s : State) (d : Nat) (r : FlashRead) (flips : List (List Nat)) {f : Flash}
    (hf : f = ((s.counted r).decodeStep r flips).1.decoded d ((s.counted r).decodeStep r flips).2) :
    f.answers = s.flash.answers ++ [(r.tag, some (s.flash.readPage r.addr))] ∧ f.cells = s.flash.cells ∧
      (if r.ladder = 9 then f.softCnt = satUp s.flash.softCnt else f.retryCnt = satUp s.flash.retryCnt) := by
  subst hf
  obtain ⟨hcells, hretry, hsoft⟩ := ((s.counted r).decodeStep r flips).1.decoded_rest d ((s.counted r).decodeStep r flips).2
  refine ⟨(Flash.decoded_answers _ _ _).trans ?_, hcells.trans ?_, ?_⟩
  · rw [Flash.decodeStep_eq, counted_eq]
    rfl
  · rw [Flash.decodeStep_eq, counted_eq]
  · split
    · next h9 => exact hsoft.trans (by rw [Flash.decodeStep_eq, counted_of_soft h9])
    · next h9 => exact hretry.trans (by rw [Flash.decodeStep_eq, counted_of_retry h9])

/-- What a soft sense that decodes no page leaves, before its codewords are counted. -/
theorem counted_failed (h9 : r.ladder = 9) (d : Nat) (flips : List (List Nat)) {f : Flash}
    (hf : f = ((s.counted r).decodeStep r flips).1.answerRead d r none) :
    f.answers = s.flash.answers ++ [(r.tag, none)] ∧ f.cells = s.flash.cells ∧ f.softCnt = satUp s.flash.softCnt ∧ f.ueCnt = s.flash.ueCnt := by
  rw [hf, Flash.answerRead_eq, Flash.decodeStep_eq, counted_of_soft h9]
  exact ⟨rfl, rfl, rfl, rfl⟩

variable (hf : (s.flash.die d).sensing.find? (fun r => paPlane r.addr == l && r.ladder != 0) = some r)

include hf

theorem retryDone_of_decoded (hall : ∀ c ∈ r.left, (flips.getD c []).length ≤ ladderBound r.ladder) :
    s.retryDone d l flips =
      { s with flash := ((s.counted r).decodeStep r flips).1.decoded d ((s.counted r).decodeStep r flips).2 } := by
  simp only [retryDone, hf]
  rw [← counted, if_pos (by rw [Flash.decodeStep_left_nil hall]; rfl)]

theorem retryDone_of_undecoded (h9 : r.ladder ≠ 9) (hex : ∃ c ∈ r.left, ladderBound r.ladder < (flips.getD c []).length) :
    s.retryDone d l flips =
      { s with flash := ((s.counted r).decodeStep r flips).1.setRead d { ((s.counted r).decodeStep r flips).2 with ladder := r.ladder + 1 } } := by
  simp only [retryDone, hf]
  rw [← counted, if_neg (by rw [List.isEmpty_iff]; exact Flash.decodeStep_left_ne_nil hex), if_neg h9]

theorem retryDone_of_uncorrectable (h9 : r.ladder = 9) (hex : ∃ c ∈ r.left, ladderBound r.ladder < (flips.getD c []).length) :
    s.retryDone d l flips =
      ({ s with flash := ((s.counted r).decodeStep r flips).1.answerRead d r none } : State).lostPages (s.flash.lpagesAt r.addr)
        ((s.counted r).decodeStep r flips).2.left.length := by
  simp only [retryDone, hf]
  rw [← counted, if_neg (by rw [List.isEmpty_iff]; exact Flash.decodeStep_left_ne_nil hex), if_pos h9]

end

end State

theorem FlashRead.ladder_of_find_first {l : Nat} {rs : List FlashRead} (r : FlashRead)
    (h : rs.find? (fun r => paPlane r.addr == l && r.ladder == 0) = some r) : r.ladder = 0 := by
  have hr := List.find?_some h
  simp only [Bool.and_eq_true, beq_iff_eq] at hr
  exact hr.2

theorem FlashRead.ladder_of_find_retry {l : Nat} {rs : List FlashRead} (r : FlashRead)
    (h : rs.find? (fun r => paPlane r.addr == l && r.ladder != 0) = some r) : r.ladder ≠ 0 := by
  have hr := List.find?_some h
  simp only [Bool.and_eq_true, beq_iff_eq, bne_iff_ne] at hr
  exact hr.2

/- Events that name a die, a plane, a page or a block of the array (R303, R304). -/

theorem onDie {d l : Nat} (hd : d < 64) (hl : l < 8) (o : Result) : (if 64 ≤ d ∨ 8 ≤ l then .fault .absentFlash else o) = o :=
  if_neg (not_or.mpr ⟨Nat.not_le.mpr hd, Nat.not_le.mpr hl⟩)

/-- An event of a plane that the array has, on a tile that runs. -/
theorem onDie_running {s : State} {d l : Nat} (hd : d < 64) (hl : l < 8) (hr : s.running = true) (t : State) :
    (if 64 ≤ d ∨ 8 ≤ l then .fault .absentFlash else if s.running then .next t else .next s : Result) = .next t :=
  (onDie hd hl _).trans (if_pos hr)

theorem paDie_lt (p : Nat) : paDie p < 64 := Nat.mod_lt _ (by decide)

theorem paPlane_lt (p : Nat) : paPlane p < 8 := Nat.mod_lt _ (by decide)

theorem exec_flashReadIssue_of_ok {s : State} {p : Nat} (hr : s.running = true) (hp : pageOk p = true) (tag : Nat) :
    exec (.flashReadIssue (paDie p) p tag) s = .next { s with flash := s.flash.readIssue p tag } := by
  refine (if_neg ?_).trans (if_pos hr)
  simp [Nat.not_le.mpr (paDie_lt p), hp]

theorem absentFlash_of_page {p : Nat} (hp : pageOk p = false) (s : State) : (∀ tag, exec (.flashReadIssue (paDie p) p tag) s = .fault .absentFlash) ∧
    ∀ w b, exec (.flashProgramIssue p w b) s = .fault .absentFlash :=
  ⟨fun _ => if_pos (.inr (.inr (by rw [hp]; rfl))), fun _ _ => if_pos (by rw [hp]; rfl)⟩

/-- Settles O49: a read that is issued is sensed or waits (`Flash.readIssue_of_free`, `Flash.readIssue_of_pulsing`); what a sense leaves is told by the
codewords that it decodes (`Flash.decodeStep_left`), and the ladder ends in `State.lostPages_of_words`. -/
theorem flashReads : Obligations.FlashReads := by
  refine ⟨fun s d l h => ⟨fun _ => if_pos h, fun _ => if_pos h, if_pos h, fun _ => if_pos h, fun _ => if_pos h, fun _ => if_pos h⟩,
    fun s p tag hp => ⟨(absentFlash_of_page hp s).1 tag, (absentFlash_of_page hp s).2⟩, fun s b hb => ⟨if_pos hb, fun _ => if_pos hb⟩,
    fun s p tag hr hp => ⟨fun hpulse hwait hsense => ?_, fun hpulse => ?_⟩,
    fun s d l flips r hr hd hl hf => ⟨fun hall => ?_, fun hex => ?_⟩,
    fun s d l flips r hr hd hl hf => ⟨fun hall => ?_, fun h9 hex => ?_, fun h9 hex => ?_⟩⟩
  · obtain ⟨hwaiting, hsensing, hreads⟩ := Flash.readIssue_of_free_sensed tag hpulse hwait hsense
    have hs := s.flash.senses_readIssue p tag
    exact ⟨_, exec_flashReadIssue_of_ok hr hp tag, hwaiting, hsensing, hreads, hs.cells, hs.map⟩
  · rw [exec_flashReadIssue_of_ok hr hp, Flash.readIssue_of_pulsing hpulse]
  · have h0 := r.ladder_of_find_first hf
    have hall' : ∀ c ∈ r.left, (flips.getD c []).length ≤ ladderBound r.ladder := by rwa [h0]
    refine ⟨_, onDie_running hd hl hr _, ?_⟩
    rw [Flash.readDone_of_decoded hf hall', Flash.decoded_answers, (Flash.decoded_rest _ _ _).1, Flash.decodeStep_eq]
    exact ⟨rfl, rfl, fun hm => Flash.decoded_relocate (.inl (Flash.decodeStep_many hall' hm))⟩
  · have h0 := r.ladder_of_find_first hf
    have hex' : ∃ c ∈ r.left, ladderBound r.ladder < (flips.getD c []).length := by rwa [h0]
    refine ⟨_, { (s.flash.decodeStep r flips).2 with ladder := 2 }, onDie_running hd hl hr _, ?_⟩
    rw [Flash.readDone_of_undecoded hf hex', Flash.setRead_sensing, Flash.decodeStep_left, h0, Flash.decodeStep_eq]
    exact ⟨rfl, rfl, rfl, rfl, rfl, rfl, rfl⟩
  · refine ⟨_, onDie_running hd hl hr _, ?_⟩
    rw [State.retryDone_of_decoded hf hall]
    obtain ⟨hanswers, hcells, hcount⟩ := s.counted_decoded d r flips rfl
    exact ⟨hanswers, Flash.decoded_relocate (.inr (r.ladder_of_find_retry hf)), hcells, hcount⟩
  · have hex' : ∃ c ∈ r.left, ladderBound r.ladder < (flips.getD c []).length := by rwa [ladderBound, if_neg h9]
    refine ⟨_, { ((s.counted r).decodeStep r flips).2 with ladder := r.ladder + 1 }, onDie_running hd hl hr _, ?_⟩
    rw [State.retryDone_of_undecoded hf h9 hex', State.flashRow_flash, Flash.setRead_sensing, Flash.decodeStep_left, Flash.decodeStep_eq,
      State.counted_of_retry h9, ladderBound, if_neg h9]
    exact ⟨rfl, rfl, rfl, rfl, rfl, rfl, rfl⟩
  · have hex' : ∃ c ∈ r.left, ladderBound r.ladder < (flips.getD c []).length := by rwa [ladderBound, if_pos h9]
    have hleft : ((s.counted r).decodeStep r flips).2.left = r.left.filter (fun c => decide (220 < (flips.getD c []).length)) := by
      rw [Flash.decodeStep_left, ladderBound, if_pos h9]
    refine ⟨_, onDie_running hd hl hr _, ?_⟩
    rw [State.retryDone_of_uncorrectable hf h9 hex']
    obtain ⟨hflash, hevent⟩ := State.lostPages_of_words (fun h => Flash.decodeStep_left_ne_nil hex' (List.length_eq_zero_iff.mp h))
      ({ s with flash := ((s.counted r).decodeStep r flips).1.answerRead d r none } : State) (s.flash.lpagesAt r.addr)
    obtain ⟨hanswers, hcells, hsoft, hue⟩ := s.counted_failed h9 d flips rfl
    refine ⟨(congrArg Flash.softCnt hflash).trans hsoft, (congrArg Flash.ueCnt hflash).trans ?_, (congrArg Flash.answers hflash).trans hanswers, hevent,
      (congrArg Flash.cells hflash).trans hcells⟩
    rw [← hleft]
    exact congrArg (fun n => satPlus n _) hue

end Sys2Proof.Machine

namespace Sys2Proof.Machine

/- Programs and erases (R308 to R310, R318). -/

/- The fields of a page address (R304). -/

section

variable {d l k : Nat}

theorem paDie_pageAddr (hd : d < 64) (p : Nat) : paDie (pageAddr d l k p) = d := by
  unfold paDie pageAddr
  omega

theorem paPlane_pageAddr (hd : d < 64) (hl : l < 8) (p : Nat) : paPlane (pageAddr d l k p) = l := by
  unfold paPlane pageAddr
  omega

theorem paBlock_pageAddr (hd : d < 64) (hl : l < 8) (hk : k < 256) (p : Nat) : paBlock (pageAddr d l k p) = k := by
  unfold paBlock pageAddr
  omega

end

/-- A block's pages lie in it. -/
theorem paBlockId_blockPage {b : Nat} (hb : b < allBlocks) (p : Nat) : paBlockId (blockPage b p) = b := by
  unfold allBlocks blocksPerPlane at hb
  have hd : blockIdDie b < 64 := by unfold blockIdDie blocksPerPlane; omega
  have hl : blockIdPlane b < 8 := Nat.mod_lt _ (by decide)
  have hk : b % blocksPerPlane < 256 := by unfold blocksPerPlane; omega
  rw [paBlockId, blockPage, paDie_pageAddr hd, paPlane_pageAddr hd hl, paBlock_pageAddr hd hl hk]
  unfold blockIdDie blockIdPlane blocksPerPlane
  omega

namespace Flash

variable {f g h : Flash} {b d k l : Nat}

/- Where a program goes (R310, R311, R319). -/

theorem mem_planeBlocks (hb : b ∈ f.planeBlocks d l) : b < allBlocks := by
  have hm := (List.mem_filter.mp hb).2
  simp only [managed, Bool.and_eq_true, decide_eq_true_eq] at hm
  exact hm.1

/-- What a fold that keeps one of the listed numbers gives is listed. -/
theorem foldl_kept_mem {u : Option Nat → Nat → Option Nat} (hu : ∀ acc b c, u acc b = some c → c = b ∨ acc = some c) {bs : List Nat}
    (h : bs.foldl u none = some b) : b ∈ bs := by
  suffices hk : ∀ c, bs.foldl u none = some c → c ∈ bs from hk b h
  refine List.foldlRecOn (motive := fun acc : Option Nat => ∀ c, acc = some c → c ∈ bs) _ _ (fun c hc => by cases hc) (fun acc ih x hx c hc => ?_)
  rcases hu acc x c hc with rfl | hacc
  · exact hx
  · exact ih c hacc

theorem freshest_some (hb : f.freshest d l = some b) : b ∈ f.planeBlocks d l ∧ (f.block b).state = .erased := by
  have hm := foldl_kept_mem (fun acc b c h => ?_) hb
  · simpa using List.mem_filter.mp hm
  · split at h
    · exact .inl (Option.some.inj h).symm
    · split at h
      · exact .inl (Option.some.inj h).symm
      · exact .inr h

/-- A write takes a block of the array that is neither retired nor full (R311, R319). -/
theorem pick_some {w : FlashWriter} (hb : f.pick w d l = some b) : b < allBlocks ∧ (f.block b).state ≠ .retired := by
  rcases Option.or_eq_some_iff.mp hb with hopen | ⟨-, hfresh⟩
  · have ho := List.find?_some hopen
    simp only [Bool.and_eq_true, beq_iff_eq] at ho
    obtain ⟨⟨ho, -⟩, -⟩ := ho
    exact ⟨mem_planeBlocks (List.mem_of_find?_eq_some hopen), by rw [ho]; decide⟩
  · obtain ⟨hm, he⟩ := freshest_some hfresh
    exact ⟨mem_planeBlocks hm, by rw [he]; decide⟩

theorem placeFor_some {o : OwedPage} {p : Nat} (h : f.placeFor o = some (p, b)) : b < allBlocks ∧ (f.block b).state ≠ .retired ∧ b ≠ o.shun := by
  obtain ⟨i, -, hi⟩ := List.exists_of_findSome?_eq_some h
  dsimp only at hi
  split at hi
  · cases hi
  · obtain ⟨c, hc, he⟩ := Option.map_eq_some_iff.mp hi
    cases he
    obtain ⟨hpick, hshun⟩ := Option.filter_eq_some_iff.mp hc
    obtain ⟨hlt, hret⟩ := pick_some hpick
    exact ⟨hlt, hret, by simpa using hshun⟩

/- Programs that are made again (R309, R310). -/

/-- One owed program is made when a place is found for it. -/
def startOne (f : Flash) (o : OwedPage) : Flash :=
  match f.placeFor o with
  | none => f
  | some (p, b) =>
    ({ f.taken b o.writer with owed := f.owed.erase o } : Flash).startOp (p / 8) (p % 8) (.program (blockPage b (f.block b).pages) o.writer o.data)

theorem startOwed_eq (f : Flash) : f.startOwed = if f.pulses then f.owed.foldl startOne f else f := by
  unfold startOwed
  cases f.pulses with
  | false => rfl
  | true =>
    refine congrArg (List.foldl · f f.owed) (funext fun g => funext fun o => ?_)
    unfold startOne
    cases g.placeFor o <;> rfl

/-- The second array is the first one after reads and programs have gone on: its pages, its queues and its counters are as before, and so are every block's
erase count and the retired blocks. -/
structure Proceeds (f g : Flash) : Prop where
  parts : g = { f with blocks := g.blocks, dies := g.dies, owed := g.owed, state := g.state }
  erases : ∀ b, (g.block b).erases = (f.block b).erases
  retired : ∀ b, (f.block b).state = .retired → (g.block b).state = .retired

theorem Proceeds.refl (f : Flash) : f.Proceeds f := ⟨rfl, fun _ => rfl, fun _ h => h⟩

theorem Proceeds.trans (hfg : f.Proceeds g) (hgh : g.Proceeds h) : f.Proceeds h := by
  refine ⟨?_, fun b => (hgh.erases b).trans (hfg.erases b), fun b hb => hgh.retired b (hfg.retired b hb)⟩
  rw [hgh.parts, hfg.parts]

theorem Proceeds.cells (hfg : f.Proceeds g) : g.cells = f.cells := by rw [hfg.parts]

theorem Senses.proceeds (hfg : f.Senses g) : f.Proceeds g := by
  refine ⟨?_, fun b => by rw [hfg.blocks b], fun b hb => by rw [hfg.blocks b]; exact hb⟩
  rw [hfg.parts]

theorem proceeds_of_blocks_eq (hp : g = { f with dies := g.dies, owed := g.owed, state := g.state }) : f.Proceeds g := by
  have hb : g.blocks = f.blocks := by rw [hp]
  have hblock : ∀ b, g.block b = f.block b := fun b => by rw [block, hb, block]
  exact ⟨by rw [hp], fun b => by rw [hblock], fun b h => by rw [hblock]; exact h⟩

theorem taken_block_self (f : Flash) (b : Nat) (w : FlashWriter) :
    ((f.taken b w).block b).pages = (f.block b).pages + 1 ∧ ((f.taken b w).block b).erases = (f.block b).erases := by
  unfold taken
  dsimp only
  rw [block_setBlock_self]
  split <;> exact ⟨rfl, rfl⟩

theorem taken_block_ne (hk : k ≠ b) (w : FlashWriter) : (f.taken b w).block k = f.block k := block_setBlock_ne hk _

theorem proceeds_taken {w : FlashWriter} (hb : (f.block b).state ≠ .retired) : f.Proceeds (f.taken b w) := by
  refine ⟨rfl, fun k => ?_, fun k hk => ?_⟩
  · by_cases he : k = b
    · rw [he, (f.taken_block_self b w).2]
    · rw [taken_block_ne he]
  · rw [taken_block_ne (by rintro rfl; exact hb hk)]
    exact hk

theorem proceeds_startOne (f : Flash) (o : OwedPage) : f.Proceeds (f.startOne o) := by
  unfold startOne
  split
  · exact .refl f
  · next p b hp =>
    obtain ⟨-, hret, -⟩ := placeFor_some hp
    exact (proceeds_taken hret).trans (proceeds_of_blocks_eq rfl)

theorem proceeds_startOwed (f : Flash) : f.Proceeds f.startOwed := by
  rw [startOwed_eq]
  split
  · exact List.foldlRecOn (motive := f.Proceeds) _ _ (.refl f) (fun g hg o _ => hg.trans (g.proceeds_startOne o))
  · exact .refl f

theorem startOwed_of_nil (h : f.owed = []) : f.startOwed = f := by
  rw [startOwed_eq, h, List.foldl_nil, ite_self]

/-- The end of an operation lets reads and owed programs go on. -/
theorem proceeds_opEnd (f : Flash) (d l : Nat) : f.Proceeds (f.opEnd d l) :=
  ((proceeds_of_blocks_eq rfl).trans (senses_senseWaiting _ d).proceeds).trans (proceeds_startOwed _)

/-- The program of a page of data is owed, or under way in a block other than the one that it cannot go to. -/
def Carries (f : Flash) (o : OwedPage) : Prop :=
  o ∈ f.owed ∨ ∃ d l a x, f.op d l = some x ∧ x.work = .program a o.writer o.data ∧ paBlockId a ≠ o.shun

theorem startOp_op_self (f : Flash) (d l : Nat) (w : DieWork) :
    (f.startOp d l w).op d l = some ⟨w, (f.die d).sensing.isEmpty && (f.die d).waiting.isEmpty, 0⟩ := by
  rw [op, startOp, die_modDie_self]
  exact AList.get?_set_self _ _ _

theorem startOp_owed (f : Flash) (d l : Nat) (w : DieWork) : (f.startOp d l w).owed = f.owed := rfl

theorem carries_startOne {o : OwedPage} (ho : o ∈ f.owed) : (f.startOne o).Carries o := by
  unfold startOne
  split
  · exact .inl ho
  · next p b hp =>
    obtain ⟨hlt, -, hshun⟩ := placeFor_some hp
    exact .inr ⟨_, _, _, _, startOp_op_self _ _ _ _, rfl, by rwa [paBlockId_blockPage hlt]⟩

/-- Making one owed program takes no other from the list, and itself at most once. -/
theorem count_startOne (f : Flash) (o x : OwedPage) : f.owed.count x ≤ (f.startOne o).owed.count x + [o].count x := by
  unfold startOne
  split
  · exact Nat.le_add_right _ _
  · rw [startOp_owed, List.count_erase, List.count_singleton]
    split <;> omega

theorem count_foldl_startOne (l : List OwedPage) (f : Flash) (x : OwedPage) : f.owed.count x ≤ (l.foldl startOne f).owed.count x + l.count x := by
  induction l generalizing f with
  | nil => exact Nat.le_add_right _ _
  | cons o l ih =>
    have h1 := f.count_startOne o x
    have h2 := ih (f.startOne o)
    rw [List.foldl_cons, List.count_cons]
    rw [List.count_singleton] at h1
    omega

/-- The program that became owed last is still owed once those before it have been made, and so it is carried on. -/
theorem carries_startOwed {l : List OwedPage} {o : OwedPage} (h : f.owed = l ++ [o]) : f.startOwed.Carries o := by
  have hl : o ∈ (l.foldl startOne f).owed := by
    have hc := count_foldl_startOne l f o
    rw [h, List.count_append, List.count_singleton_self] at hc
    exact List.count_pos_iff.mp (by omega)
  rw [startOwed_eq]
  split
  · rw [h, List.foldl_append, List.foldl_cons, List.foldl_nil]
    exact carries_startOne hl
  · exact .inl (by rw [h]; exact List.mem_append_right _ (List.mem_singleton_self o))

/-- Reads that are sensed leave every program as it is. -/
theorem Carries.senses {o : OwedPage} (hf : f.Carries o) (hfg : f.Senses g) : g.Carries o := by
  refine hf.imp (fun ho => ?_) (fun ⟨d, l, a, x, hx, hw⟩ => ⟨d, l, a, x, (hfg.ops d l).trans hx, hw⟩)
  rw [hfg.parts]
  exact ho

end Flash
end Sys2Proof.Machine

namespace Sys2Proof.Machine

theorem EvReg.isSet_raise_of_isSet {e : EvReg} {k : Nat} (h : e.isSet k = true) (bit now : Nat) : (e.raise bit now).isSet k = true := by
  by_cases hk : k = bit
  · rw [hk]
    exact isSet_raise _ _ _
  · obtain ⟨p, hp, hpk⟩ := List.any_eq_true.mp h
    have hne : p.1 ≠ bit := fun e => hk ((beq_iff_eq.mp hpk).symm.trans e)
    exact List.any_eq_true.mpr ⟨p, List.mem_cons_of_mem _ (List.mem_filter.mpr ⟨hp, bne_iff_ne.mpr hne⟩), hpk⟩

namespace State

variable {s t u : State}

/-- The second state is the first one after its flash array has gone on (`Flash.Proceeds`): no flash event is gone, and what the tile keeps and its DRAM are
as before. -/
structure FlashProceeds (s t : State) : Prop where
  flash : s.flash.Proceeds t.flash
  events : ∀ k, s.pf.flEv.isSet k = true → t.pf.flEv.isSet k = true
  nv : t.nv = s.nv
  dram : t.dram = s.dram

theorem FlashProceeds.refl (s : State) : s.FlashProceeds s := ⟨.refl _, fun _ h => h, rfl, rfl⟩

theorem FlashProceeds.trans (hst : s.FlashProceeds t) (htu : t.FlashProceeds u) : s.FlashProceeds u :=
  ⟨hst.flash.trans htu.flash, fun k h => htu.events k (hst.events k h), htu.nv.trans hst.nv, htu.dram.trans hst.dram⟩

theorem FlashProceeds.ite {p : Prop} [Decidable p] (ht : s.FlashProceeds t) (hu : s.FlashProceeds u) : s.FlashProceeds (if p then t else u) := by
  split
  · exact ht
  · exact hu

theorem flashProceeds_setFlash {f : Flash} (h : s.flash.Proceeds f) : s.FlashProceeds { s with flash := f } := ⟨h, fun _ h => h, rfl, rfl⟩

theorem flashProceeds_flashEvent (s : State) (b : Nat) : s.FlashProceeds (s.flashEvent b) :=
  ⟨.refl _, fun _ h => EvReg.isSet_raise_of_isSet h _ _, rfl, rfl⟩

theorem flashProceeds_logPf (s : State) (r : LogRec) : s.FlashProceeds (s.logPf r) := by
  rw [logPf, (posts_logTo s 0 r).eq]
  exact ⟨.refl _, fun _ h => h, rfl, rfl⟩

/-- A fall of the spare count raises events, and shows in the spare state alone. -/
theorem flashProceeds_settleSpares (s : State) (n : Nat) : s.FlashProceeds (s.settleSpares n) := by
  unfold settleSpares
  have hstep : ∀ (p : Prop) [Decidable p] (t : State) (b : Nat), s.FlashProceeds t → s.FlashProceeds (if p then t.flashEvent b else t) :=
    fun p _ t b h => (h.trans (t.flashProceeds_flashEvent b)).ite h
  exact hstep _ _ _ (hstep _ _ _ (hstep _ _ _ (flashProceeds_setFlash (Flash.proceeds_of_blocks_eq rfl))))

theorem settleSpares_flash (s : State) (n : Nat) : ∃ st, (s.settleSpares n).flash = { s.flash with state := st } := by
  unfold settleSpares
  have hstep : ∀ (p : Prop) [Decidable p] (t : State) (b : Nat), (if p then t.flashEvent b else t).flash = t.flash :=
    fun p _ t b => by split <;> rfl
  exact ⟨_, (hstep _ _ _).trans ((hstep _ _ _).trans (hstep _ _ _))⟩

/- Programs that are made elsewhere (R309, R310). -/

theorem flashProceeds_programAgain (s : State) (a : Nat) (w : FlashWriter) (b : Bytes) : s.FlashProceeds (s.programAgain a w b) :=
  (flashProceeds_setFlash ((Flash.proceeds_of_blocks_eq rfl).trans (Flash.proceeds_startOwed _))).trans (flashProceeds_settleSpares _ _)

theorem settleSpares_carries {o : OwedPage} (h : s.flash.Carries o) (n : Nat) : (s.settleSpares n).flash.Carries o := by
  obtain ⟨st, hst⟩ := s.settleSpares_flash n
  rw [hst]
  exact h

theorem programAgain_carries (s : State) (a : Nat) (w : FlashWriter) (b : Bytes) :
    (s.programAgain a w b).flash.Carries ⟨w, paDie a * 8 + paPlane a, paBlockId a, b⟩ :=
  settleSpares_carries (s := { s with flash := _ }) (Flash.carries_startOwed rfl) _

end State
end Sys2Proof.Machine

namespace Sys2Proof.Machine

theorem Flash.place_readPage {b : Bytes} (hb : b.length = 16384) (f : Flash) (p : Nat) : (f.place p b).readPage p = b := by
  have hlen : b.length = pageBytes := hb
  rw [place, readPage, fixLen_of_length hlen, ← hlen]
  exact Mem.readN_write_self f.cells _ b

theorem Flash.place_read_of_outside {p a : Nat} (ha : a < p * 16384 ∨ p * 16384 + 16384 ≤ a) (f : Flash) (b : Bytes) :
    (f.place p b).cells.read a = f.cells.read a := by
  rw [place, Mem.read_write, fixLen_length, if_neg]
  unfold pageBytes
  omega

/-- The array with a program of a page begun on its idle plane (R307, R308). -/
def Flash.programStart (f : Flash) (p : Nat) (w : FlashWriter) (b : Bytes) : Flash :=
  (f.taken (paBlockId p) w).startOp (paDie p) (paPlane p) (.program p w b)

namespace State

variable {s : State} {d l p n : Nat} {w : FlashWriter} {b : Bytes}

/- Programs that are issued (R308, R309, R320). -/

theorem exec_flashProgramIssue (hr : s.running = true) (hp : pageOk p = true) (who : Programmer) (b : Bytes) :
    exec (.flashProgramIssue p who b) s = .next (s.flashRow (s.programIssue p who b)) :=
  (if_neg (by rw [hp]; exact Bool.false_ne_true)).trans (if_pos hr)

theorem programIssue_of_worn {who : Programmer} (hm : s.mayProgram who = false) : s.programIssue p who b = s := by
  rw [programIssue, if_pos (by rw [hm]; rfl)]

theorem programIssue_of_unaccepted {who : Programmer} (hm : s.mayProgram who = true) (ha : s.flash.accepts p = false) :
    s.programIssue p who b = s.refuseProgram p (writerOf who) b := by
  rw [programIssue, if_neg (by rw [hm]; exact Bool.false_ne_true), if_pos (by rw [ha]; rfl)]

theorem programIssue_of_accepted {who : Programmer} (hm : s.mayProgram who = true) (ha : s.flash.accepts p = true)
    (ho : s.flash.op (paDie p) (paPlane p) = none) (hpulse : s.flash.pulses = true) :
    s.programIssue p who b = ({ s with flash := s.flash.programStart p (writerOf who) b } : State).settleSpares s.flash.spares := by
  rw [programIssue, if_neg (by rw [hm]; exact Bool.false_ne_true), if_neg (by rw [ha]; exact Bool.false_ne_true), if_pos (by rw [ho, hpulse]; rfl)]
  rfl

/-- The state with the refusal of a program counted, its event raised and logged, and no further program due in its block (R309). -/
def refusing (s : State) (p : Nat) : State :=
  (({ s with flash := {
    (if (s.flash.block (paBlockId p)).state = .opened then
      s.flash.setBlock (paBlockId p) { s.flash.block (paBlockId p) with state := .closed, closedAt := s.flash.clock } else s.flash) with
    refused := satUp s.flash.refused } } : State).flashEvent 3).logPf (mkLog 0x0011 [(0, p + 2 ^ 31)])

theorem refuseProgram_eq (s : State) (p : Nat) (w : FlashWriter) (b : Bytes) : s.refuseProgram p w b = (s.refusing p).programAgain p w b := by
  unfold refuseProgram refusing
  dsimp only
  split <;> rfl

theorem refusing_leaves (s : State) (p : Nat) : (s.refusing p).flash.refused = satUp s.flash.refused ∧ (s.refusing p).flash.cells = s.flash.cells ∧
    (s.refusing p).pf.flEv.isSet 3 = true ∧ (s.refusing p).dram = s.dram := by
  rw [refusing, logPf, (posts_logTo _ _ _).eq]
  refine ⟨rfl, ?_, EvReg.isSet_raise _ _ _, rfl⟩
  show (if _ then _ else _ : Flash).cells = _
  split <;> rfl

/- Programs that end (R308, R310). -/

theorem programDone_of_passed (ho : s.flash.op d l = some ⟨.program p w b, true, n⟩) :
    s.programDone d l true = ({ s with flash := (s.flash.place p b).opEnd d l } : State).settleSpares s.flash.spares := by
  rw [programDone, ho]
  rfl

/-- The state once a program has failed, and its block is retired (R310). -/
def programFailed (s : State) (d l p : Nat) : State :=
  ({ s with flash := { s.flash.modDie d (fun x => { x with ops := x.ops.erase l }) with progFail := satUp s.flash.progFail } } : State).retireBlock
    (paBlockId p)

theorem programDone_of_failed (ho : s.flash.op d l = some ⟨.program p w b, true, n⟩) :
    s.programDone d l false =
      { (s.programFailed d l p).programAgain p w b with flash := ((s.programFailed d l p).programAgain p w b).flash.senseWaiting d } := by
  rw [programDone, ho]
  rfl

/-- What the retirement of a block that failed leaves, with its event raised (R310, R320). -/
structure Retires (s t : State) (b : Nat) : Prop where
  retired : (t.flash.block b).state = .retired
  event : t.pf.flEv.isSet 4 = true
  cells : t.flash.cells = s.flash.cells
  progFail : t.flash.progFail = s.flash.progFail
  eraseFail : t.flash.eraseFail = s.flash.eraseFail
  eraseQueue : t.flash.eraseQueue = s.flash.eraseQueue

theorem retireBlock_leaves (s : State) (b : Nat) : s.Retires (s.retireBlock b) b := by
  obtain ⟨st, hst⟩ := (({ s with flash := s.flash.retire b } : State).flashEvent 4).settleSpares_flash s.flash.spares
  have h := (({ s with flash := s.flash.retire b } : State).flashEvent 4).flashProceeds_settleSpares s.flash.spares
  refine ⟨h.flash.retired b ?_, h.events 4 (EvReg.isSet_raise _ _ _), ?_, ?_, ?_, ?_⟩
  · exact congrArg FlashBlock.state (Flash.block_setBlock_self _ _ _)
  all_goals rw [retireBlock, hst]; rfl

theorem programFailed_leaves (s : State) (d l p : Nat) : ((s.programFailed d l p).flash.block (paBlockId p)).state = .retired ∧
    (s.programFailed d l p).flash.cells = s.flash.cells ∧ (s.programFailed d l p).pf.flEv.isSet 4 = true ∧
    (s.programFailed d l p).flash.progFail = satUp s.flash.progFail :=
  have h := retireBlock_leaves { s with flash :=
    { s.flash.modDie d (fun x => { x with ops := x.ops.erase l }) with progFail := satUp s.flash.progFail } } (paBlockId p)
  ⟨h.retired, h.cells, h.event, h.progFail⟩

end State

/-- Settles O50: a program starts, is refused or does nothing (`State.programIssue_of_accepted` and its companions); what a pulse's end leaves goes on from
the page placed or the block retired (`State.FlashProceeds`), and data that must be programmed elsewhere is carried on (`State.programAgain_carries`). -/
theorem flashPrograms : Obligations.FlashPrograms := by
  refine ⟨fun s p w b hr hp hm ha ho hpulse => ?_, fun s p w b hr hp hm ha => ?_, fun s p w b hr hp hm => ?_,
    fun s d l p n w b hr hd hl ho hb => ?_, fun s d l p n w b hr hd hl ho => ?_⟩
  · refine ⟨_, State.exec_flashProgramIssue hr hp w b, ?_⟩
    rw [State.programIssue_of_accepted hm ha ho hpulse]
    obtain ⟨st, hst⟩ := State.settleSpares_flash { s with flash := s.flash.programStart p (writerOf w) b } s.flash.spares
    have hnv := (State.flashProceeds_settleSpares { s with flash := s.flash.programStart p (writerOf w) b } s.flash.spares).nv
    rw [State.flashRow_flash, hst]
    exact ⟨Flash.startOp_op_self _ _ _ _, (s.flash.taken_block_self _ _).1, rfl, congrArg (Nv.modelsOf s.nv) hnv, rfl⟩
  · refine ⟨_, State.exec_flashProgramIssue hr hp w b, ?_⟩
    rw [State.programIssue_of_unaccepted hm ha, State.refuseProgram_eq]
    obtain ⟨hrefused, hcells, hevent, hdram⟩ := s.refusing_leaves p
    have hagain := (s.refusing p).flashProceeds_programAgain p (writerOf w) b
    have hcount : ((s.refusing p).programAgain p (writerOf w) b).flash.refused = (s.refusing p).flash.refused := by rw [hagain.flash.parts]
    exact ⟨hcount.trans hrefused, hagain.flash.cells.trans hcells, hagain.events 3 hevent, rfl, State.programAgain_carries _ _ _ _⟩
  · rw [State.exec_flashProgramIssue hr hp, State.programIssue_of_worn hm]
    rfl
  · refine ⟨_, onDie_running hd hl hr _, ?_⟩
    rw [State.programDone_of_passed ho]
    have hs := ((State.flashProceeds_setFlash (s := { s with flash := s.flash.place p b }) (Flash.proceeds_opEnd _ d l))).trans
      (State.flashProceeds_settleSpares _ s.flash.spares)
    refine ⟨?_, fun a ha => ?_, congrArg (Nv.modelsOf s.nv) hs.nv, rfl⟩
    · exact (congrArg (fun m : Mem => m.readN _ _) hs.flash.cells).trans (Flash.place_readPage hb _ p)
    · exact (congrArg (fun m : Mem => m.read a) hs.flash.cells).trans (Flash.place_read_of_outside ha _ b)
  · refine ⟨_, onDie_running hd hl hr _, ?_⟩
    rw [State.programDone_of_failed ho]
    obtain ⟨hstate, hcells, hevent, hfail⟩ := s.programFailed_leaves d l p
    have hagain := (s.programFailed d l p).flashProceeds_programAgain p w b
    have hsense := ((s.programFailed d l p).programAgain p w b).flash.senses_senseWaiting d
    have hs := hagain.flash.trans hsense.proceeds
    have hcount : (((s.programFailed d l p).programAgain p w b).flash.senseWaiting d).progFail = (s.programFailed d l p).flash.progFail := by
      rw [hs.parts]
    exact ⟨hcount.trans hfail, hagain.events 4 hevent, hs.retired _ hstate, hs.cells.trans hcells,
      (State.programAgain_carries _ _ _ _).senses hsense⟩

end Sys2Proof.Machine

namespace Sys2Proof.Machine

/- Erases (R308, R310, R318). -/

/-- Runs of one length made zero: what lies in one of them reads zero, and the rest as before. -/
theorem Mem.read_clears (l : List Nat) (u : Nat → Nat) (n : Nat) (m : Mem) (x : Nat) :
    (l.foldl (fun m p => m.clear (u p) n) m).read x = if ∃ p ∈ l, u p ≤ x ∧ x < u p + n then Mem.blank else m.read x := by
  induction l generalizing m with
  | nil => simp
  | cons p l ih =>
    rw [List.foldl_cons, ih, Mem.read_clear]
    by_cases hp : u p ≤ x ∧ x < u p + n
    · simp [hp]
    · simp [hp]

theorem div_pageBytes {q a : Nat} (h : q * pageBytes ≤ a ∧ a < q * pageBytes + pageBytes) : a / 16384 = q := by
  unfold pageBytes at h
  omega

namespace Flash

variable {f : Flash} {b k : Nat}

theorem erased_cells (f : Flash) (b x : Nat) : (f.erased b).cells.read x =
    if ∃ p ∈ List.range 1024, blockPage b p * pageBytes ≤ x ∧ x < blockPage b p * pageBytes + pageBytes then Mem.blank else f.cells.read x := by
  simp only [erased]
  generalize List.range 1024 = l
  exact Mem.read_clears l (fun p => blockPage b p * pageBytes) pageBytes f.cells x

theorem erased_blocks (f : Flash) (b : Nat) :
    (f.erased b).blocks = f.blocks.set b { FlashBlock.fresh with erases := (f.block b).erases + 1 } := rfl

/-- An erased block reads blank. -/
theorem erased_read_of_page {p i : Nat} (hp : p < 1024) (hi : i < 16384) (f : Flash) (b : Nat) :
    (f.erased b).cells.read (blockPage b p * 16384 + i) = 0 := by
  rw [erased_cells, if_pos ⟨p, List.mem_range.mpr hp, Nat.le_add_right _ i, Nat.add_lt_add_left hi _⟩]
  rfl

/-- Pages of other blocks read as before. -/
theorem erased_read_of_other {a : Nat} (hb : b < allBlocks) (ha : paBlockId (a / 16384) ≠ b) (f : Flash) :
    (f.erased b).cells.read a = f.cells.read a := by
  rw [erased_cells, if_neg]
  rintro ⟨p, -, hp⟩
  exact ha (by rw [div_pageBytes hp, paBlockId_blockPage hb])

theorem erased_block_self (f : Flash) (b : Nat) : (f.erased b).block b = { FlashBlock.fresh with erases := (f.block b).erases + 1 } := by
  rw [block, erased_blocks]
  exact AList.getD_set_self _ _ _ _

theorem erased_block_ne (hk : k ≠ b) (f : Flash) : (f.erased b).block k = f.block k := by
  rw [block, erased_blocks]
  exact AList.getD_set_ne _ _ _ hk

theorem not_mem_erased_queue (f : Flash) (b : Nat) : b ∉ (f.erased b).eraseQueue := by
  simp [erased]

/-- A pulse of an erase begins: the block waits for it, and the journal notes it (R307, R325). -/
theorem eraseIssue_of_may (h : f.mayErase b = true) : (f.eraseIssue b).op (blockIdDie b) (blockIdPlane b) = some ⟨.erase b, true, 0⟩ ∧
    ((f.eraseIssue b).block b).state = .erasing ∧ (f.eraseIssue b).records = f.records ++ [.eraseBegin b] ∧ (f.eraseIssue b).cells = f.cells := by
  have hidle : ((f.die (blockIdDie b)).sensing.isEmpty && (f.die (blockIdDie b)).waiting.isEmpty) = true := by
    simp only [mayErase, Bool.and_eq_true] at h
    simp [h]
  rw [eraseIssue, if_pos h]
  refine ⟨(startOp_op_self _ _ _ _).trans ?_, congrArg FlashBlock.state (block_setBlock_self f b _), rfl, rfl⟩
  exact congrArg (fun x => some (PlaneOp.mk (.erase b) x 0)) hidle

/-- With no program owed, the end of an operation begins none. -/
theorem opEnd_block_of_nil (h : f.owed = []) (d l b : Nat) :
    ((f.opEnd d l).block b).state = (f.block b).state ∧ ((f.opEnd d l).block b).pages = (f.block b).pages := by
  have hs := (f.modDie d (fun x => { x with ops := x.ops.erase l })).senses_senseWaiting d
  have howed : ((f.modDie d (fun x => { x with ops := x.ops.erase l })).senseWaiting d).owed = [] := by
    rw [hs.parts]
    exact h
  rw [opEnd, startOwed_of_nil howed, hs.blocks b]
  exact ⟨rfl, rfl⟩

theorem erased_owed (f : Flash) (b : Nat) : (f.erased b).owed = f.owed := by
  unfold erased
  rfl

end Flash

namespace State

variable {s : State} {d l b n : Nat}

/-- The array with the journal's note that an erase has ended. -/
def eraseNoted (s : State) (b : Nat) : Flash := { s.flash with records := s.flash.records ++ [.eraseEnd b] }

/-- The state after a passed erase, before the spare count is settled. -/
def erasePassed (s : State) (d l b : Nat) : State := { s with flash := ((s.eraseNoted b).erased b).opEnd d l }

/-- A passed erase settles the spare count, and may be the one after which the array is at its rated wear (R319). -/
theorem eraseDone_of_passed (ho : s.flash.op d l = some ⟨.erase b, true, n⟩) :
    s.eraseDone d l true = (s.erasePassed d l b).settleSpares s.flash.spares ∨
      s.eraseDone d l true = ((s.erasePassed d l b).settleSpares s.flash.spares).flashEvent 6 := by
  simp only [eraseDone, ho, erasePassed, eraseNoted, if_true]
  split
  · exact .inr rfl
  · exact .inl rfl

/-- The state once an erase has failed, and its block is retired (R310). -/
def eraseFailed (s : State) (b : Nat) : State :=
  ({ s with flash := { s.eraseNoted b with
    eraseFail := satUp s.flash.eraseFail, eraseQueue := s.flash.eraseQueue.filter (· != b) } } : State).retireBlock b

theorem eraseFailed_leaves (s : State) (b : Nat) : ((s.eraseFailed b).flash.block b).state = .retired ∧ (s.eraseFailed b).flash.cells = s.flash.cells ∧
    (s.eraseFailed b).flash.eraseFail = satUp s.flash.eraseFail ∧ b ∉ (s.eraseFailed b).flash.eraseQueue := by
  have h := retireBlock_leaves { s with flash := { s.eraseNoted b with
    eraseFail := satUp s.flash.eraseFail, eraseQueue := s.flash.eraseQueue.filter (· != b) } } b
  refine ⟨h.retired, h.cells, h.eraseFail, ?_⟩
  rw [eraseFailed, h.eraseQueue]
  simp

theorem eraseDone_of_failed (ho : s.flash.op d l = some ⟨.erase b, true, n⟩) : s.eraseDone d l false =
    ({ s.eraseFailed b with flash := (s.eraseFailed b).flash.opEnd d l } : State).settleSpares (s.eraseFailed b).flash.spares := by
  simp only [eraseDone, ho, eraseFailed, eraseNoted, Bool.false_eq_true, if_false]

/-- A passed erase ends in its block erased, and what goes on from there. -/
theorem eraseDone_proceeds (ho : s.flash.op d l = some ⟨.erase b, true, n⟩) :
    ({ s with flash := (s.eraseNoted b).erased b } : State).FlashProceeds (s.eraseDone d l true) := by
  have hend : ({ s with flash := (s.eraseNoted b).erased b } : State).FlashProceeds (s.erasePassed d l b) :=
    flashProceeds_setFlash (s := { s with flash := _ }) (Flash.proceeds_opEnd _ d l)
  have hsettle := hend.trans ((s.erasePassed d l b).flashProceeds_settleSpares s.flash.spares)
  rcases eraseDone_of_passed ho with h | h <;> rw [h]
  · exact hsettle
  · exact hsettle.trans (flashProceeds_flashEvent _ 6)

theorem eraseDone_block_of_nil (ho : s.flash.op d l = some ⟨.erase b, true, n⟩) (hn : s.flash.owed = []) :
    ((s.eraseDone d l true).flash.block b).state = .erased ∧ ((s.eraseDone d l true).flash.block b).pages = 0 := by
  obtain ⟨hstate, hpages⟩ := Flash.opEnd_block_of_nil (((s.eraseNoted b).erased_owed b).trans hn) d l b
  obtain ⟨st, hst⟩ := (s.erasePassed d l b).settleSpares_flash s.flash.spares
  have hflash : (s.eraseDone d l true).flash.block b = (((s.eraseNoted b).erased b).opEnd d l).block b := by
    rcases eraseDone_of_passed ho with h | h <;> rw [h]
    · rw [hst]
      rfl
    · rw [flashEvent_flash, hst]
      rfl
  rw [hflash, hstate, hpages, Flash.erased_block_self]
  exact ⟨rfl, rfl⟩

end State

/-- Settles O51: what an erase's start leaves is `Flash.eraseIssue_of_may`; a passed one goes on from its block erased (`State.eraseDone_proceeds`), and a
failed one from its block retired (`State.eraseFailed_leaves`). -/
theorem flashErases : Obligations.FlashErases := by
  refine ⟨fun s b hr hb hm => ?_, fun s b hr hb hm => ?_, fun s d l b n hr hd hl hb ho => ?_, fun s d l b n hr hd hl hb ho => ?_⟩
  · exact ⟨_, (if_neg (Nat.not_le.mpr hb)).trans (if_pos hr), Flash.eraseIssue_of_may hm⟩
  · refine ((if_neg (Nat.not_le.mpr hb)).trans (if_pos hr)).trans ?_
    rw [Flash.eraseIssue, if_neg (by rw [hm]; exact Bool.false_ne_true)]
  · have h := State.eraseDone_proceeds ho
    have hcells : (s.eraseDone d l true).flash.cells = ((s.eraseNoted b).erased b).cells := h.flash.cells
    have hrecords : (s.eraseDone d l true).flash.records = ((s.eraseNoted b).erased b).records := by rw [h.flash.parts]
    have hqueue : (s.eraseDone d l true).flash.eraseQueue = ((s.eraseNoted b).erased b).eraseQueue := by rw [h.flash.parts]
    refine ⟨_, onDie_running hd hl hr _, fun p hp i hi => ?_, fun a ha => ?_, (h.flash.erases b).trans ?_, fun x hx => (h.flash.erases x).trans ?_,
      State.eraseDone_block_of_nil ho, hrecords, ?_, congrArg (Nv.modelsOf s.nv) h.nv⟩
    · rw [State.flashRow_flash, hcells]
      exact Flash.erased_read_of_page hp hi _ b
    · rw [State.flashRow_flash, hcells]
      exact Flash.erased_read_of_other hb ha _
    · exact congrArg FlashBlock.erases (Flash.erased_block_self _ b)
    · exact congrArg FlashBlock.erases (Flash.erased_block_ne hx _)
    · rw [State.flashRow_flash, hqueue]
      exact Flash.not_mem_erased_queue _ b
  · obtain ⟨hstate, hcells, hfail, hqueue⟩ := s.eraseFailed_leaves b
    have h := (State.flashProceeds_setFlash (s := s.eraseFailed b) (Flash.proceeds_opEnd _ d l)).trans
      (State.flashProceeds_settleSpares _ (s.eraseFailed b).flash.spares)
    rw [← State.eraseDone_of_failed ho] at h
    have hcount : (s.eraseDone d l false).flash.eraseFail = (s.eraseFailed b).flash.eraseFail := by rw [h.flash.parts]
    have hlist : (s.eraseDone d l false).flash.eraseQueue = (s.eraseFailed b).flash.eraseQueue := by rw [h.flash.parts]
    exact ⟨_, onDie_running hd hl hr _, hcount.trans hfail, fun hb => hqueue (hlist ▸ hb), h.flash.retired b hstate, h.flash.cells.trans hcells⟩

end Sys2Proof.Machine

namespace Sys2Proof.Machine

/- Suspended pulses, calibration and the tasks of F3 (R307, R315 to R322). -/

namespace Flash

variable {f : Flash} {d l b : Nat} {o : PlaneOp}

/-- A pulse that ends while reads wait is suspended, and they are sensed (R307). -/
theorem pulseEnd_of_reads (ho : f.op d l = some o) (hp : o.pulsing = true) (hw : (f.die d).waiting ≠ []) (hs : o.suspends < 8) :
    f.pulseEnd d l = (f.modDie d (fun x => { x with ops := x.ops.set l { o with pulsing := false, suspends := o.suspends + 1 } })).senseWaiting d := by
  have hreads : (!(f.die d).waiting.isEmpty && decide (o.suspends < 8)) = true := by simp [hw, hs]
  simp only [pulseEnd, ho, hp, hreads, Bool.true_or, Bool.not_true, Bool.false_eq_true, if_true, if_false]
  rfl

/-- One that ends with none to suspend it for goes on. -/
theorem pulseEnd_of_none (ho : f.op d l = some o) (hp : o.pulsing = true) (h : (f.die d).waiting = [] ∨ 8 ≤ o.suspends) (hpulse : f.pulses = true) :
    f.pulseEnd d l = f := by
  have hreads : (!(f.die d).waiting.isEmpty && decide (o.suspends < 8)) = false := by
    rcases h with h | h <;> simp [h]
  simp only [pulseEnd, ho, hp, hreads, hpulse, Bool.not_true, Bool.or_self, Bool.false_eq_true, if_false]

theorem op_modDie_set (f : Flash) (d l : Nat) (x : PlaneOp) : (f.modDie d (fun y => { y with ops := y.ops.set l x })).op d l = some x := by
  rw [op, die_modDie_self]
  exact AList.get?_set_self _ _ _

/-- The offset that full statistics move to: one step towards the side of the more corrections, within ±31 (R315, R316). -/
def nextOffset (x : CalStat) (o : Int) : Int := if x.dn < x.up then min 31 (o + 1) else max (-31) (o - 1)

theorem nextOffset_near (x : CalStat) {o : Int} (ho : o.natAbs ≤ 31) : (nextOffset x o).natAbs ≤ 31 ∧ (nextOffset x o - o).natAbs ≤ 1 := by
  unfold nextOffset
  split <;> omega

/-- Full statistics restart, and their offset stays or moves by its step. -/
theorem calibrate_of_full {k : Nat} {x : CalStat} (hk : k = (d * 8 + b) * 3 + l) (hx : x = f.stats.getD k ⟨0, 0, 0⟩) (hw : 4096 ≤ x.words) :
    (f.calibrate d l b).stats = f.stats.erase k ∧ (f.calibrate d l b).cells = f.cells ∧
      ((f.calibrate d l b).offsets.getD k 0 = f.offsets.getD k 0 ∨ (f.calibrate d l b).offsets.getD k 0 = nextOffset x (f.offsets.getD k 0)) := by
  unfold calibrate
  dsimp only
  rw [← hk, ← hx, ← nextOffset, if_neg (Nat.not_lt.mpr hw)]
  generalize (if x.up < x.dn then x.dn - x.up else x.up - x.dn) = diff
  split
  · exact ⟨rfl, rfl, .inl rfl⟩
  · exact ⟨rfl, rfl, .inr (AList.getD_set_self _ _ _ _)⟩

end Flash

/-- Settles O52: a pulse's end suspends it or not (`Flash.pulseEnd_of_reads`, `Flash.pulseEnd_of_none`), full statistics are `Flash.calibrate_of_full`, and
the tasks of F3 act when their conditions hold. -/
theorem flashUpkeep : Obligations.FlashUpkeep := by
  refine ⟨fun s d l o hr hd hl ho hp => ⟨fun hw hs => ?_, fun h hpulse => ?_⟩, fun s d l b hr hd hl hb hw => ?_, fun s b bad hr hb hm hx => ?_,
    fun s d p b bad hr hd hp hfree he hm => ?_, fun s b n bad hr hl hf hm hw => ?_, fun s hr hpulse hlen => if_pos ⟨hr, hlen, hpulse⟩, fun s h => ?_⟩
  · have hsense := (s.flash.modDie d (fun x => { x with ops := x.ops.set l { o with pulsing := false, suspends := o.suspends + 1 } })).senses_senseWaiting d
    refine ⟨_, onDie_running hd hl hr _, ?_⟩
    rw [Flash.pulseEnd_of_reads ho hp hw hs]
    exact ⟨(hsense.ops d l).trans (Flash.op_modDie_set _ _ _ _), hsense.cells⟩
  · refine (onDie_running hd hl hr _).trans ?_
    rw [Flash.pulseEnd_of_none ho hp h hpulse]
  · obtain ⟨hstats, hcells, hoffset⟩ := Flash.calibrate_of_full rfl rfl hw
    refine ⟨_, (if_neg (Nat.not_le.mpr hd)).trans (if_pos ⟨hr, hl, hb⟩), hstats, fun ho => ?_, hcells⟩
    rcases hoffset with h | h <;> rw [h]
    · exact ⟨ho, by rw [Int.sub_self]; decide⟩
    · exact Flash.nextOffset_near _ ho
  · exact (if_neg (Nat.not_le.mpr hb)).trans (if_pos ⟨hr, hm, hx⟩)
  · refine ((onDie hd hp _).trans (if_pos ⟨hr, hfree⟩)).trans ?_
    simp only [he, hm, if_true]
  · show execStaticWearLevelling bad s = _
    simp only [execStaticWearLevelling, hl, hf]
    exact if_pos ⟨hr, hm, hw⟩
  · refine if_neg (fun hc => ?_)
    obtain ⟨-, hlen, hpulse⟩ := hc
    rcases h with h | h
    · exact absurd hlen (Nat.not_le.mpr h)
    · exact Bool.false_ne_true (h.symm.trans hpulse)

end Sys2Proof.Machine

/- The block as a whole: its front event, its idle tick, its reset state. -/

namespace Sys2Proof.Machine

/-- Settles O1: the queue's front is what a step looks at. -/
theorem stepRunsFront : Obligations.StepRunsFront := fun _ _ _ => rfl

theorem State.idle_of_stopped {s : State} (h : s.boot.life = .off ∨ s.boot.life = .bivouac) : s.idle = s := if_pos h

theorem State.idle_of_running {s : State} (h : ¬(s.boot.life = .off ∨ s.boot.life = .bivouac)) :
    s.idle = { s with
      boot := { s.boot with timer := s.boot.timer + 1 }, steps := { s.steps with buckets := s.fillBuckets, bucketSince := s.bucketMoments },
      flash := if (s.boot.timer + 1) % 60000000 = 0 then { s.flash with clock := s.flash.clock + 1 } else s.flash } := if_neg h

/-- Settles O2: in OFF and in Bivouac the idle tick leaves the state (`State.idle_of_stopped`), and else it counts (`State.idle_of_running`). -/
theorem emptyQueueTicks : Obligations.EmptyQueueTicks := by
  intro s h
  have hstep : step s = .next s.idle := by rw [step, h]
  refine ⟨s.idle, hstep, ?_⟩
  by_cases hl : s.boot.life = .off ∨ s.boot.life = .bivouac
  · rw [State.idle_of_stopped hl, if_pos hl]
    exact ⟨h, rfl, rfl, rfl, rfl, rfl, rfl⟩
  · rw [State.idle_of_running hl, if_neg hl]
    exact ⟨h, rfl, rfl, rfl, rfl, rfl, rfl⟩

/-- An empty memory reads zero bytes. -/
theorem Mem.readN_nil (a n : Nat) : Mem.readN [] a n = List.replicate n 0#8 := by
  rw [Mem.readN_eq]
  exact List.map_const'.trans (congrArg (List.replicate · 0#8) List.length_range)

/-- A fresh scratchpad reads zero in every row (notes/assumptions/2.md). -/
theorem PCore.row_fresh (spare : Bool) (r : Nat) : (PCore.fresh spare).row r = 0 := by
  rw [PCore.row_of_not_scrub rfl]
  show leAt (Mem.readN [] (r * 512) 512) 0 512 = 0
  rw [Mem.readN_nil]
  refine leAt_of_zeros (fun i => ?_) 0 512
  simp only [List.getD_eq_getElem?_getD, List.getElem?_replicate]
  split <;> rfl

theorem State.reset_lc {n : Nat} (h : n < 8) : State.reset.lc n = LCore.fresh n := by
  show ((List.range 8).map LCore.fresh).getD n _ = _
  simp [List.getD_eq_getElem?_getD, h]

theorem State.reset_pcr {n : Nat} (h : n < 9) : State.reset.pcr n = PCore.fresh (n == 8) := by
  show ((List.range 9).map (fun i => PCore.fresh (i == 8))).getD n _ = _
  simp [List.getD_eq_getElem?_getD, h]

theorem State.reset_carrier : ∀ n < 8, State.reset.carrier n = some n := by decide

/-- Settles O4: the cores are fresh ones (`State.reset_lc`, `State.reset_pcr`), and everything else stands in `State.reset` as stated. -/
theorem resetState : Obligations.ResetState := by
  refine ⟨rfl, rfl, rfl, State.reset_carrier, rfl, fun n hn => ?_, fun n hn r => ?_, fun n => rfl, rfl, rfl, rfl, rfl, rfl, rfl⟩
  · rw [State.reset_lc hn]
    exact ⟨rfl, rfl⟩
  · rw [State.reset_pcr hn]
    exact PCore.row_fresh _ r

end Sys2Proof.Machine

/- The invariant of every step: a coherent life, and parameters in their ranges. -/

namespace Sys2Proof.AList

theorem mem_set {α : Type} {l : AList α} {n : Nat} {v : α} {p : Nat × α} (h : p ∈ l.set n v) : p = (n, v) ∨ p ∈ l := by
  induction l with
  | nil => exact .inl (List.mem_singleton.mp h)
  | cons q l ih =>
    obtain ⟨k, w⟩ := q
    rw [set] at h
    split at h
    · exact List.mem_cons.mp h
    · split at h
      · exact (List.mem_cons.mp h).imp_right (List.mem_cons_of_mem _)
      · rcases List.mem_cons.mp h with h | h
        · exact .inr (h ▸ List.mem_cons_self)
        · exact (ih h).imp_right (List.mem_cons_of_mem _)

end Sys2Proof.AList

namespace Sys2Proof.Machine

/- Parameters in their ranges (R408). -/

/-- Every parameter that is set lies in its range. -/
def Params.InRange (ps : Params) : Prop :=
  ∀ p ∈ ps, (paramRow (p.1 / 65536)).any (fun r => decide (p.1 % 65536 ≤ r.idx) && decide (r.lo ≤ p.2) && decide (p.2 ≤ r.hi)) = true

/-- An INDEX takes less than the 16 bits that a key keeps for it. -/
theorem paramRow_idx_lt {p : Nat} {r : ParamRow} (h : paramRow p = some r) : r.idx < 65536 := by
  unfold paramRow at h
  split at h <;> cases h <;> decide

theorem CfgEntry.inRange_iff {e : CfgEntry} :
    e.inRange = true ↔ ∃ r, paramRow e.param = some r ∧ e.index ≤ r.idx ∧ r.lo ≤ e.value ∧ e.value ≤ r.hi := by
  simp [inRange, Option.any_eq_true, and_assoc]

/-- A key gives back the PARAM and the INDEX of an entry in range. -/
theorem CfgEntry.key_of_inRange {e : CfgEntry} (h : e.inRange = true) : e.key / 65536 = e.param ∧ e.key % 65536 = e.index := by
  obtain ⟨r, hr, hi, -, -⟩ := inRange_iff.mp h
  have hlt := paramRow_idx_lt hr
  unfold key
  omega

theorem Params.InRange.set {ps : Params} (h : ps.InRange) {e : CfgEntry} (he : e.inRange = true) : Params.InRange (AList.set ps e.key e.value) := by
  intro p hp
  rcases AList.mem_set hp with rfl | hp
  · obtain ⟨hparam, hindex⟩ := CfgEntry.key_of_inRange he
    rw [hparam, hindex]
    exact he
  · exact h p hp

theorem Params.InRange.apply {ps : Params} (h : ps.InRange) {es : List CfgEntry} (he : es.all CfgEntry.inRange = true) : (ps.apply es).InRange :=
  List.foldlRecOn es _ (motive := Params.InRange) h (fun _ hps e hm => hps.set (List.all_eq_true.mp he e hm))

theorem Nv.recordSet_inRange {nv : Nv} {b : Bytes} {r : Nat × List CfgEntry} (h : nv.recordSet b = some r) : r.2.all CfgEntry.inRange = true := by
  unfold recordSet at h
  dsimp only at h
  split at h
  · cases h
  · split at h
    · cases h
    · split at h
      · next hc => cases h; exact hc.2.1
      · cases h

theorem Nv.bootConfig_inRange (nv : Nv) : nv.bootConfig.2.2.1.all CfgEntry.inRange = true := by
  unfold bootConfig
  split
  · next h0 h1 =>
    split
    · exact recordSet_inRange h1
    · exact recordSet_inRange h0
  · next h0 _ => exact recordSet_inRange h0
  · next h1 => exact recordSet_inRange h1
  · rfl

namespace State

variable {s t : State}

theorem paramsOk_fresh (hp : t.params = []) (hc : t.cfgm = CfgM.fresh) : t.ParamsOk := by
  refine ⟨fun p h => ?_, fun q h => ?_⟩
  · rw [hp] at h
    cases h
  · rw [hc] at h
    cases h

theorem ParamsOk.congr (h : s.ParamsOk) (hp : t.params = s.params) (hc : t.cfgm = s.cfgm) : t.ParamsOk := by
  obtain ⟨hparams, hpending⟩ := h
  exact ⟨hp ▸ hparams, hc ▸ hpending⟩

theorem Spared.paramsOk (h : s.Spared t) (hs : s.ParamsOk) : t.ParamsOk := hs.congr h.params h.cfgm

/-- A record that takes effect sets parameters of its entries and leaves the others waiting (R410). -/
theorem ParamsOk.applyRecord (h : s.ParamsOk) {p : CfgPending} (hp : p.entries.all CfgEntry.inRange = true) : (s.applyRecord p).ParamsOk := by
  obtain ⟨hparams, hpending⟩ := h
  refine (spared_complete _ _ _ _).paramsOk ((posts_logTo _ _ _).spared.paramsOk ?_)
  exact ⟨Params.InRange.apply hparams hp, fun q hq => hpending q (List.mem_filter.mp hq).1⟩

theorem ParamsOk.startImage (s : State) (i : FwImage) : (s.startImage i).ParamsOk :=
  ⟨Params.InRange.apply (ps := []) (fun _ h => absurd h List.not_mem_nil) s.nv.bootConfig_inRange, fun _ h => absurd h List.not_mem_nil⟩

/- CFG_UPDATE (R409). -/

/-- What the host brings for an admin command is read, or the read fails and the command completes. -/
theorem onBytes_paramsOk (h : s.ParamsOk) (c : Cmd) (r : HostRead) {k : Bytes → State} (hk : ∀ b, (k b).ParamsOk) : (s.onBytes c r k).ParamsOk := by
  unfold onBytes
  split
  · exact hk _
  · exact (spared_complete _ _ _ _).paramsOk (h.congr rfl rfl)
  · exact (spared_complete _ _ _ _).paramsOk (h.congr rfl rfl)

theorem ParamsOk.cfgRefuse (h : s.ParamsOk) (c : Cmd) (st : Nat) : (s.cfgRefuse c st).ParamsOk :=
  (spared_complete _ _ _ _).paramsOk ((posts_logTo _ _ _).spared.paramsOk (h.congr rfl rfl))

/-- An update record that is accepted: its digest is chained, its entries wait, and its command runs (R409, R410). -/
def cfgAccept (s : State) (c : Cmd) (sub : Nat) (es : List CfgEntry) (b : Bytes) : State :=
  let m : CfgM := { s.cfgm with
    k := s.cfgm.k + 1, digest := Config.sha384 (fixLen 48 s.cfgm.digest ++ b), pending := s.cfgm.pending ++ [⟨s.cfgm.k + 1, sub, c.fid, es⟩] }
  ({ s with cfgm := m } : State).modCmd c.fid (fun y => { y with stage := .running })

theorem ParamsOk.cfgAccept (h : s.ParamsOk) (c : Cmd) (sub : Nat) {es : List CfgEntry} (hes : es.all CfgEntry.inRange = true) (b : Bytes) :
    (s.cfgAccept c sub es b).ParamsOk := by
  obtain ⟨hparams, hpending⟩ := h
  refine ⟨hparams, fun q hm => ?_⟩
  rcases List.mem_append.mp hm with hm | hm
  · exact hpending q hm
  · rw [List.mem_singleton.mp hm]
    exact hes

theorem ParamsOk.cfgUpdate (h : s.ParamsOk) (c : Cmd) (r : HostRead) : (s.cfgUpdate c r).ParamsOk := by
  refine onBytes_paramsOk h c r (fun b => ?_)
  split
  · exact h.cfgRefuse c _
  · next sub es _ =>
    -- the checks of R409 in order
    split
    · exact h.cfgRefuse c _
    split
    · exact h.cfgRefuse c _
    split
    · exact h.cfgRefuse c _
    split
    · exact h.cfgRefuse c _
    · next hin =>
      have hes : es.all CfgEntry.inRange = true := by simpa using hin
      have hacc := h.cfgAccept c sub hes b
      show (if sub = 5 ∨ sub = 8 then (s.cfgAccept c sub es b).applyRecord ⟨s.cfgm.k + 1, sub, c.fid, es⟩ else s.cfgAccept c sub es b).ParamsOk
      split
      · exact hacc.applyRecord hes
      · exact hacc

/-- A row that brings host bytes leaves the state, completes its command, or has its effect. -/
theorem runRead_cases (s : State) (fid op own : Nat) (e : State → Cmd → State) :
    s.runRead fid op own e = s ∨ (∃ st r, s.runRead fid op own e = s.complete fid st r) ∨ ∃ c, s.runRead fid op own e = e s c := by
  unfold runRead runCmd
  split
  · exact .inl rfl
  · next c hc =>
    split
    · split
      · exact .inr (.inl ⟨_, _, rfl⟩)
      · split
        · exact .inr (.inl ⟨_, _, rfl⟩)
        · dsimp only
          split
          · exact .inl rfl
          · exact .inr (.inr ⟨c, rfl⟩)
    · exact .inl rfl

theorem execCfgUpdate_paramsOk (h : s.ParamsOk) {fid : Nat} {r : HostRead} (he : execCfgUpdate fid r s = .next t) : t.ParamsOk := by
  cases he
  rcases s.runRead_cases fid 0x93 stBadField (fun u c => u.cfgUpdate c r) with hr | ⟨st, x, hr⟩ | ⟨c, hr⟩ <;> rw [hr]
  · exact h
  · exact (spared_complete s fid st x).paramsOk h
  · exact h.cfgUpdate c r

theorem execCfgRecordApply_paramsOk (h : s.ParamsOk) {n : Nat} (he : execCfgRecordApply n s = .next t) : t.ParamsOk := by
  unfold execCfgRecordApply at he
  split at he
  · next p hp =>
    obtain rfl | rfl := eq_or_eq_of_ite he
    · exact h.applyRecord (h.2 p (List.mem_of_find?_eq_some hp))
    · exact h
  · cases he
    exact h

end State

end Sys2Proof.Machine

namespace Sys2Proof.Machine

/- A coherent life (R404, R405, R427, R460, R466). -/

namespace Boot.Coherent

variable {b : Boot}

/-- What shows of the life of a tile with THERMTRIP_N low that neither serves nor has halted. -/
theorem of_idle (hr : b.ready = false) (hh : b.haltCode = 0) (ht : b.thermtrip = false) (hl : b.life = .off ∨ b.life = .rom) : b.Coherent := by
  rcases hl with hl | hl <;> constructor <;> simp [hr, hh, ht, hl]

theorem ready_eq_false (h : b.Coherent) (hs : b.life ≠ .serving) (he : b.life ≠ .entering) : b.ready = false :=
  Bool.eq_false_iff.mpr (fun hr => (h.ready.mp hr).elim hs he)

theorem thermtrip_eq_false (h : b.Coherent) (ht : b.life ≠ .tripped) : b.thermtrip = false :=
  Bool.eq_false_iff.mpr (fun hr => ht (h.trip.mp hr))

theorem haltCode_eq_zero (h : b.Coherent) (hh : b.life ≠ .halted) (ht : b.life ≠ .tripped) : b.haltCode = 0 :=
  Decidable.byContradiction (fun hc => (h.code hc).elim hh ht)

/-- The boot ROM halts with a code (R405). -/
theorem halt (h : b.Coherent) (hl : b.life = .rom) {code : BitVec 3} (hc : code ≠ 0) :
    Boot.Coherent { b with life := .halted, phase := 7, haltCode := code } := by
  have hr := h.ready_eq_false (by simp [hl]) (by simp [hl])
  have ht := h.thermtrip_eq_false (by simp [hl])
  constructor <;> simp [hr, ht]
  exact hc

/-- The cores start an image, from the boot ROM or from a halt (R402, R405). -/
theorem start (h : b.Coherent) (hl : b.life = .rom ∨ b.life = .halted) (slot : BitVec 2) :
    Boot.Coherent { b with life := .booting, phase := 5, slot := slot, haltCode := 0 } := by
  have hr := h.ready_eq_false (by rcases hl with hl | hl <;> simp [hl]) (by rcases hl with hl | hl <;> simp [hl])
  have ht := h.thermtrip_eq_false (by rcases hl with hl | hl <;> simp [hl])
  constructor <;> simp [hr, ht]

/-- Boot ends (R404). -/
theorem finish (h : b.Coherent) (hl : b.life = .booting) : Boot.Coherent { b with life := .serving, ready := true, phase := 6 } := by
  have ht := h.thermtrip_eq_false (by simp [hl])
  have hh := h.haltCode_eq_zero (by simp [hl]) (by simp [hl])
  constructor <;> simp [ht, hh]

/-- A trip leaves the code of a halt that it ends (R466). -/
theorem tripped (b : Boot) : Boot.Coherent { b with life := .tripped, ready := false, thermtrip := true } := by
  constructor <;> simp

/-- A tile that has booted moves between serving and Bivouac: READY goes with its new life (R460, R461). -/
theorem move (h : b.Coherent) {l l' : Life} (hl : b.life = l) (hs : l ∈ [Life.serving, .entering, .bivouac, .waking])
    (hs' : l' ∈ [Life.serving, .entering, .bivouac, .waking]) {r : Bool} (hr : r = true ↔ l' = .serving ∨ l' = .entering) :
    Boot.Coherent { b with life := l', ready := r } := by
  simp only [List.mem_cons, List.not_mem_nil, or_false] at hs hs'
  have hp := h.served (hl ▸ hs)
  have ht : b.thermtrip = false := h.thermtrip_eq_false (by rcases hs with rfl | rfl | rfl | rfl <;> simp [hl])
  have hh : b.haltCode = 0 :=
    h.haltCode_eq_zero (by rcases hs with rfl | rfl | rfl | rfl <;> simp [hl]) (by rcases hs with rfl | rfl | rfl | rfl <;> simp [hl])
  rcases hs' with rfl | rfl | rfl | rfl <;> constructor <;> simp [hp, ht, hh] <;> simpa using hr

end Boot.Coherent

namespace State

variable {s t : State}

theorem Inv.congr (h : s.Inv) (hb : t.boot = s.boot) (hp : t.params = s.params) (hc : t.cfgm = s.cfgm) : t.Inv :=
  ⟨hb ▸ h.boot, h.params.congr hp hc⟩

theorem Spared.inv (h : s.Spared t) (hs : s.Inv) : t.Inv := hs.congr h.boot h.params h.cfgm

/-- The registers that name a recovery image do not show in the life of the tile. -/
theorem Inv.recovery (h : s.Inv) {a : BitVec 64} {n : BitVec 24} (hb : t.boot = { s.boot with recoveryAddr := a, recoveryLen := n })
    (hp : t.params = s.params) (hc : t.cfgm = s.cfgm) : t.Inv := by
  obtain ⟨hready, hserved, hbooting, hhalted, hcode, htrip⟩ := h.boot
  exact ⟨hb ▸ ⟨hready, hserved, hbooting, hhalted, hcode, htrip⟩, h.params.congr hp hc⟩

/- A tile reset, and the boot ROM. -/

theorem inv_tileReset (s : State) (cause : BitVec 3) (w : BitVec 2) (skip : Option Nat) : (s.tileReset cause w skip).Inv :=
  ⟨.of_idle rfl rfl rfl (.inr rfl), paramsOk_fresh rfl rfl⟩

theorem Inv.dueReset (h : s.Inv) : s.dueReset.Inv := by
  unfold State.dueReset
  split
  · exact inv_tileReset s _ _ _
  · exact h

theorem Inv.haltBoot (h : s.Inv) (hl : s.boot.life = .rom) {code : BitVec 3} (hc : code ≠ 0) : (s.haltBoot code).Inv :=
  ⟨h.boot.halt hl hc, h.params.congr rfl rfl⟩

theorem Inv.bootRom (h : s.Inv) (hl : s.boot.life = .rom) : s.bootRom.Inv := by
  unfold State.bootRom
  split
  · exact h.haltBoot hl (by decide)
  · split
    · exact h.haltBoot hl (by decide)
    · dsimp only
      split
      · exact h.haltBoot hl (by decide)
      · next i _ =>
        obtain ⟨hready, hserved, hbooting, hhalted, hcode, htrip⟩ := h.boot.start (.inl hl) i.slot
        exact ⟨⟨hready, hserved, hbooting, hhalted, hcode, htrip⟩, (ParamsOk.startImage s i).congr rfl rfl⟩

theorem execBootRomStart_inv (h : s.Inv) (he : execBootRomStart s = .next t) : t.Inv := by
  unfold execBootRomStart at he
  split at he
  · next hl =>
    cases he
    exact h.dueReset.bootRom hl
  · cases he
    exact h

theorem finishBoot_boot (s : State) (fsp rate : BitVec 3) (cs : Bool) :
    (s.finishBoot fsp rate cs).boot = { s.boot with life := .serving, ready := true, phase := 6 } := by
  refine (posts_logTo _ _ _).spared.boot.trans ?_
  split <;> split <;> rfl

theorem Inv.finishBoot (h : s.Inv) (hl : s.boot.life = .booting) (fsp rate : BitVec 3) (cs : Bool) : (s.finishBoot fsp rate cs).Inv := by
  refine ⟨?_, (posts_logTo _ _ _).spared.paramsOk (h.params.congr ?_ ?_)⟩
  · rw [finishBoot_boot]
    exact h.boot.finish hl
  · split <;> split <;> rfl
  · split <;> split <;> rfl

theorem execBootComplete_inv (h : s.Inv) {fsp rate : BitVec 3} {cs : Bool} (he : execBootComplete fsp rate cs s = .next t) : t.Inv := by
  unfold execBootComplete at he
  split at he
  · next hc =>
    cases he
    exact h.finishBoot hc.1 _ _ _
  · cases he
    exact h

theorem execWatchdogExpiry_inv (h : s.Inv) {core : Nat} (he : execWatchdogExpiry core s = .next t) : t.Inv := by
  unfold execWatchdogExpiry at he
  split at he
  · obtain rfl | rfl := eq_or_eq_of_ite he
    · exact inv_tileReset s _ _ _
    · exact h.congr rfl rfl rfl
  · cases he
    exact h

/- Drained requests. -/

/-- Draining leaves the state, or has the effect of the next entry and answers reads. -/
theorem drain_cases (s : State) (row : DrainRow) (k : State → Nat → MboxEntry → State) :
    s.drain row k = s ∨ ∃ f e, s.nextEntry = some (f, e) ∧ s.drainRow f e = row ∧ s.drain row k = (k (s.drainStart f) f e).answerReads f := by
  cases he : s.nextEntry with
  | none => exact .inl (by rw [drain, he])
  | some p =>
    obtain ⟨f, e⟩ := p
    by_cases hr : s.drainRow f e = row
    · exact .inr ⟨f, e, rfl, hr, drain_eq he hr k⟩
    · exact .inl (by rw [drain, he]; exact if_neg hr)

theorem spared_answerReads (s : State) (f : Nat) : s.Spared (s.answerReads f) := by
  obtain ⟨rs, o, h⟩ := s.answerReads_eq f
  rw [h]
  exact ⟨rfl, rfl, rfl, rfl, rfl, rfl, rfl, rfl⟩

theorem Inv.drainStart (h : s.Inv) (f : Nat) : (s.drainStart f).Inv := h.congr rfl rfl rfl

/-- GO is drained in the halt of R405 alone. -/
theorem halted_of_drainRow_recovery {f : Nat} {e : MboxEntry} (h : s.drainRow f e = .recovery) : s.boot.life = .halted := by
  have hn : s.noImage = true := by
    by_contra hn
    have hgo : ¬(e.off = 0x808C ∧ e.val.toNat.testBit 0 ∧ s.noImage) := fun hc => hn hc.2.2
    rw [drainRow, if_neg hgo] at h
    split_ifs at h
  simpa using (Bool.and_eq_true_iff.mp hn).1

theorem Inv.recoveryFailed (h : s.Inv) : s.recoveryFailed.Inv := by
  obtain ⟨hready, hserved, hbooting, hhalted, hcode, htrip⟩ := h.boot
  exact ⟨⟨hready, hserved, hbooting, hhalted, hcode, htrip⟩, h.params⟩

theorem Inv.recoveryGo (h : s.Inv) (hl : s.boot.life = .halted) (r : HostRead) (f : Nat) (e : MboxEntry) : (s.recoveryGo r f e).Inv := by
  have hread (p : Bool) : (s.readFailed p).Inv := by
    rw [readFailed_eq]
    exact h.congr rfl rfl rfl
  unfold State.recoveryGo
  dsimp only
  split
  · exact h.recoveryFailed
  · split
    · exact (hread false).recoveryFailed
    · exact (hread true).recoveryFailed
    · split
      · exact ⟨h.boot.start (.inr hl) _, ParamsOk.startImage s _⟩
      · exact h.recoveryFailed

theorem execFwRecoveryGo_inv (h : s.Inv) {r : HostRead} (he : execFwRecoveryGo r s = .next t) : t.Inv := by
  cases he
  suffices hd : (s.drain .recovery (State.recoveryGo r)).Inv from hd.congr rfl rfl rfl
  rcases s.drain_cases .recovery (State.recoveryGo r) with hd | ⟨f, e, -, hrow, hd⟩ <;> rw [hd]
  · exact h
  · exact (spared_answerReads _ f).inv ((h.drainStart f).recoveryGo (halted_of_drainRow_recovery hrow) r f e)

/-- A request for Bivouac leaves the life, or a tile that serves enters it (R460). -/
theorem bivouacAsk_life (s : State) (f : Nat) (e : MboxEntry) :
    (s.bivouacAsk f e).boot.life = s.boot.life ∨ s.boot.life = .serving ∧ (s.bivouacAsk f e).boot.life = .entering := by
  unfold bivouacAsk
  split
  · exact .inl rfl
  · next hl =>
    split
    · exact .inl rfl
    · exact .inr ⟨not_not.mp hl, rfl⟩

theorem execBivouacRequest_inv (h : s.Inv) (he : execBivouacRequest s = .next t) : t.Inv := by
  cases he
  refine ⟨?_, h.params.congr rfl rfl⟩
  have hlife : (s.drain .bivouac State.bivouacAsk).boot.life = s.boot.life ∨
      s.boot.life = .serving ∧ (s.drain .bivouac State.bivouacAsk).boot.life = .entering := by
    rcases s.drain_cases .bivouac State.bivouacAsk with hd | ⟨f, e, -, -, hd⟩ <;> rw [hd]
    · exact .inl rfl
    · rw [(spared_answerReads _ f).boot]
      exact (s.drainStart f).bivouacAsk_life f e
  show Boot.Coherent { s.boot with life := (s.drain .bivouac State.bivouacAsk).boot.life }
  rcases hlife with hl | ⟨hs, hl⟩ <;> rw [hl]
  · exact h.boot
  · have hready : s.boot.ready = true := h.boot.ready.mpr (.inl hs)
    exact h.boot.move hs (by decide) (l' := .entering) (by decide) (r := s.boot.ready) (by simp [hready])

/- Bivouac, and a thermal trip. -/

theorem execBivouacEntryComplete_inv (h : s.Inv) (he : execBivouacEntryComplete s = .next t) : t.Inv := by
  unfold execBivouacEntryComplete at he
  split at he
  · next hc =>
    cases he
    obtain ⟨hready, hserved, hbooting, hhalted, hcode, htrip⟩ := h.boot.move hc.1 (by decide)
      (l' := if s.boot.wakeQueued then .waking else .bivouac) (by split <;> decide) (r := false) (by split <;> decide)
    exact ⟨⟨hready, hserved, hbooting, hhalted, hcode, htrip⟩, h.params.congr rfl rfl⟩
  · cases he
    exact h

theorem execWake_inv (h : s.Inv) (he : execWake s = .next t) : t.Inv := by
  unfold execWake at he
  split at he
  · next hl =>
    cases he
    have hready : s.boot.ready = false := h.boot.ready_eq_false (by simp [hl]) (by simp [hl])
    exact ⟨h.boot.move hl (by decide) (l' := .waking) (by decide) (r := s.boot.ready) (by simp [hready]), h.params.congr rfl rfl⟩
  · obtain rfl | rfl := eq_or_eq_of_ite he
    · exact h
    · obtain ⟨hready, hserved, hbooting, hhalted, hcode, htrip⟩ := h.boot
      exact ⟨⟨hready, hserved, hbooting, hhalted, hcode, htrip⟩, h.params.congr rfl rfl⟩
  · cases he
    exact h

theorem execWakeComplete_inv (h : s.Inv) (he : execWakeComplete s = .next t) : t.Inv := by
  unfold execWakeComplete at he
  split at he
  · next hl =>
    cases he
    exact ⟨h.boot.move hl (by decide) (l' := .serving) (by decide) (r := true) (by decide), h.params.congr rfl rfl⟩
  · cases he
    exact h

theorem execThermalTrip_inv (h : s.Inv) (he : execThermalTrip s = .next t) : t.Inv := by
  obtain rfl | rfl := eq_or_eq_of_ite he
  · exact h
  · exact ⟨.tripped s.boot, h.params.congr rfl rfl⟩

theorem execBrownoutWarning_inv (h : s.Inv) (he : execBrownoutWarning s = .next t) : t.Inv := by
  obtain rfl | rfl := eq_or_eq_of_ite he
  · exact h
  · obtain ⟨hready, hserved, hbooting, hhalted, hcode, htrip⟩ := h.boot
    exact ⟨⟨hready, hserved, hbooting, hhalted, hcode, htrip⟩, h.params.congr rfl rfl⟩

theorem execPowerOff_inv (h : s.Inv) (he : execPowerOff s = .next t) : t.Inv := by
  obtain rfl | rfl := eq_or_eq_of_ite he
  · exact ⟨.of_idle rfl rfl rfl (.inl rfl), paramsOk_fresh rfl rfl⟩
  · exact h

theorem Inv.idle (h : s.Inv) : s.idle.Inv := by
  by_cases hl : s.boot.life = .off ∨ s.boot.life = .bivouac
  · rw [idle_of_stopped hl]
    exact h
  · rw [idle_of_running hl]
    obtain ⟨hready, hserved, hbooting, hhalted, hcode, htrip⟩ := h.boot
    exact ⟨⟨hready, hserved, hbooting, hhalted, hcode, htrip⟩, h.params⟩

end State

/-- Every event keeps the invariant: by its frame, or by what its row does to the life and to the parameters. -/
theorem exec_inv {c : Instr} {s t : State} (h : s.Inv) (he : exec c s = .next t) : t.Inv := by
  have hw := exec_eq_within he
  cases c with
  | powerOn => obtain rfl | rfl := eq_or_eq_of_ite he; exacts [s.inv_tileReset _ _ _, h]
  | sidebandReset => obtain rfl | rfl := eq_or_eq_of_ite he; exacts [h, s.inv_tileReset _ _ _]
  | powerOff => exact State.execPowerOff_inv h he
  | bootRomStart => exact State.execBootRomStart_inv h he
  | bootComplete => exact State.execBootComplete_inv h he
  | watchdogExpiry => exact State.execWatchdogExpiry_inv h he
  | fwRecoveryGo => exact State.execFwRecoveryGo_inv h he
  | brownoutWarning => exact State.execBrownoutWarning_inv h he
  | thermalTrip => exact State.execThermalTrip_inv h he
  | bivouacRequest => exact State.execBivouacRequest_inv h he
  | bivouacEntryComplete => exact State.execBivouacEntryComplete_inv h he
  | wake => exact State.execWake_inv h he
  | wakeComplete => exact State.execWakeComplete_inv h he
  | cfgUpdate => exact ⟨((congrArg State.boot hw).trans rfl : t.boot = s.boot) ▸ h.boot, State.execCfgUpdate_paramsOk h.params he⟩
  | cfgRecordApply => exact ⟨((congrArg State.boot hw).trans rfl : t.boot = s.boot) ▸ h.boot, State.execCfgRecordApply_paramsOk h.params he⟩
  | registerWrite | functionLevelReset => exact h.recovery ((congrArg State.boot hw).trans rfl) ((congrArg State.params hw).trans rfl) ((congrArg State.cfgm hw).trans rfl)
  | _ => exact h.congr ((congrArg State.boot hw).trans rfl) ((congrArg State.params hw).trans rfl) ((congrArg State.cfgm hw).trans rfl)

/-- Settles O5: a tile just after its reset is idle with no parameter set. -/
theorem resetMeetsInv : Obligations.ResetMeetsInv := ⟨.of_idle rfl rfl rfl (.inr rfl), State.paramsOk_fresh rfl rfl⟩

/-- Settles O6: a step is the tick of an idle tile (`State.Inv.idle`) or an event (`exec_inv`). -/
theorem stepKeepsInv : Obligations.StepKeepsInv := by
  intro s t h hs
  unfold step at hs
  split at hs
  · cases hs
    exact h.idle
  · next rest _ => exact exec_inv (s := { s with pending := rest }) (h.congr rfl rfl rfl) hs

end Sys2Proof.Machine

/- The link: repair of its modules, its IDE stream, and SPDM (R332 to R336, R365). -/

namespace Sys2Proof.Machine

namespace Link

variable {l : Link} {m : Bool}

@[simp] theorem module_setModule_self (l : Link) (m : Bool) (x : LinkModule) : (l.setModule m x).module m = x := by
  cases m <;> rfl

@[simp] theorem module_setModule_other (l : Link) (m : Bool) (x : LinkModule) : (l.setModule m x).module (!m) = l.module (!m) := by
  cases m <;> rfl

/-- A link stays up while one of its modules is not DOWN (R333). -/
theorem up_setModule_down {x : LinkModule} (hx : x.state = .down) :
    (l.setModule m x).up = true ↔ l.up = true ∧ (l.module (!m)).state ≠ .down := by
  cases m <;> simp [setModule, module, hx]

end Link

namespace State

variable {s : State} {m : Bool} {lanes : Nat} {rate : BitVec 3}

theorem exec_laneFailure (h : s.mainBand = true) : exec (.laneFailure m) s = .next (s.linkRow (s.laneFailure m)) := if_pos h

theorem laneFailure_of_up (h : (s.link.module m).state = .up) :
    s.laneFailure m = if (s.link.module m).spares = 0 then
        ({ s with link := s.link.setModule m { s.link.module m with state := .degraded, narrow := true } } : State).uciEvent 1
      else { s with link := s.link.setModule m { s.link.module m with state := .repairing } } := by
  unfold laneFailure
  simp only [h]

theorem laneFailure_of_degraded (h : (s.link.module m).state = .degraded) :
    s.laneFailure m = { s with link := s.link.setModule m { s.link.module m with state := .repairing } } := by
  unfold laneFailure
  simp only [h]

theorem exec_moduleRetrainDone (h : s.mainBand = true) : exec (.moduleRetrainDone m lanes rate) s = .next (s.linkRow (s.retrainDone m lanes rate)) :=
  if_pos h

/-- A link that retrains runs at the rate that it reached, and a lower one is reported (R361); what was reported before stays. -/
theorem trained_leaves (s : State) (rate : BitVec 3) :
    (s.trained rate).link = { s.link with rate := rate } ∧ (rate ≠ 5 → (s.trained rate).pf.uciEv.isSet 6 = true) ∧
      ∀ k, s.pf.uciEv.isSet k = true → (s.trained rate).pf.uciEv.isSet k = true := by
  unfold trained
  dsimp only
  split
  · next h => exact ⟨rfl, fun hr => absurd h hr, fun _ hk => hk⟩
  · exact ⟨rfl, fun _ => EvReg.isSet_raise _ _ _, fun _ hk => EvReg.isSet_raise_of_isSet hk _ _⟩

theorem retrainDone_down (h : (s.link.module m).state = .repairing) (hl : lanes < 32) : s.retrainDone m lanes rate = s.moduleDown m (s.link.module m) := by
  simp [retrainDone, h, hl]

theorem retrainDone_narrow (h : (s.link.module m).state = .repairing) (hl : ¬lanes < 32) (hn : (s.link.module m).narrow = true) :
    s.retrainDone m lanes rate = ({ s with link := s.link.setModule m { s.link.module m with state := .degraded } } : State).trained rate := by
  simp [retrainDone, h, hl, hn]

theorem retrainDone_narrowed (h : (s.link.module m).state = .repairing) (hl : ¬lanes < 32) (hn : (s.link.module m).narrow = false) (hw : lanes < 64) :
    s.retrainDone m lanes rate =
      (({ s with link := s.link.setModule m { s.link.module m with state := .degraded, narrow := true } } : State).uciEvent 1).trained rate := by
  simp [retrainDone, h, hl, hn, hw]

theorem retrainDone_up (h : (s.link.module m).state = .repairing) (hl : ¬lanes < 32) (hn : (s.link.module m).narrow = false) (hw : ¬lanes < 64) :
    s.retrainDone m lanes rate = (({ s with
      link := s.link.setModule m { s.link.module m with state := .up, spares := (s.link.module m).spares - 1 } } : State).uciEvent 0).trained rate := by
  simp [retrainDone, h, hl, hn, hw]

end State

/-- Settles O13: a lane failure is `State.laneFailure_of_up` or `State.laneFailure_of_degraded`, and a retraining ends in one of the four cases of
`State.retrainDone`, of which all but the loss of the module go on at a rate (`State.trained_leaves`). -/
theorem linkRepair : Obligations.LinkRepair := by
  refine ⟨fun s m hb hu hs => ?_, fun s m hb hu hs => ?_, fun s m hb hd => ?_, fun s m lanes rate hb hr => ?_, fun s hb he hsec => ?_⟩
  · rw [State.exec_laneFailure hb, State.laneFailure_of_up hu, if_neg hs]
    rfl
  · refine ⟨_, State.exec_laneFailure hb, ?_⟩
    rw [State.laneFailure_of_up hu, if_pos hs]
    exact ⟨rfl, EvReg.isSet_raise _ _ _⟩
  · rw [State.exec_laneFailure hb, State.laneFailure_of_degraded hd]
    rfl
  · refine ⟨_, State.exec_moduleRetrainDone hb, rfl, rfl, ?_⟩
    show (s.retrainDone m lanes rate).link.module (!m) = _ ∧ _
    by_cases hl : lanes < 32
    · rw [if_pos hl, State.linkRow, State.retrainDone_down hr hl]
      exact ⟨Link.module_setModule_other _ _ _, congrArg LinkModule.state (Link.module_setModule_self _ _ _), EvReg.isSet_raise _ _ _,
        Link.up_setModule_down rfl⟩
    · rw [if_neg hl]
      cases hn : (s.link.module m).narrow with
      | true =>
        rw [State.linkRow, State.retrainDone_narrow hr hl hn, if_pos (.inr rfl)]
        obtain ⟨hlink, hrate, -⟩ := State.trained_leaves { s with link := s.link.setModule m { s.link.module m with state := .degraded } } rate
        dsimp only
        rw [hlink]
        exact ⟨Link.module_setModule_other _ _ _, rfl, hrate, congrArg LinkModule.state (Link.module_setModule_self _ _ _),
          (congrArg LinkModule.narrow (Link.module_setModule_self _ _ _)).trans hn, fun h => nomatch h⟩
      | false =>
        by_cases hw : lanes < 64
        · rw [State.linkRow, State.retrainDone_narrowed hr hl hn hw, if_pos (.inl hw)]
          obtain ⟨hlink, hrate, hkept⟩ := State.trained_leaves (({ s with
            link := s.link.setModule m { s.link.module m with state := .degraded, narrow := true } } : State).uciEvent 1) rate
          dsimp only
          rw [hlink]
          exact ⟨Link.module_setModule_other _ _ _, rfl, hrate, congrArg LinkModule.state (Link.module_setModule_self _ _ _),
            congrArg LinkModule.narrow (Link.module_setModule_self _ _ _), fun _ => hkept 1 (EvReg.isSet_raise _ _ _)⟩
        · rw [State.linkRow, State.retrainDone_up hr hl hn hw, if_neg (by simp [hw])]
          obtain ⟨hlink, hrate, hkept⟩ := State.trained_leaves (({ s with
            link := s.link.setModule m { s.link.module m with state := .up, spares := (s.link.module m).spares - 1 } } : State).uciEvent 0) rate
          dsimp only
          rw [hlink]
          exact ⟨Link.module_setModule_other _ _ _, rfl, hrate, Link.module_setModule_self _ _ _, hkept 0 (EvReg.isSet_raise _ _ _)⟩
  · exact ⟨_, if_pos (by simp [hb, he, hsec]), rfl, EvReg.isSet_raise _ _ _, by simp [State.linkOpen, State.linkRow, State.uciEvent, he]⟩

/- SPDM answers, and the chain that no step changes (R365). -/

/-- A copy that takes pulses, or none, keeps its validity and its keys. -/
theorem OtpRow.burnIf_keeps (r : OtpRow) (v : Bool) (bits : BitVec 256) :
    (if v then r.burn bits else r).valid = r.valid ∧ (if v then r.burn bits else r).idkPub = r.idkPub ∧
      (if v then r.burn bits else r).signerHash = r.signerHash := by
  cases v <;> exact ⟨rfl, rfl, rfl⟩

/-- What is certified and what signs stay when ROLLBACK bits are programmed (R326). -/
theorem Otp.Burns.keys {o r : Otp} (h : o.Burns r) : r.row.idkPub = o.row.idkPub ∧ r.row.signerHash = o.row.signerHash := by
  cases h with
  | same => exact ⟨rfl, rfl⟩
  | burn bits =>
    obtain ⟨hvalid, -, -⟩ := o.die0.burnIf_keeps o.die0.valid bits
    obtain ⟨-, hidk, hsigner⟩ := o.die32.burnIf_keeps o.die32.valid bits
    unfold Otp.row Otp.burn
    dsimp only
    rw [hvalid]
    split
    · exact ⟨rfl, rfl⟩
    · exact ⟨hidk, hsigner⟩

/-- The two certificates of the kept state. -/
def Nv.certs (nv : Nv) : Bytes × Bytes := (nv.rootCert, nv.leafCert)

/-- No group of rows that a deferred command runs in writes a certificate. -/
theorem State.certs_effect (s r : State) :
    (s.cplOf r).nv.certs = s.nv.certs ∧ (s.schedCmd r).nv.certs = s.nv.certs ∧ (s.streamCmd r).nv.certs = s.nv.certs ∧
      (s.tierCmd r).nv.certs = s.nv.certs ∧ (s.secCmd r).nv.certs = s.nv.certs ∧ (s.checkCmd r).nv.certs = s.nv.certs ∧
      (s.ctxCmd r).nv.certs = s.nv.certs ∧ (s.fwCmd r).nv.certs = s.nv.certs ∧ (s.svnCmd r).nv.certs = s.nv.certs :=
  ⟨rfl, rfl, rfl, rfl, rfl, rfl, rfl, rfl, rfl⟩

theorem State.effectOf_certs {op : Nat} {f : State → Cmd → State} (h : State.effectOf op = some f) (s : State) (c : Cmd) :
    (f s c).nv.certs = s.nv.certs := by
  unfold State.effectOf at h
  split at h <;> cases h <;> simp only [State.certs_effect]

theorem State.takeEffect_certs (s : State) (fid : Nat) : (s.takeEffect fid).nv.certs = s.nv.certs := by
  unfold State.takeEffect
  split
  · rfl
  · next c _ =>
    split
    · rfl
    · next hf =>
      split
      · exact State.effectOf_certs hf s c
      · rfl

theorem State.bootRom_certs (s : State) : s.bootRom.nv.certs = s.nv.certs := by
  unfold State.bootRom
  split
  · rfl
  · split
    · rfl
    · dsimp only
      split <;> rfl

theorem State.finishBoot_certs (s : State) (fsp rate : BitVec 3) (cs : Bool) : (s.finishBoot fsp rate cs).nv.certs = s.nv.certs := by
  unfold State.finishBoot
  dsimp only
  rw [State.logPf, (State.posts_logTo _ _ _).eq]
  unfold State.postOf
  dsimp only
  split <;> split <;> rfl

/-- No event writes a certificate. -/
theorem exec_certs {c : Instr} {s t : State} (h : exec c s = .next t) : t.nv.certs = s.nv.certs := by
  cases c with
  | powerOn | sidebandReset | powerOff => obtain rfl | rfl := eq_or_eq_of_ite h <;> rfl
  | bootRomStart =>
    obtain rfl | rfl := eq_or_eq_of_ite h
    · rw [State.bootRom_certs, State.dueReset_nv]
    · rfl
  | bootComplete fsp rate cs =>
    obtain rfl | rfl := eq_or_eq_of_ite h
    · exact s.finishBoot_certs fsp rate cs
    · rfl
  | watchdogExpiry => exact congrArg Nv.certs (State.execWatchdogExpiry_nv h)
  | commandTakesEffect fid =>
    cases h
    exact s.takeEffect_certs fid
  | _ => exact (congrArg (fun u : State => u.nv.certs) (exec_eq_within h)).trans rfl

theorem step_certs {s t : State} (h : step s = .next t) : t.nv.certs = s.nv.certs := by
  unfold step at h
  split at h
  · cases h
    exact congrArg Nv.certs s.idle_nv
  · next rest _ => exact exec_certs (s := { s with pending := rest }) h

/-- A step keeps the chain that the tile holds, and its keys in the OTP row. -/
theorem step_chainOk {s t : State} (h : step s = .next t) : t.nv.chainOk = s.nv.chainOk := by
  obtain ⟨hroot, hleaf⟩ := Prod.ext_iff.mp (step_certs h)
  obtain ⟨hidk, hsigner⟩ := (step_burns h).keys
  change t.nv.rootCert = s.nv.rootCert at hroot
  change t.nv.leafCert = s.nv.leafCert at hleaf
  unfold Nv.chainOk Nv.certChain
  rw [hroot, hleaf, hidk, hsigner]

theorem Nv.certChain_le {nv : Nv} (h : nv.chainOk = true) : nv.certChain.length ≤ 8192 := by
  unfold chainOk at h
  simp only [Bool.and_eq_true, decide_eq_true_eq] at h
  exact h.1.1

/-- A request that the DOE mailbox takes is answered in the row's own state. -/
theorem next_of_doeOpen {s t : State} (h : s.doeOpen = true) : (.next (if s.doeOpen then t else s) : Result) = .next t :=
  congrArg Host.Outcome.next (if_pos h)

/-- Settles O14: with the mailbox open each request has its answer, and no step changes the certificates (`step_certs`) or the keys of the OTP row
(`Otp.Burns.keys`). -/
theorem spdmAnswers : Obligations.SpdmAnswers := by
  refine ⟨fun s q h => ⟨next_of_doeOpen h, next_of_doeOpen h, next_of_doeOpen h, next_of_doeOpen h, next_of_doeOpen h⟩, fun s q h hs => ?_, fun s q hs => ?_,
    fun s t hc h => ?_⟩
  · exact congrArg Host.Outcome.next (if_pos (by simp [h, Option.isSome_iff_ne_none, hs]))
  · exact congrArg Host.Outcome.next (if_neg (by simp [hs]))
  · have ht : t.nv.chainOk = true := (step_chainOk h).trans hc
    exact ⟨ht, Nv.certChain_le ht⟩

end Sys2Proof.Machine

/- Programs that a tile reset cuts short (R324): refutations of the statements by which a reset keeps every stored page. -/

namespace Sys2Proof.Machine

/-- The page under way shows its torn bytes after a reset, so the stored pages are not as they were. -/
theorem brownOutInProgram_torn_ne : brownOutInProgram.flash.torn.cells ≠ brownOutInProgram.flash.cells := by
  intro h
  refine untornByte_ne (brownOutInProgram_torn_read.symm.trans ?_)
  rw [h]
  rfl

/-- Refutes O8: a RESET on the sideband that comes while a page is programmed leaves that page torn (R324), and not as it was stored. -/
theorem not_powerAndReset : ¬ Obligations.PowerAndReset := by
  unfold Obligations.PowerAndReset
  rintro ⟨-, h, -⟩
  obtain ⟨t, ht, hreset, -⟩ := h brownOutInProgram (by decide)
  obtain ⟨-, hcells, -⟩ := hreset.kept
  cases ht
  exact brownOutInProgram_torn_ne hcells

theorem State.exec_watchdogExpiry_second {s : State} {n : Nat} (hr : s.running = true) (hn : n < 4) (ho : s.coreOut n = false)
    (h2 : s.secondStage n = true) :
    exec (.watchdogExpiry n) s = .next (s.tileReset 2 (BitVec.ofNat 2 n) (some (s.fwCore n).slot.toNat)) :=
  (if_pos (by simp [hr, hn, ho])).trans (if_pos h2)

/-- The same tile with a firmware core that its watchdog has restarted at time 0. -/
def watchdogInProgram : State :=
  { brownOutInProgram with fw := { Fw.fresh with cores := List.replicate 4 { FwCore.fresh with restartAt := some 0 } } }

theorem watchdogInProgram_secondStage : watchdogInProgram.secondStage 0 = true := rfl

/-- Refutes O53: the tile reset of a second-stage watchdog expiry that comes while a page is programmed leaves that page torn (R324, R416), and not
as it was stored. -/
theorem not_firmwareRows : ¬ Obligations.FirmwareRows := by
  unfold Obligations.FirmwareRows
  rintro ⟨-, h, -⟩
  obtain ⟨t, ht, hreset, -⟩ := h watchdogInProgram 0 rfl (by decide) rfl watchdogInProgram_secondStage
  obtain ⟨-, hcells, -⟩ := hreset.kept
  cases ht.symm.trans (State.exec_watchdogExpiry_second rfl (by decide) rfl watchdogInProgram_secondStage)
  exact brownOutInProgram_torn_ne hcells

end Sys2Proof.Machine

/- Boot and recovery (R402 to R405, R418, R487). -/

namespace Sys2Proof.Machine

/-- A frame that lets ROLLBACK bits through leaves the kept state of a row that programs none. -/
theorem Nv.burnedOf_self (nv : Nv) : nv.burnedOf nv = nv := congrArg (fun o => { nv with otp := o }) (Otp.burnedOf_self nv.otp)

namespace State

variable {s : State} {e : MboxEntry}

/- BOOT_ROM_START. -/

theorem exec_bootRomStart (hl : s.boot.life = .rom) (hr : s.boot.resetReq = none) : exec .bootRomStart s = .next s.bootRom := by
  have hd : s.dueReset = s := by rw [dueReset, hr]
  show execBootRomStart s = _
  rw [execBootRomStart, hd, if_pos hl]

theorem bootRom_of_unusable (h : s.nv.otp.usable = false) : s.bootRom = s.haltBoot 1 := if_pos (by simp [h])

theorem bootRom_of_no_directory (h : s.nv.otp.usable = true) (hd : s.nv.dirOk = (false, false)) : s.bootRom = s.haltBoot 3 :=
  (if_neg (by simp [h])).trans (if_pos (by simp [hd]))

/-- With usable rows and a directory the boot ROM starts the newest image that passes, or halts with none (R402). -/
theorem bootRom_of_directory (h : s.nv.otp.usable = true) (hd : s.nv.dirOk ≠ (false, false)) :
    s.bootRom = match s.bootRecords.1.head?.bind s.nv.committed with
      | none => s.haltBoot 2
      | some i => { s.startImage i with boot := { (s.startImage i).boot with skipped := s.bootRecords.2 } } := by
  have hdir : ¬(!s.nv.dirOk.1 ∧ !s.nv.dirOk.2) := fun hc => hd (Prod.ext (by simpa using hc.1) (by simpa using hc.2))
  exact (if_neg (by simp [h])).trans (if_neg hdir)

/-- Halts of the boot ROM change what is shown of the boot alone. -/
theorem haltBoot_leaves (s : State) (code : BitVec 3) :
    (s.haltBoot code).boot.life = .halted ∧ (s.haltBoot code).boot.phase = 7 ∧ (s.haltBoot code).boot.haltCode = code ∧ (s.haltBoot code).nv = s.nv :=
  ⟨rfl, rfl, rfl, rfl⟩

theorem bootRom_ready (s : State) : s.bootRom.boot.ready = s.boot.ready := by
  unfold bootRom
  split
  · rfl
  · split
    · rfl
    · dsimp only
      split <;> rfl

/- BOOT_COMPLETE. -/

theorem exec_bootComplete {fsp : BitVec 3} (hl : s.boot.life = .booting) (hf : fsp ≠ 0) (rate : BitVec 3) (cs : Bool) :
    exec (.bootComplete fsp rate cs) s = .next (s.finishBoot fsp rate cs) := if_pos ⟨hl, hf⟩

/-- The tile at the end of its boot, before what it reports (R404, R487). -/
def booted (s : State) (fsp rate : BitVec 3) (cs : Bool) : State :=
  { s with
    boot := { s.boot with life := .serving, ready := true, phase := 6 },
    dram := s.nv.bootDram s.params fsp s.boot.timer,
    cmp := { s.cmp with gens := s.nv.bootGens },
    nv := { s.nv with gens := s.nv.bootGens, models := s.nv.models.map (fun m => (m.1, { m.2 with attached := none })) },
    sparing := { s.sparing with usable := cs, wanted := if cs then s.nv.switched.map (·.1) else none },
    lcores := (s.lcores.zipIdx).map (fun p => if s.nv.carrierless.contains p.2 then { p.1 with carrier := 15 } else p.1),
    link := { s.link with rate := rate },
    power := { s.power with capMw := BitVec.ofNat 17 (s.param 0x0701 0) } }

/-- What the end of a boot reports in the PF's registers: a set point that failed, and a lower rate. -/
def bootReports (s : State) (fsp rate : BitVec 3) : State :=
  let t := if fsp = 7 then s else s.dramEvent 2
  if rate = 5 then t else t.uciEvent 6

theorem finishBoot_eq (s : State) (fsp rate : BitVec 3) (cs : Bool) :
    s.finishBoot fsp rate cs = ((s.booted fsp rate cs).bootReports fsp rate).logPf s.bootLog := rfl

theorem bootReports_eq (s : State) (fsp rate : BitVec 3) : s.bootReports fsp rate = { s with pf := (s.bootReports fsp rate).pf } := by
  unfold bootReports
  dsimp only
  split <;> split <;> rfl

theorem bootReports_shows (s : State) (fsp rate : BitVec 3) :
    (fsp ≠ 7 → (s.bootReports fsp rate).pf.dramEv.isSet 2 = true) ∧ (rate ≠ 5 → (s.bootReports fsp rate).pf.uciEv.isSet 6 = true) := by
  unfold bootReports
  dsimp only
  constructor
  · intro h
    rw [if_neg h]
    split <;> exact EvReg.isSet_raise _ _ _
  · intro h
    rw [if_neg h]
    exact EvReg.isSet_raise _ _ _

@[simp] theorem logTo_ctxs (s : State) (f : Nat) (r : LogRec) : (s.logTo f r).ctxs = s.ctxs := by
  unfold logTo
  dsimp only
  split <;> rfl

/- FW_RECOVERY_GO. -/

/-- The state of a recovery's effect, before the reads that waited for it are answered. -/
theorem exec_fwRecoveryGo (h : s.nextEntry = some (0, e)) (hrow : s.drainRow 0 e = .recovery) (r : HostRead) :
    exec (.fwRecoveryGo r) s = .next (s.within (.fwRecoveryGo r) (((s.drainStart 0).recoveryGo r 0 e).answerReads 0)) := by
  show execFwRecoveryGo r s = _
  rw [execFwRecoveryGo, drain_eq h hrow]
  rfl

/-- What FW_RECOVERY_GO lets through of its effect. -/
theorem fwRecoveryGo_leaves (s u : State) (r : HostRead) :
    ((s.within (.fwRecoveryGo r) (u.answerReads 0)).func 0).mbox = (u.func 0).mbox ∧ (s.within (.fwRecoveryGo r) (u.answerReads 0)).boot = u.boot ∧
      (s.within (.fwRecoveryGo r) (u.answerReads 0)).fw = u.fw ∧ (s.within (.fwRecoveryGo r) (u.answerReads 0)).nv = s.nv.burnedOf u.nv := by
  refine ⟨u.answerReads_mbox 0, (u.spared_answerReads 0).boot, ?_, congrArg s.nv.burnedOf (u.answerReads_nv 0)⟩
  obtain ⟨rs, o, h⟩ := u.answerReads_eq 0
  exact (congrArg State.fw h).trans rfl

/-- The bytes of a recovery image are those of its length that the host brings. -/
def recoveryBytes (s : State) (raw : Bytes) : Bytes := fixLen s.boot.recoveryLen.toNat raw

/-- The checks of a recovery image: those of a slot image, and its length (R402, R405). -/
def recoveryOk (s : State) (raw : Bytes) : Prop :=
  s.boot.recoveryLen.toNat ≤ 8388608 ∧ fwImageOk (s.recoveryBytes raw) = true ∧ s.nv.verifies (s.recoveryBytes raw) = true ∧
    s.nv.svn ≤ leAt (s.recoveryBytes raw) 6 2

theorem recoveryGo_of_read (ho : s.linkOpen = true) (raw : Bytes) (f : Nat) :
    (s.recoveryOk raw → s.recoveryGo (.ok raw) f e = s.startImage (fwImage 2 (s.recoveryBytes raw))) ∧
      (¬s.recoveryOk raw → s.recoveryGo (.ok raw) f e = s.recoveryFailed) := by
  have hread : s.onLink (.ok raw) = .ok raw := if_pos ho
  unfold recoveryGo
  dsimp only
  rw [hread]
  constructor
  · rintro ⟨hlen, himage, hsigned, hsvn⟩
    exact (if_neg (Nat.not_lt.mpr hlen)).trans (if_pos (by simpa using ⟨⟨himage, hsigned⟩, hsvn⟩))
  · intro h
    split
    · rfl
    · next hlen =>
      refine if_neg (fun hc => h ?_)
      simp only [Bool.and_eq_true, decide_eq_true_eq] at hc
      exact ⟨Nat.not_lt.mp hlen, hc.1.1, hc.1.2, hc.2⟩

/-- A read that fails, as every read does while the link carries nothing, fails the recovery (R334, R405). -/
theorem recoveryGo_of_failed {r : HostRead} (h : (∀ raw, r ≠ .ok raw) ∨ s.linkOpen = false) (f : Nat) :
    ∃ u : State, s.recoveryGo r f e = u.recoveryFailed ∧ u = { s with link := u.link, pf := u.pf } := by
  have hread : ∀ raw, s.onLink r ≠ .ok raw := by
    intro raw
    unfold onLink
    rcases h with h | h
    · split
      · exact h raw
      · exact HostRead.noConfusion
    · rw [h]
      exact HostRead.noConfusion
  unfold recoveryGo
  dsimp only
  split
  · exact ⟨s, rfl, rfl⟩
  · split
    · exact ⟨_, rfl, readFailed_eq s false⟩
    · exact ⟨_, rfl, readFailed_eq s true⟩
    · next hr => exact absurd hr (hread _)

end State

/-- Settles O9: the boot ROM halts or starts an image (`State.bootRom_of_directory`), the end of a boot is `State.finishBoot_eq`, and GO starts the
image or fails (`State.recoveryGo_of_read`, `State.recoveryGo_of_failed`) on the state in which the entry has left its mailbox. -/
theorem bootStartsAndCompletes : Obligations.BootStartsAndCompletes := by
  refine ⟨fun s hl hr => ?_, fun s fsp rate cs hl hf => ?_, fun s e raw he hrow ho => ?_, fun s e r he hrow hfail => ?_⟩
  · refine ⟨s.bootRom, State.exec_bootRomStart hl hr, s.bootRom_ready, s.bootRom_cells, ?_⟩
    split
    · next hu =>
      rw [State.bootRom_of_unusable hu]
      exact s.haltBoot_leaves 1
    · next hu =>
      rw [Bool.not_eq_false] at hu
      split
      · next hd =>
        rw [State.bootRom_of_no_directory hu hd]
        exact s.haltBoot_leaves 3
      · next hd =>
        rw [State.bootRom_of_directory hu hd]
        cases s.bootRecords.1.head?.bind s.nv.committed with
        | none => exact s.haltBoot_leaves 2
        | some i => exact ⟨rfl, rfl, rfl, rfl, rfl, rfl, rfl, rfl, rfl, rfl⟩
  · refine ⟨_, State.exec_bootComplete hl hf rate cs, ?_⟩
    obtain ⟨hdram, hrate⟩ := (s.booted fsp rate cs).bootReports_shows fsp rate
    rw [State.finishBoot_eq, State.logPf_eq, State.bootReports_eq]
    exact ⟨rfl, rfl, rfl, rfl, rfl, rfl, hdram, hrate, rfl, rfl, rfl, State.logTo_ctxs _ _ _⟩
  · obtain ⟨hpass, hfail⟩ := State.recoveryGo_of_read (s := s.drainStart 0) (e := e) ho raw 0
    obtain ⟨hmbox, hboot, hfw, hnv⟩ := s.fwRecoveryGo_leaves ((s.drainStart 0).recoveryGo (.ok raw) 0 e) (.ok raw)
    refine ⟨_, State.exec_fwRecoveryGo he hrow _, ?_, rfl, ?_⟩
    · rw [hmbox]
      by_cases hc : (s.drainStart 0).recoveryOk raw
      · rw [hpass hc]
        exact congrArg Func.mbox (s.drainStart_func 0)
      · rw [hfail hc]
        exact congrArg Func.mbox (s.drainStart_func 0)
    · rw [hboot, hfw, hnv]
      by_cases hc : (s.drainStart 0).recoveryOk raw
      · rw [hpass hc]
        refine (if_pos hc).mpr ⟨rfl, rfl, rfl, rfl, rfl, ?_⟩
        exact congrArg (fun o => { s.nv with otp := o }) (Otp.burnedOf_burn _ _)
      · rw [hfail hc]
        exact (if_neg hc).mpr ⟨rfl, Nv.burnedOf_self _⟩
  · obtain ⟨u, hu, hparts⟩ := State.recoveryGo_of_failed (s := s.drainStart 0) (e := e) hfail 0
    obtain ⟨hmbox, hboot, -, hnv⟩ := s.fwRecoveryGo_leaves ((s.drainStart 0).recoveryGo r 0 e) r
    refine ⟨_, State.exec_fwRecoveryGo he hrow _, ?_⟩
    rw [hmbox, hboot, hnv, hu, hparts]
    exact ⟨congrArg Func.mbox (s.drainStart_func 0), rfl, Nv.burnedOf_self _⟩

end Sys2Proof.Machine

/- Bivouac (R458 to R462). -/

namespace Sys2Proof.Machine

namespace State

variable {s : State} {e : MboxEntry}

theorem exec_bivouacRequest (h : s.nextEntry = some (0, e)) (hrow : s.drainRow 0 e = .bivouac) :
    exec .bivouacRequest s = .next (s.within .bivouacRequest (((s.drainStart 0).bivouacAsk 0 e).answerReads 0)) := by
  show execBivouacRequest s = _
  rw [execBivouacRequest, drain_eq h hrow]
  rfl

/-- What BIVOUAC_REQUEST lets through of its effect. -/
theorem bivouacRequest_leaves (s u : State) :
    (s.within .bivouacRequest (u.answerReads 0)).boot = { s.boot with life := u.boot.life } ∧
      ((s.within .bivouacRequest (u.answerReads 0)).func 0).mbox = (u.func 0).mbox :=
  ⟨congrArg (fun b : Boot => { s.boot with life := b.life }) (u.spared_answerReads 0).boot, u.answerReads_mbox 0⟩

/-- A tile that serves enters Bivouac on request when the configuration allows it (R460). -/
theorem bivouacAsk_allowed (hl : s.boot.life = .serving) (hp : s.param 0x0705 0 ≠ 0) (f : Nat) :
    s.bivouacAsk f e = { s with boot := { s.boot with life := .entering } } := (if_neg (not_not.mpr hl)).trans (if_neg hp)

theorem exec_wake_bivouac (hl : s.boot.life = .bivouac) :
    exec .wake s = .next { s with boot := { s.boot with life := .waking }, out := s.out ++ [.vid s.power.vcore.toNat] } := by
  show execWake s = _
  unfold execWake
  split
  · rfl
  · next h => cases hl.symm.trans h
  · next h _ => exact absurd hl h

theorem exec_wake_entering (hl : s.boot.life = .entering) (hw : s.boot.wakeQueued = false) :
    exec .wake s = .next { s with boot := { s.boot with wakeQueued := true }, pf := { s.pf with pwrEv := s.pf.pwrEv.raise 4 s.pf.arrivals } } := by
  show execWake s = _
  unfold execWake
  split
  · next h => cases hl.symm.trans h
  · exact if_neg (by simp [hw])
  · next _ h => exact absurd hl h

theorem exec_wakeComplete (hl : s.boot.life = .waking) :
    exec .wakeComplete s = .next { s with
      boot := { s.boot with life := .serving, ready := true },
      pcores := ((List.range s.pcores.length).foldl (fun (u : State) p => u.scrubOthers p) s).pcores,
      pf := { s.pf with pwrEv := s.pf.pwrEv.raise 3 s.pf.arrivals } } := if_pos hl

/- Scrub marks on one core after the other. -/

variable {p q r : Nat}

theorem scrubOthers_pcr_self (hp : p < s.pcores.length) :
    (s.scrubOthers p).pcr p = (s.pcr p).markScrubs (Ranges.compl (s.residentRows p) scratchRows) := pcr_modPc_self _ _ hp

/-- A row that awaits scrub goes on to while other cores are marked. -/
theorem scrubOthers_keeps_scrub (h : Ranges.has (s.pcr p).scrub r = true) (hp : p < s.pcores.length) (q : Nat) :
    Ranges.has ((s.scrubOthers q).pcr p).scrub r = true := by
  by_cases hq : p = q
  · subst hq
    rw [scrubOthers_pcr_self hp, PCore.scrub_markScrubs, h, Bool.true_or]
  · rw [scrubOthers_eq, pcr_modPc_ne _ _ hq]
    exact h

theorem scrubOthers_length (s : State) (q : Nat) : (s.scrubOthers q).pcores.length = s.pcores.length := List.length_modify ..

theorem scrubs_keep_scrub (l : List Nat) (h : Ranges.has (s.pcr p).scrub r = true) (hp : p < s.pcores.length) :
    Ranges.has ((l.foldl (fun (u : State) q => u.scrubOthers q) s).pcr p).scrub r = true := by
  induction l generalizing s with
  | nil => exact h
  | cons q l ih => exact ih (scrubOthers_keeps_scrub h hp q) ((scrubOthers_length s q).symm ▸ hp)

/-- Once a core is marked among others, each of its rows that lies in no resident region awaits scrub (R461). -/
theorem scrubs_scrub {l : List Nat} (hm : p ∈ l) (hp : p < s.pcores.length) (hr : r < scratchRows) (h : Ranges.has (s.residentRows p) r = false) :
    Ranges.has ((l.foldl (fun (u : State) q => u.scrubOthers q) s).pcr p).scrub r = true := by
  induction l generalizing s with
  | nil => cases hm
  | cons q l ih =>
    have hlen : p < (s.scrubOthers q).pcores.length := (scrubOthers_length s q).symm ▸ hp
    rcases List.mem_cons.mp hm with rfl | hm
    · refine scrubs_keep_scrub l ?_ hlen
      rw [scrubOthers_pcr_self hp, PCore.scrub_markScrubs, Ranges.has_compl, h, decide_eq_true hr]
      exact Bool.or_true _
    · exact ih hm hlen h

end State

/-- Settles O11: each row is its equation, and at the end of a WAKE every core's rows are marked, one core after the other (`State.scrubs_scrub`). -/
theorem bivouacRows : Obligations.BivouacRows := by
  refine ⟨fun s e he hrow hl hp => ?_, fun s hl hq => ?_, fun s hl => ⟨_, State.exec_wake_bivouac hl, rfl, rfl, rfl⟩,
    fun s hl hw => ⟨_, State.exec_wake_entering hl hw, rfl, EvReg.isSet_raise _ _ _⟩, fun s hl => ?_⟩
  · obtain ⟨hboot, hmbox⟩ := s.bivouacRequest_leaves ((s.drainStart 0).bivouacAsk 0 e)
    have hask := State.bivouacAsk_allowed (s := s.drainStart 0) (e := e) hl hp 0
    refine ⟨_, State.exec_bivouacRequest he hrow, ?_, ?_, rfl, rfl, rfl⟩
    · rw [hboot, hask]
    · rw [hmbox, hask]
      exact congrArg Func.mbox (s.drainStart_func 0)
  · refine ⟨_, if_pos ⟨hl, hq⟩, rfl, rfl, ?_, rfl, rfl, rfl⟩
    dsimp only
    cases s.boot.wakeQueued <;> rfl
  · refine ⟨_, State.exec_wakeComplete hl, rfl, EvReg.isSet_raise _ _ _, rfl, rfl, rfl, fun p hp r hr h => ?_⟩
    exact PCore.row_of_scrub (State.scrubs_scrub (List.mem_range.mpr hp) hp hr h)

end Sys2Proof.Machine

/- Accesses from the host: the doorbell page, the control window and the MSI-X table (R331, R337 to R343, R359). -/

namespace Sys2Proof.Machine

namespace State

variable {s : State} {f n off size : Nat} {d : BitVec 64} {q : Queue} {x : Ctx}

theorem linkOpen_of_hostIn (h : s.hostIn = true) : s.linkOpen = true := (Bool.and_eq_true_iff.mp h).1

theorem send_of_linkOpen (h : s.linkOpen = true) (o : Out) : s.send o = { s with out := s.out ++ [o] } := if_pos h

theorem hostRow_func (s t : State) (f : Nat) : (s.hostRow t).func f = t.func f := rfl

/- Doorbells. -/

theorem exec_doorbellSqTail (h : s.hostIn = true) (hb : d.toNat.testBit 16 = false) :
    exec (.doorbellSqTail f off size d) s = .next (s.hostRow (s.doorbell f off size d.toNat)) := if_pos (by simp [h, hb])

theorem exec_doorbellCqHead (h : s.hostIn = true) (hb : d.toNat.testBit 16 = true) :
    exec (.doorbellCqHead f off size d) s = .next (s.hostRow (s.doorbell f off size d.toNat)) := if_pos (by simp [h, hb])

theorem doorbell_of_word (hr : s.boot.ready = true) (hn : n < 32768) (v : Nat) : s.doorbell f (4 * n) 4 v = s.ring f n (v % 2 ^ 32) := by
  unfold doorbell
  rw [if_neg (by simp [hr]; omega), if_pos ⟨rfl, by omega⟩, Nat.mul_div_cancel_left n (by decide)]

theorem doorbell_of_pair (hr : s.boot.ready = true) (hn : n < 16384) (v : Nat) :
    s.doorbell f (8 * n) 8 v = (s.ring f (2 * n) (v % 2 ^ 32)).ring f (2 * n + 1) (v / 2 ^ 32) := by
  unfold doorbell
  rw [if_neg (by simp [hr]; omega), if_neg (by simp), if_pos ⟨rfl, by omega⟩, show 8 * n / 4 = 2 * n by omega]

theorem doorbell_of_misaligned (hr : s.boot.ready = true) (h4 : ¬(size = 4 ∧ off % 4 = 0)) (h8 : ¬(size = 8 ∧ off % 8 = 0)) (ht : off + size ≤ 131072)
    (v : Nat) : s.doorbell f off size v = s.dbDrop f := by
  unfold doorbell
  rw [if_neg (by simp [hr]; omega), if_neg h4, if_neg h8]

theorem ring_of_other (hq : s.queues.get? n = some q) (hx : s.ctx q.ctx = some x) (hf : x.func ≠ f) (v : Nat) : s.ring f n v = s.dbDrop f := by
  simp [ring, hq, hx, hf]

/-- A doorbell of the owner of an ACTIVE queue sets the tail or the head (R342). -/
theorem ring_of_owner (hq : s.queues.get? n = some q) (hx : s.ctx q.ctx = some x) (hf : x.func = f) (ha : q.state = .active) (v : Nat) :
    s.ring f n (v % 2 ^ 32) = if v.testBit 16 then s.cqHead n (v % 65536) q else s.sqTail n (v % 65536) q := by
  have hbit : (v % 2 ^ 32).testBit 16 = v.testBit 16 := by rw [Nat.testBit_mod_two_pow]; simp
  have hmod : v % 2 ^ 32 % 65536 = v % 65536 := Nat.mod_mod_of_dvd v (by decide)
  unfold ring
  rw [hq]
  dsimp only
  rw [if_neg (by simp [hx, hf]), if_pos (by simp [ha]), hbit, hmod]

/-- With no completion held for it a queue pair releases none. -/
theorem releaseHeld_pair_of_empty (h : ((s.queues.get? n).map (fun (y : Queue) => y.held)).getD [] = []) (k : Nat) :
    s.releaseHeld (.pair n) k = s := by
  cases k with
  | zero => rfl
  | succ k =>
    unfold releaseHeld
    dsimp only
    rw [h]

theorem cqHead_of_ok {v : Nat} (h : headOk q.depth q.cqHead q.cqTail v = true) (hq : s.queues.get? n = some q) (hh : q.held = []) :
    s.cqHead n v q = { s with queues := s.queues.upd n (fun y => { y with cqHead := v }) } := by
  unfold cqHead
  rw [if_neg (by simp [h])]
  exact releaseHeld_pair_of_empty (by simp [hq, hh]) 2

/- The control window. -/

theorem exec_controlWindowWrite (h : s.hostIn = true) :
    exec (.controlWindowWrite f off size d) s = .next (s.hostRow (s.windowWrite f off size d)) := if_pos h

theorem windowWrite_of_word (ha : off % 4 = 0) (ht : off + 4 ≤ 65536) : s.windowWrite f off 4 d = s.mboxPut f off (BitVec.ofNat 32 d.toNat) :=
  if_pos ⟨rfl, ha, ht⟩

theorem windowWrite_of_misaligned (h4 : ¬(size = 4 ∧ off % 4 = 0)) (h8 : ¬(size = 8 ∧ off % 8 = 0)) : s.windowWrite f off size d = s.winDrop f :=
  (if_neg (fun h => h4 ⟨h.1, h.2.1⟩)).trans (if_neg (fun h => h8 ⟨h.1, h.2.1⟩))

theorem mboxPut_of_room (hr : s.boot.ready = true ∨ s.answersEarly off = true) (hm : (s.func f).mbox.length < 64) (v : Word) :
    s.mboxPut f off v = ({ s with pf := { s.pf with arrivals := s.pf.arrivals + 1 } } : State).modFunc f
      (fun y => { y with mbox := y.mbox ++ [⟨off, v, s.pf.arrivals + 1⟩] }) := by
  refine (if_neg ?_).trans (if_pos hm)
  rcases hr with hr | hr <;> simp [hr]

theorem mboxPut_of_full (hr : s.boot.ready = true) (hm : 64 ≤ (s.func f).mbox.length) (v : Word) :
    s.mboxPut f off v = (s.winDrop f).modFunc f (fun y => { y with overflow := y.overflow.raise 31 s.pf.arrivals }) :=
  (if_neg (by simp [hr])).trans (if_neg (Nat.not_lt.mpr hm))

theorem exec_controlWindowRead (h : s.hostIn = true) :
    exec (.controlWindowRead f off size) s = .next (s.hostRow (s.windowRead f off size)) := if_pos h

theorem modFunc_congr (s : State) {g h : Func → Func} (e : g (s.func f) = h (s.func f)) : s.modFunc f g = s.modFunc f h := by
  unfold modFunc
  rw [e]

/-- With no write before it the one read that waits is answered (R339). -/
theorem answerReads_of_drained {r : HeldRead} (hm : (s.func f).mbox = []) (hr : (s.func f).reads = [r]) :
    s.answerReads f = (s.send (.answer f r.off (s.readWindow f r.off r.size))).modFunc f (fun y => { y with reads := [] }) := by
  have hfunc (o : Out) : (s.send o).func f = s.func f := by rw [send_eq]; rfl
  unfold answerReads
  simp only [hm, hr, List.head?_nil, List.takeWhile, List.foldl_cons, List.foldl_nil]
  refine modFunc_congr _ ?_
  rw [hfunc]
  simp [hr]

/-- The one read that waits behind a write stays (R339). -/
theorem answerReads_of_waiting {r : HeldRead} {e : MboxEntry} (he : (s.func f).mbox.head? = some e) (hs : e.stamp ≤ r.stamp)
    (hr : (s.func f).reads = [r]) : s.answerReads f = s.modFunc f (fun y => { y with reads := [r] }) := by
  unfold answerReads
  simp only [he, hr, List.takeWhile, decide_eq_false (Nat.not_lt.mpr hs), List.foldl_nil]
  refine modFunc_congr _ ?_
  simp [hr, Nat.not_lt.mpr hs]

/-- A function with a read that has just arrived. -/
def readArrived (s : State) (f off size : Nat) : State :=
  s.modFunc f (fun x => { x with reads := x.reads ++ [{ off := off, size := size, stamp := s.pf.arrivals }] })

theorem windowRead_eq (s : State) (f off size : Nat) : s.windowRead f off size = (s.readArrived f off size).answerReads f := rfl

theorem readArrived_func (hr : (s.func f).reads = []) :
    (s.readArrived f off size).func f = { s.func f with reads := [⟨off, size, s.pf.arrivals⟩] } := by
  unfold readArrived
  rw [func_modFunc_self, hr]
  rfl

theorem readArrived_readWindow (hr : (s.func f).reads = []) : (s.readArrived f off size).readWindow f off size = s.readWindow f off size := by
  have h : s.readArrived f off size = s.modFunc f (fun y => { y with reads := [⟨off, size, s.pf.arrivals⟩] }) := modFunc_congr s (by simp [hr])
  rw [h, readWindow_reads]

theorem windowRead_of_drained (hl : s.linkOpen = true) (hm : (s.func f).mbox = []) (hr : (s.func f).reads = []) :
    s.windowRead f off size = ({ s.readArrived f off size with out := s.out ++ [.answer f off (s.readWindow f off size)] } : State).modFunc f
      (fun y => { y with reads := [] }) := by
  have hread := readArrived_func (off := off) (size := size) hr
  rw [windowRead_eq, answerReads_of_drained (s := s.readArrived f off size) (by rw [hread]; exact hm) (by rw [hread]),
    send_of_linkOpen (s := s.readArrived f off size) hl]
  dsimp only
  rw [readArrived_readWindow hr]
  rfl

theorem windowRead_of_waiting {e : MboxEntry} (he : (s.func f).mbox.head? = some e) (hs : e.stamp ≤ s.pf.arrivals) (hr : (s.func f).reads = []) :
    s.windowRead f off size = (s.readArrived f off size).modFunc f (fun y => { y with reads := [⟨off, size, s.pf.arrivals⟩] }) := by
  have hread := readArrived_func (off := off) (size := size) hr
  rw [windowRead_eq, answerReads_of_waiting (s := s.readArrived f off size) (by rw [hread]; exact he) hs (by rw [hread])]

/- The MSI-X table. -/

theorem exec_msixTableWrite (h : s.hostIn = true) : exec (.msixTableWrite f off size d) s = .next (s.hostRow (s.msixTable f off size d)) := if_pos h

/-- The vector that a word of the table belongs to, after the word is written. -/
def writtenVector (s : State) (f n part v : Nat) : Vector' := (AList.getD (s.func f).vectors n Vector'.fresh).write part v

/-- A vector takes its place in the table; one that is no longer masked is no longer pending (R359). -/
def setVector (s : State) (f n : Nat) (x : Vector') : State :=
  s.modFunc f (fun y => { y with vectors := y.vectors.set n { x with pend := x.pend && x.masked } })

theorem setVector_getD (s : State) (f n : Nat) (x : Vector') :
    AList.getD ((s.setVector f n x).func f).vectors n Vector'.fresh = { x with pend := x.pend && x.masked } := by
  unfold setVector
  rw [func_modFunc_self]
  exact AList.getD_set_self _ _ _ _

/-- A word of the table is written, and a vector that is pending and no longer masked sends its message (R359). -/
theorem msixTable_of_word {part : Nat} (hn : n < 2048) (hp : part < 4) :
    s.msixTable f (16 * n + 4 * part) 4 d =
      if (s.writtenVector f n part (d.toNat % 2 ^ 32)).pend && !(s.writtenVector f n part (d.toNat % 2 ^ 32)).masked then
        (s.setVector f n (s.writtenVector f n part (d.toNat % 2 ^ 32))).send (.msix f n)
      else s.setVector f n (s.writtenVector f n part (d.toNat % 2 ^ 32)) := by
  have hvec : (16 * n + 4 * part) / 16 = n := by omega
  have hpart : (16 * n + 4 * part) / 4 % 4 = part := by omega
  refine (if_pos ⟨rfl, by omega⟩).trans ?_
  unfold msixWrite
  rw [if_neg (by omega)]
  dsimp only
  rw [hvec, hpart]
  rfl

end State

/-- Settles O15: a doorbell rings the queues that its place names (`State.doorbell_of_word`, `State.doorbell_of_pair`) and `State.ring_of_owner` or
`State.ring_of_other` says what that does, a window write is that of `State.mboxPut_of_room` and its companions, a read is answered or held
(`State.windowRead_of_drained`, `State.windowRead_of_waiting`), and a word of the table is `State.msixTable_of_word`. -/
theorem hostAccesses : Obligations.HostAccesses := by
  refine ⟨fun s f a h => ?_, fun s f n d q x h hr hn hq hx hf ha => ⟨fun hb hv => ?_, fun hb hv => ?_, fun hb hv hh => ?_, fun hb hv => ?_⟩,
    fun s f n d h hr hn => ⟨fun hb => ?_, fun hb => ?_⟩, fun s f n d q x h hr hn hq hx hf => ⟨fun hb => ?_, fun hb => ?_⟩,
    fun s f off size d h hr h4 h8 ht => ⟨fun hb => ?_, fun hb => ?_⟩, fun s f off d h hr ha ht hm => ?_, fun s f off size d h h4 h8 => ?_,
    fun s f off d h hr ha ht hm => ?_, fun s f off size h hm hr => ?_, fun s f off size e h he hs hr => ?_, fun s f n part d h hn hp => ?_⟩
  · refine (if_pos h).trans ?_
    rw [State.send_of_linkOpen (State.linkOpen_of_hostIn h)]
    rfl
  · rw [State.exec_doorbellSqTail h hb, State.doorbell_of_word hr hn, State.ring_of_owner hq hx hf ha, hb, State.sqTail, if_neg (Nat.not_le.mpr hv)]
    rfl
  · rw [State.exec_doorbellSqTail h hb, State.doorbell_of_word hr hn, State.ring_of_owner hq hx hf ha, hb, State.sqTail]
    simp only [Bool.false_eq_true, if_false, if_pos hv]
    rfl
  · rw [State.exec_doorbellCqHead h hb, State.doorbell_of_word hr hn, State.ring_of_owner hq hx hf ha, if_pos hb, State.cqHead_of_ok hv hq hh]
    rfl
  · rw [State.exec_doorbellCqHead h hb, State.doorbell_of_word hr hn, State.ring_of_owner hq hx hf ha, if_pos hb, State.cqHead, if_pos (by simp [hv])]
    rfl
  · rw [State.exec_doorbellSqTail h hb, State.doorbell_of_pair hr hn]
  · rw [State.exec_doorbellCqHead h hb, State.doorbell_of_pair hr hn]
  · rw [State.exec_doorbellSqTail h hb, State.doorbell_of_word hr hn, State.ring_of_other hq hx hf]
    rfl
  · rw [State.exec_doorbellCqHead h hb, State.doorbell_of_word hr hn, State.ring_of_other hq hx hf]
    rfl
  · rw [State.exec_doorbellSqTail h hb, State.doorbell_of_misaligned hr h4 h8 ht]
    rfl
  · rw [State.exec_doorbellCqHead h hb, State.doorbell_of_misaligned hr h4 h8 ht]
    rfl
  · refine ⟨_, State.exec_controlWindowWrite h, ?_⟩
    rw [State.windowWrite_of_word ha ht, State.mboxPut_of_room hr hm]
    exact ⟨rfl, (State.hostRow_func _ _ f).trans (State.func_modFunc_self _ _ _),
      fun g hg => (State.hostRow_func _ _ g).trans (State.func_modFunc_ne _ _ hg), rfl, rfl⟩
  · rw [State.exec_controlWindowWrite h, State.windowWrite_of_misaligned h4 h8]
    rfl
  · refine ⟨_, State.exec_controlWindowWrite h, ?_⟩
    rw [State.windowWrite_of_word ha ht, State.mboxPut_of_full hr hm]
    refine ⟨?_, rfl⟩
    rw [State.hostRow_func, State.func_modFunc_self, State.winDrop, State.func_modFunc_self]
  · refine ⟨_, State.exec_controlWindowRead h, ?_⟩
    rw [State.windowRead_of_drained (State.linkOpen_of_hostIn h) hm hr]
    refine ⟨rfl, ?_, rfl, rfl⟩
    rw [State.hostRow_func, State.func_modFunc_self]
    show { (s.readArrived f off size).func f with reads := [] } = _
    rw [State.readArrived_func hr, ← hr]
  · refine ⟨_, State.exec_controlWindowRead h, ?_⟩
    rw [State.windowRead_of_waiting he hs hr]
    refine ⟨rfl, ?_, rfl⟩
    rw [State.hostRow_func, State.func_modFunc_self, State.readArrived_func hr]
  · refine ⟨_, State.exec_msixTableWrite h, ?_⟩
    rw [State.msixTable_of_word hn hp]
    dsimp only
    generalize hx : s.writtenVector f n part (d.toNat % 2 ^ 32) = x
    have hx' : (AList.getD (s.func f).vectors n Vector'.fresh).write part (d.toNat % 2 ^ 32) = x := hx
    rw [hx', State.hostRow_func]
    split
    · rw [State.send_of_linkOpen (s := s.setVector f n x) (State.linkOpen_of_hostIn h)]
      exact ⟨s.setVector_getD f n x, rfl⟩
    · exact ⟨s.setVector_getD f n x, (List.append_nil _).symm⟩

end Sys2Proof.Machine

/- Drained register writes (R338 to R341, R361, R100). -/

namespace Sys2Proof.Machine

namespace State

variable {s : State} {f : Nat} {e : MboxEntry}

/-- What answering reads leaves of its function: all but the reads that wait. -/
theorem answerReads_admin (s : State) (f : Nat) : ((s.answerReads f).func f).admin = (s.func f).admin := by
  obtain ⟨rs, h⟩ := s.answerReads_func f
  rw [h]

theorem answerReads_queues (s : State) (f : Nat) : (s.answerReads f).queues = s.queues := by
  obtain ⟨rs, o, h⟩ := s.answerReads_eq f
  rw [h]
  rfl

theorem drainStart_admin (s : State) (f : Nat) : ((s.drainStart f).func f).admin = (s.func f).admin := (congrArg Func.admin (s.drainStart_func f)).trans rfl

theorem drainStart_mbox (s : State) (f : Nat) : ((s.drainStart f).func f).mbox = (s.func f).mbox.tail := congrArg Func.mbox (s.drainStart_func f)

/-- An effect that gives a function another admin queue and leaves the queue pairs. -/
structure SetsAdmin (s t : State) (f : Nat) (a : AdminQ) : Prop where
  func : t.func f = { s.func f with admin := a }
  queues : t.queues = s.queues

theorem setsAdmin_modFunc (s : State) (f : Nat) {g : Func → Func} {a : AdminQ} (h : g (s.func f) = { s.func f with admin := a }) :
    s.SetsAdmin (s.modFunc f g) f a := ⟨(func_modFunc_self s f g).trans h, rfl⟩

/-- A row that drains a write of an admin queue's registers, by what its effect makes of that queue. -/
theorem drain_admin {row : DrainRow} {k : State → Nat → MboxEntry → State} {a : AdminQ} (h : s.nextEntry = some (f, e)) (hr : s.drainRow f e = row)
    (hk : (s.drainStart f).SetsAdmin (k (s.drainStart f) f e) f a) :
    (((s.hostRow (s.drain row k)).func f).mbox = (s.func f).mbox.tail) ∧ ((s.hostRow (s.drain row k)).func f).admin = a ∧
      (s.hostRow (s.drain row k)).queues = s.queues := by
  obtain ⟨hfunc, hqueues⟩ := hk
  rw [drain_eq h hr]
  refine ⟨?_, ?_, (answerReads_queues _ f).trans hqueues⟩
  · rw [hostRow_func, answerReads_mbox, hfunc]
    exact s.drainStart_mbox f
  · rw [hostRow_func, answerReads_admin, hfunc]

/-- An admin queue with no completion held releases none. -/
theorem releaseHeld_admin_of_empty (h : (s.func f).admin.held = []) (k : Nat) : s.releaseHeld (.admin f) k = s := by
  cases k with
  | zero => rfl
  | succ k =>
    unfold releaseHeld
    dsimp only
    rw [h]

theorem adminTail_of_running {a : AdminQ} (ha : (s.func f).admin = a) (he : a.enable = true) (hr : a.running = true) (hx : a.error = false)
    (hv : e.val.toNat % 65536 ≤ a.depthM1.toNat) :
    s.SetsAdmin (s.adminTail f e) f { a with sqTail := e.val.toNat % 65536, since := if a.sqHead = a.sqTail then s.boot.timer else a.since } := by
  unfold adminTail
  refine setsAdmin_modFunc s f ?_
  dsimp only
  rw [ha, if_neg (by simp [he, hr, hx]), if_neg (Nat.not_lt.mpr hv)]

theorem adminHead_of_ok {a : AdminQ} (ha : (s.func f).admin = a) (hr : a.running = true) (hx : a.error = false) (hh : a.held = [])
    (hv : headOk (a.depthM1.toNat + 1) a.cqHead a.cqTail (e.val.toNat % 65536) = true) :
    s.SetsAdmin (s.adminHead f e) f { a with cqHead := e.val.toNat % 65536 } := by
  unfold adminHead
  dsimp only
  rw [ha, if_neg (by simp [hr, hx]), if_neg (by simp [hv]), releaseHeld_admin_of_empty (by rw [func_modFunc_self, ha]; exact hh)]
  exact setsAdmin_modFunc s f (by rw [ha])

/-- The admin queue as ENABLE starts it, at a depth of 64 or more (R361). -/
theorem adminOn_of_off {a : AdminQ} (ha : (s.func f).admin = a) (he : a.enable = false) (hh : a.held = []) (hv : 63 ≤ e.val.toNat % 65536) :
    s.SetsAdmin (s.adminOn f e) f { a with
      depthM1 := BitVec.ofNat 16 e.val.toNat, enable := true, running := true, error := false, cause := 0,
      sqHead := 0, sqTail := 0, cqHead := 0, cqTail := 0, phase := true } := by
  have hd : 63 ≤ (BitVec.ofNat 16 e.val.toNat).toNat := by rw [BitVec.toNat_ofNat]; exact hv
  unfold adminOn
  dsimp only
  rw [ha, if_neg (by simp [he]), releaseHeld_admin_of_empty (by rw [func_modFunc_self]; exact hh)]
  refine setsAdmin_modFunc s f ?_
  simp only [hd, Nat.not_lt.mpr hd, decide_true, decide_false, if_false]

/-- A queue that is disabled stops once none of its fetched commands is left (R361). -/
theorem settleAdmin_of_disabled {a : AdminQ} (ha : (s.func f).admin = a) (he : a.enable = false) :
    s.SetsAdmin (s.settleAdmin (.admin f)) f { a with running := a.running && s.cmds.list.any (fun c => c.q == .admin f) } := by
  subst ha
  unfold settleAdmin
  cases hany : s.cmds.list.any (fun c => c.q == .admin f) with
  | false =>
    dsimp only
    rw [if_pos ⟨by simp [he], by simpa using hany⟩, Bool.and_false]
    exact setsAdmin_modFunc s f rfl
  | true =>
    have hleft : ¬(!(s.func f).admin.enable ∧ (s.cmds.list.filter (fun c => c.q == .admin f)).isEmpty) := fun ⟨_, hc⟩ => by
      obtain ⟨x, hx, hq⟩ := List.any_eq_true.mp hany
      exact List.filter_eq_nil_iff.mp (List.isEmpty_iff.mp hc) x hx hq
    dsimp only
    rw [if_neg hleft, Bool.and_true]
    exact ⟨rfl, rfl⟩

theorem adminOff_of_on {a : AdminQ} (ha : (s.func f).admin = a) (he : a.enable = true) :
    s.SetsAdmin (s.adminOff f e) f { a with enable := false, running := a.running && s.cmds.list.any (fun c => c.q == .admin f) } := by
  have hset := setsAdmin_modFunc s f (a := { a with enable := false })
    (g := fun x => { x with admin := { x.admin with
      enable := false, depthM1 := if x.admin.enable then x.admin.depthM1 else BitVec.ofNat 16 e.val.toNat } }) (by simp [ha, he])
  have hsettle := settleAdmin_of_disabled (congrArg Func.admin hset.func) rfl
  exact ⟨hsettle.func.trans (by rw [hset.func]; rfl), hsettle.queues.trans hset.queues⟩

/-- A request for the free spare core (R100). -/
theorem spareRequest_of_free (hu : s.sparing.usable = true) (hb : s.sparing.busy = none) (hw : s.sparing.wanted = none) (hc : s.carried 8 = none) :
    s.spareRequest f e = { s with sparing := { s.sparing with wanted := some (e.val.toNat % 8) } } := if_neg (by simp [hu, hb, hw, hc])

/- REGISTER_WRITE. -/

theorem modShown_eq (s : State) (f : Nat) (g : Ctx → Ctx) : s.modShown f g = { s with ctxs := (s.modShown f g).ctxs } := by
  unfold modShown
  split <;> rfl

/-- Writes of the PF's own registers leave the functions and the queues. -/
theorem writePf_leaves (s : State) (off v k : Nat) : (s.writePf off v k).funcs = s.funcs ∧ (s.writePf off v k).queues = s.queues := by
  unfold writePf
  repeat' split
  all_goals exact ⟨rfl, rfl⟩

/-- A drained register write leaves the mailboxes and the queues. -/
theorem writeReg_leaves (s : State) (f : Nat) (e : MboxEntry) :
    ((s.writeReg f e).func f).mbox = (s.func f).mbox ∧ (s.writeReg f e).queues = s.queues := by
  have hfunc (g : Func → Func) (hg : (g (s.func f)).mbox = (s.func f).mbox) :
      ((s.modFunc f g).func f).mbox = (s.func f).mbox ∧ (s.modFunc f g).queues = s.queues := ⟨by rw [func_modFunc_self, hg], rfl⟩
  have hshown (g : Ctx → Ctx) : ((s.modShown f g).func f).mbox = (s.func f).mbox ∧ (s.modShown f g).queues = s.queues := by
    rw [modShown_eq]
    exact ⟨rfl, rfl⟩
  unfold writeReg
  dsimp only
  split
  · exact hfunc _ (by split <;> rfl)
  · exact hfunc _ (by split <;> rfl)
  · exact hfunc _ (by split <;> rfl)
  · exact hfunc _ (by split <;> rfl)
  · exact hfunc _ rfl
  · exact hfunc _ rfl
  · exact hfunc _ rfl
  · exact hshown _
  · exact hshown _
  · exact hshown _
  · exact hshown _
  · split
    · obtain ⟨hfuncs, hqueues⟩ := s.writePf_leaves e.off e.val.toNat e.stamp
      exact ⟨by rw [func, hfuncs]; rfl, hqueues⟩
    · exact ⟨rfl, rfl⟩

theorem writeReg_queueSel (he : e.off = 0x1020) : s.writeReg f e = s.modFunc f (fun x => { x with queueSel := BitVec.ofNat 15 e.val.toNat }) := by
  simp only [writeReg, he]

theorem writeReg_ctxSel (he : e.off = 0x2000) : s.writeReg f e = s.modFunc f (fun x => { x with ctxSel := BitVec.ofNat 12 e.val.toNat }) := by
  simp only [writeReg, he]

theorem writeReg_dramChSel (he : e.off = 0x5040) : s.writeReg 0 e = s.modPf (fun p => { p with dramChSel := BitVec.ofNat 5 e.val.toNat }) := by
  simp only [writeReg, writePf, he, if_true]

theorem writeReg_capMw (he : e.off = 0x9008) : s.writeReg 0 e = { s with power := { s.power with capMw := BitVec.ofNat 17 e.val.toNat } } := by
  simp only [writeReg, writePf, he, if_true]

theorem writeReg_dramEv (he : e.off = 0x505C) : s.writeReg 0 e = s.modPf (fun p => { p with dramEv := p.dramEv.clear e.val.toNat e.stamp }) := by
  simp only [writeReg, writePf, he, if_true]

theorem exec_registerWrite (h : s.nextEntry = some (f, e)) (hr : s.drainRow f e = .register) :
    exec .registerWrite s = .next (s.regRow (((s.drainStart f).writeReg f e).answerReads f)) := by
  show execRegisterWrite s = _
  rw [execRegisterWrite, drain_eq h hr]

theorem regRow_func (s t : State) (f : Nat) : (s.regRow t).func f = t.func f := rfl

theorem exec_spareSwitchRequest (h : s.nextEntry = some (f, e)) (hr : s.drainRow f e = .spare) :
    exec .spareSwitchRequest s = .next (s.within .spareSwitchRequest (((s.drainStart f).spareRequest f e).answerReads f)) := by
  show execSpareSwitchRequest s = _
  rw [execSpareSwitchRequest, drain_eq h hr]
  rfl

/-- What SPARE_SWITCH_REQUEST lets through of its effect. -/
theorem spareSwitchRequest_leaves (s u : State) (f : Nat) :
    ((s.within .spareSwitchRequest (u.answerReads f)).func f).mbox = (u.func f).mbox ∧
      (s.within .spareSwitchRequest (u.answerReads f)).sparing = u.sparing :=
  ⟨u.answerReads_mbox f, (u.spared_answerReads f).sparing⟩

end State

/-- Settles O16: the writes of the admin registers set the queue of their function (`State.drain_admin` with the lemma of each effect), and each other
write has the effect of its row on the state in which its entry has left the mailbox. -/
theorem drainsGiveEffect : Obligations.DrainsGiveEffect := by
  intro s f e h
  have ha := s.drainStart_admin f
  refine ⟨fun hr he hrun hx hv => ⟨_, rfl, State.drain_admin h hr (State.adminTail_of_running ha he hrun hx hv)⟩,
    fun hr hrun hx hh hv => ⟨_, rfl, State.drain_admin h hr (State.adminHead_of_ok ha hrun hx hh hv)⟩,
    fun hr he hh hv => ⟨_, rfl, State.drain_admin h hr (State.adminOn_of_off ha he hh hv)⟩,
    fun hr he => ⟨_, rfl, State.drain_admin h hr (State.adminOff_of_on ha he)⟩, fun hr hu hb hw hc => ?_, fun hr => ?_⟩
  · have hask := State.spareRequest_of_free (s := s.drainStart f) (f := f) (e := e) hu hb hw hc
    obtain ⟨hmbox, hsparing⟩ := s.spareSwitchRequest_leaves ((s.drainStart f).spareRequest f e) f
    refine ⟨_, State.exec_spareSwitchRequest h hr, ?_, ?_, rfl⟩
    · rw [hmbox, hask]
      exact s.drainStart_mbox f
    · rw [hsparing, hask]
      rfl
  · obtain ⟨hmbox, hqueues⟩ := (s.drainStart f).writeReg_leaves f e
    obtain ⟨rs, hfunc⟩ := ((s.drainStart f).writeReg f e).answerReads_func f
    obtain ⟨-, -, hpf, hpower, -, -, -, -⟩ := ((s.drainStart f).writeReg f e).spared_answerReads f
    refine ⟨_, State.exec_registerWrite h hr, ?_, (State.answerReads_queues _ f).trans hqueues, rfl, rfl, rfl, rfl, fun ho => ?_, fun ho => ?_,
      fun hf ho => ?_, fun hf ho => ?_, fun hf ho => ?_⟩
    · rw [State.regRow_func, State.answerReads_mbox, hmbox]
      exact s.drainStart_mbox f
    · rw [State.regRow_func, hfunc, State.writeReg_queueSel ho, State.func_modFunc_self]
    · rw [State.regRow_func, hfunc, State.writeReg_ctxSel ho, State.func_modFunc_self]
    · subst hf
      refine (congrArg PfRegs.dramChSel hpf).trans ?_
      rw [State.writeReg_dramChSel ho]
      rfl
    · subst hf
      refine (congrArg Power.capMw hpower).trans ?_
      rw [State.writeReg_capMw ho]
    · subst hf
      refine (congrArg PfRegs.dramEv hpf).trans ?_
      rw [State.writeReg_dramEv ho]
      rfl

end Sys2Proof.Machine

/- Host windows (R354), and contexts and queue pairs (R344, R347, R352). -/

namespace Sys2Proof.Machine

namespace State

variable {s t u : State} {c : Cmd} {x : Ctx} {fid op own st : Nat} {r : Bytes}

/- Command rows. -/

/-- A row that is ready completes as its effect does, where the row's frame shows what it completes. -/
theorem CmdReady.row_complete (h : s.CmdReady fid op own c) (frame : State → State) (hf : frame (t.complete fid st r) = t.complete fid st r)
    {e : State → Cmd → State} (he : e s c = t.complete c.fid st r) :
    (.next (frame (s.runOp fid op own e)) : Result) = .next (t.complete fid st r) :=
  next_frame_eq frame hf (by rw [h.runOp, he, h.fid_eq])

/-- The same for a command that answers with its status alone. -/
theorem CmdReady.row_done (h : s.CmdReady fid op own c) (ho : op ≠ 1) (frame : State → State)
    (hf : frame (t.complete fid st []) = t.complete fid st []) {e : State → Cmd → State} (he : e s c = t.answer c st) :
    (.next (frame (s.runOp fid op own e)) : Result) = .next (t.complete fid st []) :=
  h.row_complete frame hf (by rw [he, answer, h.refused ho])

/-- What a row that is ready leaves else: the parts that its frame lets through. -/
theorem CmdReady.row_next (h : s.CmdReady fid op own c) (frame : State → State) {e : State → Cmd → State} (he : e s c = t) :
    (.next (frame (s.runOp fid op own e)) : Result) = .next (frame t) := by
  rw [h.runOp, he]

/-- A row that is ready and must wait for more is set aside. -/
theorem CmdReady.row_defer (h : s.CmdReady fid op own c) (frame : State → State) {e : State → Cmd → State} (he : e s c = t.defer c.fid)
    (hf : frame (t.defer fid) = t.defer fid) : (.next (frame (s.runOp fid op own e)) : Result) = .next (t.defer fid) :=
  next_frame_eq frame hf (by rw [h.runOp, he, h.fid_eq])

/- What a completion leaves of contexts and queue pairs. -/

theorem ctx_modCtx_of_some {n : Nat} (hx : s.ctx n = some x) (f : Ctx → Ctx) : (s.modCtx n f).ctx n = some (f x) := by
  show (s.ctxs.upd n f).get? n = some (f x)
  rw [AList.get?_upd_self]
  exact congrArg (Option.map f) hx

theorem complete_ctx_masked (s : State) (fid st : Nat) (r : Bytes) (n : Nat) :
    ((s.complete fid st r).ctx n).map Ctx.masked = (s.ctx n).map Ctx.masked := by
  cases h : s.cmds.find fid with
  | none => rw [complete_none h]
  | some c => exact (complete_posts h st r).ctx_masked n

theorem complete_ctx_none (s : State) (fid st : Nat) (r : Bytes) (n : Nat) : (s.complete fid st r).ctx n = none ↔ s.ctx n = none := by
  rw [← Option.map_eq_none_iff (f := Ctx.masked), complete_ctx_masked, Option.map_eq_none_iff]

theorem complete_queue_ctx {n : Nat} (hq : ∀ q ∈ s.queues, q.2.ctx ≠ n) (fid st : Nat) (r : Bytes) :
    ∀ q ∈ (s.complete fid st r).queues, q.2.ctx ≠ n := by
  cases h : s.cmds.find fid with
  | none => rwa [complete_none h]
  | some c => exact (complete_posts h st r).queue_ctx n hq

/-- A context stands with the same parts, but for those that sending and recording change. -/
theorem Posts.exists_ctx {n : Nat} (h : s.Posts t) (hx : s.ctx n = some x) : ∃ y, t.ctx n = some y ∧ y.masked = x.masked := by
  have hm := h.ctx_masked n
  rw [hx, Option.map_some] at hm
  exact Option.map_eq_some_iff.mp hm

theorem exists_ctx_complete {n : Nat} (hx : s.ctx n = some x) (fid st : Nat) (r : Bytes) :
    ∃ y, (s.complete fid st r).ctx n = some y ∧ y.masked = x.masked := by
  have hm := s.complete_ctx_masked fid st r n
  rw [hx, Option.map_some] at hm
  exact Option.map_eq_some_iff.mp hm

theorem cplOf_modCtx (h : s.cplOf t = t) (n : Nat) (f : Ctx → Ctx) : s.cplOf (t.modCtx n f) = t.modCtx n f := by
  rw [← h]
  rfl

/- Windows. -/

theorem windowOpen_of_room {w : Nat} (hx : s.ctx c.ctxNo = some x) (hw : x.windows.firstFree 0 1024 = some w)
    (hall : (s.ctxs.map (fun y => y.2.windows.length)).sum < 16384) (ha : c.fld 8 8 % 64 = 0) (hl : c.fld 16 8 % 64 = 0)
    (hmin : 64 ≤ c.fld 16 8) (hend : c.fld 8 8 + c.fld 16 8 ≤ 2 ^ 64) :
    s.windowOpen c = (s.modCtx c.ctxNo (fun y => { y with windows := y.windows.set w ⟨c.fld 8 8, c.fld 16 8,
      if (c.fld 24 3).testBit 20 then some (c.fld 24 3 % 2 ^ 20) else none⟩ })).complete c.fid stOk (toLe w 2) := by
  simp only [windowOpen, ha, hl, hx, hw, Option.bind_some, Nat.not_lt.mpr hmin, Nat.not_lt.mpr hend, Nat.not_le.mpr hall, ne_eq, not_true_eq_false,
    or_self, if_false]
  rfl

theorem windowOpen_of_bad_args (h : c.fld 8 8 % 64 ≠ 0 ∨ c.fld 16 8 % 64 ≠ 0 ∨ c.fld 16 8 < 64 ∨ 2 ^ 64 < c.fld 8 8 + c.fld 16 8) :
    s.windowOpen c = s.answer c stWindowBadArgs := by
  unfold windowOpen
  rw [if_pos h]

/-- The capture into a window ends before the window goes (R443). -/
def captureClosed (s : State) (n win : Nat) (x : Ctx) : State :=
  if x.replay.active = true ∧ x.replay.win = win then s.replayEnd n 3 else s

theorem posts_captureClosed (s : State) (n win : Nat) (x : Ctx) : s.Posts (s.captureClosed n win x) := by
  unfold captureClosed
  split
  · exact posts_replayEnd s n 3
  · exact Posts.refl s

theorem windowClose_of_open (hx : s.ctx c.ctxNo = some x) (hw : x.windows.has (c.fld 8 2) = true) :
    s.windowClose c = ((s.captureClosed c.ctxNo (c.fld 8 2) x).modCtx c.ctxNo (fun y => { y with
      windows := y.windows.erase (c.fld 8 2) })).answer c stOk := by
  simp [windowClose, captureClosed, hx, hw]

theorem windowClose_of_closed (hx : s.ctx c.ctxNo = some x) (hw : x.windows.has (c.fld 8 2) = false) :
    s.windowClose c = s.answer c stWindowInvalid := by
  simp [windowClose, hx, hw]

end State

/-- Settles O24: each row acts by its equation (`State.windowOpen_of_room`, `State.windowClose_of_open`) or refuses, and what ends a capture changes
no more than a completion does (`State.posts_captureClosed`). -/
theorem windowCommands : Obligations.WindowCommands := by
  refine ⟨fun s fid w c x hc hx hw hall ha hl hmin hend => ?_, fun s fid c hc h => ?_, fun s fid c x hc hx hw => ?_, fun s fid c x hc hx hw => ?_⟩
  · exact hc.row_complete s.cplOf (State.cplOf_complete_of rfl fid stOk _) (State.windowOpen_of_room hx hw hall ha hl hmin hend)
  · exact hc.row_complete s.cplOf (s.cplOf_complete fid _ _) (State.windowOpen_of_bad_args h)
  · have hframe := State.cplOf_of_posts (s.posts_captureClosed c.ctxNo (c.fld 8 2) x)
    exact hc.row_done (by decide) s.cplOf (State.cplOf_complete_of (State.cplOf_modCtx hframe _ _) fid stOk []) (State.windowClose_of_open hx hw)
  · exact hc.row_complete s.cplOf (s.cplOf_complete fid _ _) (State.windowClose_of_closed hx hw)

namespace State

variable {s t u : State} {c : Cmd} {x : Ctx} {fid op own st : Nat}

/- Whom the check on permission lets through (R351). -/

/-- A command that names a context comes from its function or from the PF. -/
theorem CmdReady.owns_ctx (h : s.CmdReady fid op own c) (ho : op = 0x81 ∨ op = 0x82 ∨ op = 0x83) (hx : s.ctx (c.fld 8 2) = some x) :
    c.func = 0 ∨ x.func = c.func := by
  have hp := h.permits
  obtain rfl | rfl | rfl := ho <;> simpa [State.permits, h.opcode, hx] using hp

/-- A command that names a queue pair comes from the function of its context or from the PF. -/
theorem CmdReady.owns_queue {q : Queue} (h : s.CmdReady fid 0x84 own c) (hq : s.queues.get? (c.fld 8 2) = some q) (hx : s.ctx q.ctx = some x) :
    c.func = 0 ∨ x.func = c.func := by
  simpa [State.permits, h.opcode, hq, hx] using h.permits

theorem onCtx_of_owned {n : Nat} (hx : s.ctx n = some x) (ho : c.func = 0 ∨ x.func = c.func) (k : Ctx → State) : s.onCtx c n k = k x := by
  unfold onCtx
  rw [hx]
  exact if_neg fun h => ho.elim h.1 h.2

theorem onCtx_of_unknown {n : Nat} (hx : s.ctx n = none) (k : Ctx → State) : s.onCtx c n k = s.answer c stCtxInvalid := by
  simp [onCtx, hx]

/- Creating a context. -/

/-- A context that CTX_CREATE may add, at a number and a stream-table run: every check of R352 and R353 lets it through. -/
structure Admits (s : State) (c : Cmd) (x : Ctx) (n first : Nat) : Prop where
  size : x.size ≤ 65536
  cores : x.isolated = true ↔ x.cores ≠ 0
  partition : s.hasPartition x.partition = true
  secure : x.confidential = true → s.link.ideEnabled = true ∧ s.link.ideSecure = true
  number : s.ctxs.firstFree 0 (if s.isoMode = true then min 4096 (8 + s.ctxs.length) else 4096) = some n
  iso : s.isoMode = true → s.ctxs.length < 8
  limit : (s.ctxs.filter (fun p => p.2.func == c.func)).length < s.param 0x0102 c.func
  entries : s.freeEntries x.size = some first
  quota : s.quotaFits x = true
  isolation : s.isolationOk x = true

/-- The state with a new context in it, before its charge. -/
def withCtx (s : State) (n : Nat) (x : Ctx) : State := { s with draws := s.draws + 1, ctxs := s.ctxs.set n x }

/-- The completion of CTX_CREATE names the context and its first entry. -/
def created (s : State) (c : Cmd) (n first : Nat) : State := s.complete c.fid stOk (resultAt [(8, toLe n 2), (12, toLe first 2)])

theorem Admits.args_ok {n first : Nat} (h : s.Admits c x n first) :
    ¬(65536 < x.size ∨ (x.isolated == (x.cores == 0)) = true ∨ (!s.hasPartition x.partition) = true) := by
  have hcores : ¬(x.isolated == (x.cores == 0)) = true := by
    rw [beq_iff_eq, Bool.eq_iff_iff, beq_iff_eq, h.cores]
    exact not_iff_self
  simp [hcores, h.partition, h.size]

theorem Admits.secure_ok {n first : Nat} (h : s.Admits c x n first) : (x.confidential && !(s.link.ideEnabled && s.link.ideSecure)) = false := by
  cases hf : x.confidential
  · rfl
  · simp [h.secure hf]

theorem Admits.within_limit {n first : Nat} (h : s.Admits c x n first) : ((s.isoMode && decide (8 ≤ s.ctxs.length)) ||
    decide (s.param 0x0102 c.func ≤ (s.ctxs.filter (fun p => p.2.func == c.func)).length)) = false := by
  cases hi : s.isoMode
  · simp [h.limit]
  · simp [h.limit, h.iso hi]

/-- An admitted context is added; an isolated one with entries is charged its stream-table frame first. -/
theorem ctxCreate_of_admits {n first : Nat} {y : Ctx} (hx : c.newCtx s 0 (Config.entropy s.draws) = x) (h : s.Admits c x n first)
    (hy : c.newCtx s first (Config.entropy s.draws) = y) :
    s.ctxCreate c = if (!y.isolated) = true ∨ y.size = 0 then (s.withCtx n y).created c n first
      else match (s.withCtx n y).claimTiles n chargeStrm 32 with
        | .ok u => u.created c n first
        | .wait k => (s.reclaimFor n k).defer c.fid
        | .refused => s.answer c stCtxNoResources := by
  simp only [ctxCreate, draw, hx, h.args_ok, h.secure_ok, h.number, h.within_limit, h.entries, h.quota, h.isolation, if_false, Bool.false_eq_true,
    Bool.not_true, Bool.or_self]
  subst hx hy
  rfl

/- Contexts that are reset and destroyed. -/

/-- What CTX_RESET of an idle context leaves before it completes (R352 steps 2 and 3). -/
def resetCtx (s : State) (n : Nat) : State :=
  let t := ((s.abortCmds n).teardown n true).draw
  t.2.modCtx n (fun x => x.cleared t.1)

theorem ctxReset_of_idle (hx : s.ctx (c.fld 8 2) = some x) (ho : c.func = 0 ∨ x.func = c.func) (hb : s.ctxBusy (c.fld 8 2) = false) :
    s.ctxReset c = (s.resetCtx (c.fld 8 2)).answer c stOk := by
  rw [ctxReset, onCtx_of_owned hx ho, if_neg (by simp [hb])]
  rfl

theorem ctxReset_of_busy (hx : s.ctx (c.fld 8 2) = some x) (ho : c.func = 0 ∨ x.func = c.func) (hb : s.ctxBusy (c.fld 8 2) = true) :
    s.ctxReset c = (s.modCtx (c.fld 8 2) (fun y => { y with state := 3 })).defer c.fid := by
  rw [ctxReset, onCtx_of_owned hx ho, if_pos hb, ctxWait]

theorem ctxDestroy_of_idle (hx : s.ctx (c.fld 8 2) = some x) (ho : c.func = 0 ∨ x.func = c.func) (hb : s.ctxBusy (c.fld 8 2) = false) :
    s.ctxDestroy c = ((s.abortCmds (c.fld 8 2)).removeCtx (c.fld 8 2)).answer c stOk := by
  rw [ctxDestroy, onCtx_of_owned hx ho, if_neg (by simp [hb])]

theorem ctxDestroy_of_busy (hx : s.ctx (c.fld 8 2) = some x) (ho : c.func = 0 ∨ x.func = c.func) (hb : s.ctxBusy (c.fld 8 2) = true) :
    s.ctxDestroy c = (s.modCtx (c.fld 8 2) (fun y => { y with state := 3 })).defer c.fid := by
  rw [ctxDestroy, onCtx_of_owned hx ho, if_pos hb, ctxWait]

/-- Drawing random bytes leaves the contexts as they are. -/
theorem sameBare_draw (s : State) : s.SameBare s.draw.2 := sameBare_of rfl

/-- A context after its reset: what the release keeps of it, and the values that R352 gives the rest. -/
theorem exists_ctx_resetCtx {n : Nat} (hx : s.ctx n = some x) (fid st : Nat) (r : Bytes) :
    ∃ y, ((s.resetCtx n).complete fid st r).ctx n = some y ∧ y.state = 1 ∧ y.func = x.func ∧ y.guarantee = x.guarantee ∧
      y.seq = x.seq ∧ y.windows = [] ∧ y.segs = [] ∧ y.kv = none ∧ y.residents = [] := by
  unfold resetCtx
  have h := ((s.sameBare_abortCmds n).trans (sameBare_teardown _ n true)).trans (sameBare_draw _)
  generalize ((s.abortCmds n).teardown n true).draw = d at h ⊢
  have hb := h.ctx n
  rw [hx, Option.map_some] at hb
  obtain ⟨z, hz, hbare⟩ := Option.map_eq_some_iff.mp hb
  obtain ⟨y, hy, hmask⟩ := exists_ctx_complete (ctx_modCtx_of_some hz fun z => z.cleared d.1) fid st r
  have field {α : Type} (f : Ctx → α) (hf : ∀ v : Ctx, f v.masked = f v) : f y = f (z.cleared d.1) := by rw [← hf y, hmask, hf]
  have kept {α : Type} (f : Ctx → α) (hf : ∀ v : Ctx, f (bareOf v) = f v) : f z = f x := by rw [← hf z, hbare, hf]
  exact ⟨y, hy, field Ctx.state fun _ => rfl, (field Ctx.func fun _ => rfl).trans (kept Ctx.func fun _ => rfl),
    (field Ctx.guarantee fun _ => rfl).trans (kept Ctx.guarantee fun _ => rfl), (field Ctx.seq fun _ => rfl).trans (kept Ctx.seq fun _ => rfl),
    field Ctx.windows fun _ => rfl, field Ctx.segs fun _ => rfl, field Ctx.kv fun _ => rfl, field Ctx.residents fun _ => rfl⟩

/-- What a context row that answers with a status leaves: the life of the tile and its parameters as they were, and of contexts and queue pairs what
its effect leaves. -/
theorem CmdReady.ctxRow_answer (h : s.CmdReady fid op own c) {e : State → Cmd → State} (he : e s c = t.answer c st) :
    ∃ u, (.next (s.ctxCmd (s.runOp fid op own e)) : Result) = .next u ∧ u.cmds.find fid = none ∧ u.boot = s.boot ∧ u.params = s.params ∧
      (∀ n, u.ctx n = (t.complete fid st c.refused).ctx n) ∧ u.queues = (t.complete fid st c.refused).queues := by
  refine ⟨s.ctxCmd (t.complete fid st c.refused), h.row_next s.ctxCmd ?_, t.complete_gone fid st c.refused, rfl, rfl, fun _ => rfl, rfl⟩
  rw [he, answer, h.fid_eq]

theorem exec_ctxCreate_of_admits {n first : Nat} (hc : s.CmdReady fid 0x80 stBadField c)
    (h : s.Admits c (c.newCtx s first (Config.entropy s.draws)) n first) :
    ((c.newCtx s first (Config.entropy s.draws)).isolated = false ∨ (c.newCtx s first (Config.entropy s.draws)).size = 0 → exec (.ctxCreate fid) s =
      .next ((s.withCtx n (c.newCtx s first (Config.entropy s.draws))).complete fid stOk (resultAt [(8, toLe n 2), (12, toLe first 2)]))) ∧
    ((c.newCtx s first (Config.entropy s.draws)).isolated = true → (c.newCtx s first (Config.entropy s.draws)).size ≠ 0 →
      ∀ u, (s.withCtx n (c.newCtx s first (Config.entropy s.draws))).claimTiles n chargeStrm 32 = .ok u →
      exec (.ctxCreate fid) s = .next (u.complete fid stOk (resultAt [(8, toLe n 2), (12, toLe first 2)]))) := by
  have hrun := ctxCreate_of_admits rfl ⟨h.size, h.cores, h.partition, h.secure, h.number, h.iso, h.limit, h.entries, h.quota, h.isolation⟩ rfl
  refine ⟨fun hfree => ?_, fun hi hs u hu => ?_⟩
  · refine hc.row_complete s.ctxCmd (ctxCmd_complete rfl fid stOk _) (hrun.trans (if_pos ?_))
    exact hfree.imp_left fun h => by simpa using h
  · have hframe : s.ctxCmd u = u := by
      rw [claimTiles_eq hu]
      rfl
    refine hc.row_complete s.ctxCmd (ctxCmd_complete hframe fid stOk _) (hrun.trans ((if_neg ?_).trans ?_))
    · exact fun h => h.elim (fun k => by simp [hi] at k) hs
    · rw [hu]
      rfl

theorem exec_ctxReset_of_idle (hc : s.CmdReady fid 0x81 stBadField c) (hx : s.ctx (c.fld 8 2) = some x) (hb : s.ctxBusy (c.fld 8 2) = false) :
    ∃ t, exec (.ctxReset fid) s = .next t ∧ t.cmds.find fid = none ∧ t.boot = s.boot ∧ t.params = s.params ∧
      ∃ y, t.ctx (c.fld 8 2) = some y ∧ y.state = 1 ∧ y.func = x.func ∧ y.guarantee = x.guarantee ∧ y.seq = x.seq ∧
        y.windows = [] ∧ y.segs = [] ∧ y.kv = none ∧ y.residents = [] := by
  obtain ⟨u, hu, hgone, hboot, hparams, hctx, -⟩ := hc.ctxRow_answer (ctxReset_of_idle hx (hc.owns_ctx (.inl rfl) hx) hb)
  refine ⟨u, hu, hgone, hboot, hparams, ?_⟩
  rw [hctx]
  exact exists_ctx_resetCtx hx fid stOk c.refused

theorem exec_ctxReset_of_busy (hc : s.CmdReady fid 0x81 stBadField c) (hx : s.ctx (c.fld 8 2) = some x) (hb : s.ctxBusy (c.fld 8 2) = true) :
    exec (.ctxReset fid) s = .next ((s.modCtx (c.fld 8 2) (fun y => { y with state := 3 })).defer fid) :=
  hc.row_defer s.ctxCmd (ctxReset_of_busy hx (hc.owns_ctx (.inl rfl) hx) hb) rfl

theorem exec_ctxDestroy_of_idle (hc : s.CmdReady fid 0x82 stBadField c) (hx : s.ctx (c.fld 8 2) = some x) (hb : s.ctxBusy (c.fld 8 2) = false) :
    ∃ t, exec (.ctxDestroy fid) s = .next t ∧ t.cmds.find fid = none ∧ t.ctx (c.fld 8 2) = none ∧ (∀ q ∈ t.queues, q.2.ctx ≠ c.fld 8 2) ∧
      t.boot = s.boot ∧ t.params = s.params := by
  obtain ⟨u, hu, hgone, hboot, hparams, hctx, hqueues⟩ := hc.ctxRow_answer (ctxDestroy_of_idle hx (hc.owns_ctx (.inr (.inl rfl)) hx) hb)
  refine ⟨u, hu, hgone, ?_, ?_, hboot, hparams⟩
  · rw [hctx, complete_ctx_none]
    exact removeCtx_gone _ _
  · rw [hqueues]
    exact complete_queue_ctx (removeCtx_queues _ _) fid stOk c.refused

theorem exec_ctxDestroy_of_busy (hc : s.CmdReady fid 0x82 stBadField c) (hx : s.ctx (c.fld 8 2) = some x) (hb : s.ctxBusy (c.fld 8 2) = true) :
    exec (.ctxDestroy fid) s = .next ((s.modCtx (c.fld 8 2) (fun y => { y with state := 3 })).defer fid) :=
  hc.row_defer s.ctxCmd (ctxDestroy_of_busy hx (hc.owns_ctx (.inr (.inl rfl)) hx) hb) rfl

/- Queue pairs. -/

/-- The queue pair that a QP_CREATE describes: its rings are empty. -/
def newQueue (c : Cmd) (x : Ctx) : Queue :=
  { ctx := c.fld 8 2, depth := c.fld 10 2 + 1, pasid := if (c.fld 12 3).testBit 20 then some (c.fld 12 3 % 2 ^ 20) else none,
    sqBase := c.fld 16 8, cqBase := c.fld 24 8, vector := c.fld 32 2, state := .active, cause := 0, sqHead := 0, sqTail := 0, cqHead := 0, cqTail := 0,
    phase := true, held := [], ordinal := x.ordinal, since := 0 }

theorem CmdReady.not_foreign (h : s.CmdReady fid 0x83 own c) :
    (s.ctx (c.fld 8 2)).any (fun (x : Ctx) => c.func != 0 && x.func != c.func) = false := by
  cases hx : s.ctx (c.fld 8 2) with
  | none => rfl
  | some x =>
    have ho := h.owns_ctx (.inr (.inr rfl)) hx
    simpa [Decidable.imp_iff_not_or] using ho

theorem qpCreate_of_bad_args (ho : (s.ctx (c.fld 8 2)).any (fun (x : Ctx) => c.func != 0 && x.func != c.func) = false)
    (h : c.fld 10 2 < 63 ∨ c.fld 16 8 % 4096 ≠ 0 ∨ c.fld 24 8 % 4096 ≠ 0) : s.qpCreate c = s.answer c stQpBadArgs := by
  simp only [qpCreate, ho, Nat.add_lt_iff_lt_sub_right, h, if_true, if_false, Bool.false_eq_true]

theorem qpCreate_of_room {q : Nat} (ho : (s.ctx (c.fld 8 2)).any (fun (x : Ctx) => c.func != 0 && x.func != c.func) = false)
    (hx : s.ctx (c.fld 8 2) = some x) (hd : 63 ≤ c.fld 10 2) (hs : c.fld 16 8 % 4096 = 0) (hc : c.fld 24 8 % 4096 = 0)
    (hq : s.queues.firstFree 0 32768 = some q)
    (hn : (s.queues.filter (fun p => (s.ctx p.2.ctx).any (fun (y : Ctx) => y.func == x.func))).length < s.param 0x0103 x.func) :
    s.qpCreate c = ((({ s with queues := s.queues.set q (newQueue c x) } : State).modCtx (c.fld 8 2)
      (fun y => { y with ordinal := y.ordinal + 1 })).complete c.fid stOk (toLe q 2)) := by
  have hdepth : ¬c.fld 10 2 + 1 < 64 := by omega
  simp only [qpCreate, ho, hdepth, hs, hc, hq, if_false, Bool.false_eq_true, ne_eq, not_true_eq_false, or_self]
  rw [hx]
  simp only [Nat.not_le.mpr hn, if_false]
  rfl

section

variable {q : Queue}

theorem qpDelete_of_owned (hq : s.queues.get? (c.fld 8 2) = some q) (hx : s.ctx q.ctx = some x) (ho : c.func = 0 ∨ x.func = c.func) :
    s.qpDelete c = if s.cmds.list.any (fun e => e.q == .pair (c.fld 8 2)) then
        ({ s with queues := s.queues.upd (c.fld 8 2) (fun y => { y with state := .deleting }) } : State).defer c.fid
      else ({ s with queues := s.queues.erase (c.fld 8 2) } : State).answer c stOk := by
  have hmine : ¬(c.func ≠ 0 ∧ (!((s.ctx q.ctx).any (fun (y : Ctx) => y.func == c.func))) = true) := by
    rw [hx]
    rintro ⟨hpf, hnot⟩
    simp [ho.resolve_left hpf] at hnot
  simp only [qpDelete, hq, hmine, if_false]

end

theorem qpDelete_of_unknown (hq : s.queues.get? (c.fld 8 2) = none) : s.qpDelete c = s.answer c stQpInvalid := by
  simp [qpDelete, hq]

end State

/-- Settles O27: each row acts by its equation. What CTX_RESET and CTX_DESTROY release lies in the frame of their rows by definition; what is left of the
context is told by `State.exists_ctx_resetCtx` and `State.removeCtx_gone`. -/
theorem contextCommands : Obligations.ContextCommands := by
  refine ⟨?_, fun s fid c x hc hx => ⟨fun hb => State.exec_ctxReset_of_idle hc hx hb, fun hb => State.exec_ctxReset_of_busy hc hx hb⟩,
    fun s fid c x hc hx hb => State.exec_ctxDestroy_of_idle hc hx hb, fun s fid c x hc hx hb => State.exec_ctxDestroy_of_busy hc hx hb, ?_, ?_, ?_, ?_, ?_⟩
  · rintro s fid n first c x hc rfl hsize hcores hpart hsec hnum hiso hlimit hentries hquota hisol
    exact State.exec_ctxCreate_of_admits hc ⟨hsize, hcores, hpart, hsec, hnum, hiso, hlimit, hentries, hquota, hisol⟩
  · exact fun s fid c hx =>
      ⟨fun hc => hc.row_complete s.ctxCmd (State.ctxCmd_complete rfl fid _ _) (State.onCtx_of_unknown hx _),
        fun hc => hc.row_complete s.ctxCmd (State.ctxCmd_complete rfl fid _ _) (State.onCtx_of_unknown hx _)⟩
  · exact fun s fid q c x hc hx hd hsq hcq hq hn =>
      hc.row_complete s.cplOf (State.cplOf_complete_of rfl fid stOk _) (State.qpCreate_of_room hc.not_foreign hx hd hsq hcq hq hn)
  · intro s fid c q x hc hq hx
    have hrun := State.qpDelete_of_owned hq hx (hc.owns_queue hq hx)
    refine ⟨fun hidle => ?_, fun hbusy => ?_⟩
    · exact hc.row_done (by decide) s.cplOf (State.cplOf_complete_of rfl fid stOk []) (hrun.trans (if_neg (by simp [hidle])))
    · exact hc.row_defer s.cplOf (hrun.trans (if_pos hbusy)) rfl
  · exact fun s fid c hc hq => hc.row_complete s.cplOf (s.cplOf_complete fid _ _) (State.qpDelete_of_unknown hq)
  · exact fun s fid c hc h => hc.row_complete s.cplOf (s.cplOf_complete fid _ _) (State.qpCreate_of_bad_args hc.not_foreign h)

end Sys2Proof.Machine

/- Attestation, the session of a confidential context, and the identity (R366 to R368, R376, R391). -/

namespace Sys2Proof.AList

/-- An update that changes no value changes nothing. -/
theorem upd_eq_self {α : Type} {f : α → α} (h : ∀ v, f v = v) (l : AList α) (k : Nat) : l.upd k f = l := by
  induction l with
  | nil => rfl
  | cons p l ih =>
    rw [AList.upd]
    split
    · rw [h]
    · rw [ih]

end Sys2Proof.AList

namespace Sys2Proof.Machine

/-- A counter that counts nothing stays as it is. -/
theorem satPlus_zero {w : Nat} (x : BitVec w) : satPlus x 0 = x := by
  have h := x.isLt
  have hle : x.toNat ≤ 2 ^ w - 1 := by omega
  simp [satPlus, satAdd, hle]

/-- The security state of a session before its channels have keys (R376). -/
def CtxSec.opened (k : CtxSec) (priv pub : Bytes) : CtxSec :=
  { k with ephUsed := true, secret := Config.ecdh priv pub, salt := Config.sha384 k.report, h2tGen := 0, t2hGen := 0, t2hCnt := 0 }

/-- A session's security state with the keys of both directions at generation 0 (R364, R376). -/
def CtxSec.keyed (k : CtxSec) (ctx : Nat) (priv pub : Bytes) : CtxSec :=
  { k.opened priv pub with
    h2t := some (chanKey "IVN h2t" (k.opened priv pub) ctx 0), t2h := some (chanKey "IVN t2h" (k.opened priv pub) ctx 0) }

namespace State

variable {s t : State} {c : Cmd} {x : Ctx} {fid : Nat}

/-- Counting no violation changes nothing. -/
theorem countViol_zero (s : State) (n : Nat) : s.countViol n 0 = s := by
  unfold countViol modCtx
  rw [AList.upd_eq_self fun x => by rw [satPlus_zero]]

/-- A read in clear that lies inside a window brings its bytes and changes nothing (R118). -/
theorem plainRead_inside {ctx win off n : Nat} {w : Window} {b : Bytes} (hx : s.ctx ctx = some x)
    (hw : x.window? win = some w) (hin : off + n ≤ w.len) (hb : b.length = n) (hlink : s.linkOpen = true) :
    s.plainRead ctx win off n (.ok b) = { s := s, data := some b, viol := 0, bad := none } := by
  simp only [plainRead, hx, hw, insideLen_of_le hin, onLink, hlink, if_true, fetched_eq hb,
    fixLen_of_length hb, winRuns_none_outside, List.length_nil, List.head?_nil, Option.map_none]

/- ATTEST. -/

/-- An earlier command of the same context still stands (R367). -/
def attestWaits (s : State) (c : Cmd) : Bool := s.cmds.list.any (fun e => decide (e.fid < c.fid) && e.ctx == c.ctx)

/-- The report of a context under a fresh key, with its signature (R368). -/
def signedReport (s : State) (c : Cmd) (x : Ctx) : Bytes :=
  let body := s.reportBody c.ctxNo x ((c.entry.drop 24).take 32) (Config.ecPublic (Config.entropy s.draws))
  body ++ fixLen 96 (Config.ecdsaSign s.nv.otp.row.idkPriv body)

/-- What ATTEST keeps of the key and the report for one session (R367). -/
def attested (s : State) (c : Cmd) (x : Ctx) : State :=
  ({ s with draws := s.draws + 1 } : State).modCtx c.ctxNo (fun y =>
    { y with sec := { y.sec with ephPriv := some (Config.entropy s.draws), ephUsed := false, report := s.signedReport c x } })

/-- The report goes to its window, and what lies outside counts as violating. -/
def reported (s : State) (c : Cmd) (x : Ctx) : State :=
  let w := (s.attested c x).plainWrite c.ctxNo (c.fld 8 2) (c.fld 16 8) (s.signedReport c x)
  w.s.countViol c.ctxNo w.viol

theorem attested_posts_reported (s : State) (c : Cmd) (x : Ctx) : (s.attested c x).Posts (s.reported c x) :=
  (posts_plainWrite _ _ _ _ _).trans (posts_countViol _ _ _)

theorem attest_of_waiting (h : s.attestWaits c = true) : s.attest c = s.defer c.fid := if_pos h

theorem attest_of_free (h : s.attestWaits c = false) (hx : s.ctx c.ctxNo = some x) :
    s.attest c = (s.reported c x).complete c.fid stOk (toLe (s.signedReport c x).length 4) := by
  unfold attest
  rw [if_neg (by simpa [attestWaits] using h), hx]
  rfl

/-- The context holds the key and the report after the write. -/
theorem exists_ctx_reported (hx : s.ctx c.ctxNo = some x) : ∃ y, (s.reported c x).ctx c.ctxNo = some y ∧
    y.sec.ephPriv = some (Config.entropy s.draws) ∧ y.sec.ephUsed = false ∧ y.sec.report = s.signedReport c x := by
  have hattested : (s.attested c x).ctx c.ctxNo = some _ := ctx_modCtx_of_some (s := { s with draws := s.draws + 1 }) hx _
  obtain ⟨y, hy, hmask⟩ := (s.attested_posts_reported c x).exists_ctx hattested
  exact ⟨y, hy, (congrArg (fun z : Ctx => z.sec.ephPriv) hmask).trans rfl, (congrArg (fun z : Ctx => z.sec.ephUsed) hmask).trans rfl,
    (congrArg (fun z : Ctx => z.sec.report) hmask).trans rfl⟩

/-- What sending, logging and recording change lies in the frame of the security rows. -/
theorem secCmd_of_posts {u : State} (h : s.secCmd t = t) (k : t.Posts u) : s.secCmd u = u := by
  rw [k.parts, ← h]
  rfl

/- SESSION_OPEN. -/

theorem sessionOpen_of_clear (hx : s.ctx c.ctxNo = some x) (h : x.confidential = false) (r : HostRead) :
    s.sessionOpen c r = s.answer c stSecNotConfidential := by
  simp [sessionOpen, hx, h]

theorem sessionOpen_of_no_key (hx : s.ctx c.ctxNo = some x) (h : x.confidential = true) (hk : x.sec.ephPriv = none) (r : HostRead) :
    s.sessionOpen c r = s.answer c stSecNoKey := by
  simp [sessionOpen, hx, h, hk]

theorem sessionOpen_of_used_key (hx : s.ctx c.ctxNo = some x) (h : x.confidential = true) (hk : x.sec.ephPriv ≠ none) (hu : x.sec.ephUsed = true)
    (r : HostRead) : s.sessionOpen c r = s.answer c stSecKeyUsed := by
  obtain ⟨priv, hp⟩ := Option.ne_none_iff_exists'.mp hk
  simp [sessionOpen, hx, h, hp, hu]

/-- A public key that the window read brings opens the session when it is a point of the curve (R376). -/
theorem sessionOpen_of_read {priv pub : Bytes} {r : HostRead} (hx : s.ctx c.ctxNo = some x) (h : x.confidential = true)
    (hp : x.sec.ephPriv = some priv) (hu : x.sec.ephUsed = false)
    (hr : s.plainRead c.ctxNo (c.fld 8 2) (c.fld 16 8) 97 r = { s := s, data := some pub, viol := 0, bad := none }) :
    s.sessionOpen c r = if Config.ecValid pub = true then
        (s.modCtx c.ctxNo (fun y => { y with sec := x.sec.keyed c.ctxNo priv pub })).answer c stOk
      else s.answer c stSecBadPoint := by
  cases hv : Config.ecValid pub <;> simp [sessionOpen, hx, h, hp, hu, hr, countViol_zero, hv, CtxSec.keyed, CtxSec.opened]

theorem exec_sessionOpen (hc : s.CmdReady fid 0x31 stBadField c) (hf : 0 < s.freeTags) {r : HostRead} {st : Nat}
    (ht : s.secCmd t = t) (he : s.sessionOpen c r = t.answer c st) : exec (.sessionOpen fid r) s = .next (t.complete fid st c.refused) :=
  next_frame_eq s.secCmd (secCmd_complete ht fid st c.refused) (by rw [hc.runRead hf, he, answer, hc.fid_eq])

/- IDENTITY_GET. -/

/-- The chain goes to the host where its buffer holds it (R391). -/
def chainWritten (s : State) (c : Cmd) : State :=
  if s.nv.certChain.length ≤ c.fld 16 4 then s.hostWrite c.func none (c.fld 8 8) s.nv.certChain else s

theorem posts_chainWritten (s : State) (c : Cmd) : s.Posts (s.chainWritten c) := by
  unfold chainWritten
  split
  · exact posts_hostWrite _ _ _ _ _
  · exact Posts.refl s

end State

/-- Settles O28: each row acts by its equation (`State.attest_of_free`, `State.sessionOpen_of_read`), the first check that fails answers, and the writes
to the host change no more than a completion does (`State.attested_posts_reported`, `State.posts_chainWritten`). -/
theorem securityCommands : Obligations.SecurityCommands := by
  refine ⟨fun s fid c x hc hw hx => ?_, fun s fid c hc hw => hc.row_defer s.secCmd (State.attest_of_waiting hw) rfl,
    fun s fid c x r hc hf hx => ⟨fun h => ?_, fun h hk => ?_, fun h hk hu => ?_⟩, ?_, fun s fid c hc => ?_⟩
  · have hposts := s.attested_posts_reported c x
    have hframe : s.secCmd (s.reported c x) = s.reported c x := State.secCmd_of_posts rfl hposts
    obtain ⟨y, hy, hpriv, hused, hreport⟩ := State.exists_ctx_reported hx
    refine ⟨s.reported c x, y, fixLen 96 (Config.ecdsaSign s.nv.otp.row.idkPriv (s.reportBody c.ctxNo x ((c.entry.drop 24).take 32)
      (Config.ecPublic (Config.entropy s.draws)))), ?_, ?_, ?_, ?_, ?_, hy, hpriv, hused, hreport⟩
    · rw [hreport]
      exact hc.row_complete s.secCmd (State.secCmd_complete hframe fid stOk _) (State.attest_of_free hw hx)
    · rw [hposts.parts]; rfl
    · rw [hposts.parts]; rfl
    · rw [hposts.parts]; rfl
    · rw [hposts.parts]; rfl
  · exact State.exec_sessionOpen hc hf rfl (State.sessionOpen_of_clear hx h r)
  · exact State.exec_sessionOpen hc hf rfl (State.sessionOpen_of_no_key hx h hk r)
  · exact State.exec_sessionOpen hc hf rfl (State.sessionOpen_of_used_key hx h hk hu r)
  · intro s fid c x w priv pub hc hf hlink hx h hp hu hw hin hlen
    have hrun := State.sessionOpen_of_read hx h hp hu (State.plainRead_inside hx hw hin hlen hlink)
    rw [← hc.refused (by decide)]
    refine ⟨fun hv => ?_, fun hv => ⟨x.sec.keyed c.ctxNo priv pub, ?_, rfl, rfl, rfl, rfl, rfl, rfl, rfl, rfl⟩⟩
    · exact State.exec_sessionOpen hc hf rfl (hrun.trans (if_neg (by simp [hv])))
    · exact State.exec_sessionOpen hc hf rfl (hrun.trans (if_pos hv))
  · have hframe : s.secCmd (s.chainWritten c) = s.chainWritten c := State.secCmd_of_posts rfl (s.posts_chainWritten c)
    exact hc.row_complete s.secCmd (State.secCmd_complete hframe fid stOk _) rfl

end Sys2Proof.Machine

/- The check and resident-region commands (R429, R435, R436, R449). -/

namespace Sys2Proof.Machine

namespace State

variable {s t : State} {c : Cmd} {x : Ctx} {fid p : Nat} {r : Resident}

theorem checkQuery_eq (hx : s.ctx c.ctxNo = some x) : s.checkQuery c =
    s.complete c.fid stOk (toLe x.reexecs 4 ++ toLe x.checkFaults 4 ++ toLe x.expels 4 ++ toLe x.level 1 ++ toLe x.mask 1) := by
  rw [checkQuery, hx]

/- RESIDENT_REF. -/

theorem residentRef_of_misaligned (h : c.fld 16 6 % 65536 ≠ 0) : s.residentRef c = s.answer c stBadField := if_pos h

theorem residentRef_of_unknown (ha : c.fld 16 6 % 65536 = 0) (hx : s.ctx c.ctxNo = some x) (hr : x.residents.get? c.residentKey = none) :
    s.residentRef c = s.answer c stResidentBadRef := by
  simp [residentRef, tileBytes, ha, hx, hr]

/-- A region is registered over tiles that fill it and lie in MODEL segments (R435). -/
theorem residentRef_of_known (ha : c.fld 16 6 % 65536 = 0) (hx : s.ctx c.ctxNo = some x) (hr : x.residents.get? c.residentKey = some r) :
    s.residentRef c = if r.rows = 128 * c.fld 24 4 ∧ x.modelTiles (c.fld 16 6) (c.fld 24 4) = true then
        (s.modCtx c.ctxNo (fun y => { y with residents := y.residents.upd c.residentKey (fun z =>
          { z with reg := some (c.fld 16 6, c.fld 24 4), armed := false }) })).answer c stOk
      else s.answer c stResidentBadRef := by
  by_cases hfill : r.rows = 128 * c.fld 24 4 ∧ x.modelTiles (c.fld 16 6) (c.fld 24 4) = true
  · simp [residentRef, tileBytes, ha, hx, hr, hfill]
  · rw [if_neg hfill]
    simp only [residentRef, tileBytes, ha, hx, hr, ne_eq, not_true_eq_false, if_false]
    exact if_pos (by simpa [Decidable.imp_iff_not_or] using hfill)

/- RESIDENT_ACK. -/

/-- A region that is lost no more and reads zero until it is written (R436). -/
def regionAcked (s : State) (c : Cmd) (r : Resident) : State :=
  (s.modScratch (c.fld 8 1 % 8) (fun p => p.markScrub r.first r.rows)).modCtx c.ctxNo (fun y =>
    { y with residents := y.residents.upd c.residentKey (fun z => { z with lost := false, owed := false }) })

theorem residentAck_of_lost (hx : s.ctx c.ctxNo = some x) (hr : x.residents.get? c.residentKey = some r) (hl : r.lost = true) :
    s.residentAck c = (s.regionAcked c r).answer c stOk := by
  simp [residentAck, hx, hr, hl, regionAcked]

theorem residentAck_of_kept (hx : s.ctx c.ctxNo = some x) (h : (x.residents.get? c.residentKey).all (fun r => !r.lost) = true) :
    s.residentAck c = s.answer c stOk := by
  cases hr : x.residents.get? c.residentKey with
  | none => simp [residentAck, hx, hr]
  | some r =>
    have hl : r.lost = false := by simpa [hr] using h
    simp [residentAck, hx, hr, hl]

/-- The rows of the region await scrub on the carrier of its core. -/
theorem regionAcked_eq (hp : s.carrier (c.fld 8 1 % 8) = some p) (r : Resident) :
    s.regionAcked c r = (s.modPc p (fun q => q.markScrub r.first r.rows)).modCtx c.ctxNo (fun y =>
      { y with residents := y.residents.upd c.residentKey (fun z => { z with lost := false, owed := false }) }) := by
  rw [regionAcked, modScratch, hp]

theorem regionAcked_ctx (hx : s.ctx c.ctxNo = some x) (hp : s.carrier (c.fld 8 1 % 8) = some p) (r : Resident) : (s.regionAcked c r).ctx c.ctxNo =
    some { x with residents := x.residents.upd c.residentKey (fun z => { z with lost := false, owed := false }) } := by
  rw [regionAcked_eq hp]
  exact ctx_modCtx_of_some (s := s.modPc p _) hx _

theorem residentAck_result (hc : s.CmdReady fid 0x42 stBadField c) (hx : s.ctx c.ctxNo = some x) (hr : x.residents.get? c.residentKey = some r)
    (hl : r.lost = true) (hp : s.carrier (c.fld 8 1 % 8) = some p) (hlen : p < s.pcores.length) : ∃ t, exec (.residentAck fid) s = .next t ∧
      t.cmds.find fid = none ∧ (∀ k, r.first ≤ k → k < r.first + r.rows → (t.pcr p).row k = 0) ∧ t.lcores = s.lcores ∧ t.dram = s.dram ∧
      (∀ q, q ≠ p → t.pcr q = s.pcr q) ∧ ∃ y, t.ctx c.ctxNo = some y ∧ (y.residents.get? c.residentKey).map (fun z => z.lost) = some false := by
  have hframe : s.checkCmd (s.regionAcked c r) = s.regionAcked c r := by
    rw [regionAcked_eq hp]
    rfl
  have hpcores : ((s.regionAcked c r).complete fid stOk []).pcores = (s.modPc p (fun q => q.markScrub r.first r.rows)).pcores := by
    rw [complete_eq_cplOf, regionAcked_eq hp]
    rfl
  have hpcr (q : Nat) : ((s.regionAcked c r).complete fid stOk []).pcr q = (s.modPc p (fun q => q.markScrub r.first r.rows)).pcr q := by
    rw [pcr, hpcores, pcr]
  obtain ⟨y, hy, hmask⟩ := exists_ctx_complete (regionAcked_ctx hx hp r) fid stOk []
  have hres := congrArg Ctx.residents hmask
  refine ⟨_, hc.row_done (by decide) s.checkCmd (checkCmd_complete hframe fid stOk []) (residentAck_of_lost hx hr hl), complete_gone _ _ _ _,
    fun k hlo hhi => ?_, ?_, ?_, fun q hq => (hpcr q).trans (pcr_modPc_ne s _ hq), y, hy, ?_⟩
  · rw [hpcr, pcr_modPc_self s _ hlen]
    exact PCore.row_markScrub_of_mem _ hlo hhi
  · rw [complete_eq_cplOf, regionAcked_eq hp]
    rfl
  · rw [complete_eq_cplOf, regionAcked_eq hp]
    rfl
  · rw [show y.residents = _ from hres]
    show ((x.residents.upd c.residentKey _).get? c.residentKey).map _ = _
    rw [AList.get?_upd_self, hr]
    rfl

end State

/-- Settles O29: each row acts by its equation; the rows of an acknowledged region await scrub on its core's carrier, where they read zero
(`State.residentAck_result`). -/
theorem checkCommands : Obligations.CheckCommands := by
  refine ⟨fun s fid c hc => hc.row_done (by decide) s.checkCmd (State.checkCmd_complete rfl fid stOk []) rfl,
    fun s fid c x hc hx => hc.row_complete s.checkCmd (State.checkCmd_complete rfl fid stOk _) (State.checkQuery_eq hx),
    fun s fid c x r hc hx hr ha => ?_, fun s fid p c x r hc hx hr hl hp hlen => State.residentAck_result hc hx hr hl hp hlen,
    fun s fid c x hc hx h => hc.row_complete s.checkCmd (State.checkCmd_complete rfl fid _ _) (State.residentAck_of_kept hx h),
    fun s fid c x hc hx => ⟨fun h => ?_, fun ha hr => ?_⟩⟩
  · have hrun := State.residentRef_of_known ha hx hr
    split
    · next h => exact hc.row_done (by decide) s.checkCmd (State.checkCmd_complete rfl fid stOk []) (hrun.trans (if_pos h))
    · next h => exact hc.row_complete s.checkCmd (State.checkCmd_complete rfl fid _ _) (hrun.trans (if_neg h))
  · exact hc.row_complete s.checkCmd (State.checkCmd_complete rfl fid _ _) (State.residentRef_of_misaligned h)
  · exact hc.row_complete s.checkCmd (State.checkCmd_complete rfl fid _ _) (State.residentRef_of_unknown ha hx hr)

end Sys2Proof.Machine

/- Replay captures: their commands, and what ends them (R443 to R449). -/

namespace Sys2Proof.Machine

/-- The capture that a REPLAY_START describes: nothing is written yet (R443). -/
def Cmd.newCapture (c : Cmd) : Replay :=
  { active := true, full := c.fld 10 1 % 2 == 1, win := c.fld 8 2, off := c.fld 16 8, len := c.fld 24 8, written := 0, records := 0, reason := 0,
    held := [] }

namespace State

variable {s t u : State} {c : Cmd} {x : Ctx} {fid n : Nat}

/- Which operations leave the contexts alone. -/

@[simp] theorem send_ctxs (s : State) (o : Out) : (s.send o).ctxs = s.ctxs := by rw [send_eq]

theorem foldl_ctxs {α : Type} {f : State → α → State} (h : ∀ (s : State) (a : α), (f s a).ctxs = s.ctxs) (l : List α) (s : State) :
    (l.foldl f s).ctxs = s.ctxs :=
  List.foldlRecOn l f (motive := fun t : State => t.ctxs = s.ctxs) rfl (fun t ht a _ => (h t a).trans ht)

@[simp] theorem hostWrite_ctxs (s : State) (f : Nat) (p : Option Nat) (a : Nat) (d : Bytes) : (s.hostWrite f p a d).ctxs = s.ctxs :=
  foldl_ctxs (fun _ _ => send_ctxs _ _) _ _

@[simp] theorem msix_ctxs (s : State) (f v : Nat) : (s.msix f v).ctxs = s.ctxs := by
  unfold msix
  dsimp only
  split
  · rfl
  · exact send_ctxs _ _

@[simp] theorem deliverLog_ctxs (s : State) (i : LogItem) : (s.deliverLog i).ctxs = s.ctxs := by
  unfold deliverLog
  split
  · exact hostWrite_ctxs _ _ _ _ _
  · rfl

@[simp] theorem flushLog_ctxs (s : State) (f : Nat) : (s.flushLog f).ctxs = s.ctxs := foldl_ctxs deliverLog_ctxs _ s

@[simp] theorem writeCpl_ctxs (s : State) (q : QRef) (r : CplRing) (h : HeldCpl) : (s.writeCpl q r h).ctxs = s.ctxs := by
  unfold writeCpl
  cases q <;> cases h.irq <;> simp

@[simp] theorem postCpl_ctxs (s : State) (q : QRef) (h : HeldCpl) : (s.postCpl q h).ctxs = s.ctxs := by
  unfold postCpl
  split
  · rfl
  · split
    · exact writeCpl_ctxs _ _ _ _
    · cases q <;> rfl

@[simp] theorem settleAdmin_ctxs (s : State) (q : QRef) : (s.settleAdmin q).ctxs = s.ctxs := by
  unfold settleAdmin
  cases q with
  | admin f =>
    dsimp only
    split <;> rfl
  | pair n => rfl

/-- A command whose record does not wait writes none. -/
theorem recordWaiting_of_not_held (h : ∀ n, c.ctx = some n → (s.heldRecords n).contains c.fid = false) (b : Bytes) : s.recordWaiting c b = s := by
  unfold recordWaiting
  split
  · rfl
  · next n hn => exact if_pos (by rw [h n hn]; rfl)

/-- A completion that no capture records leaves the contexts as they are. -/
theorem complete_ctxs (hf : s.cmds.find fid = some c) (hr : c.recorded = false)
    (hh : ∀ n, c.ctx = some n → (s.heldRecords n).contains c.fid = false) (st : Nat) (r : Bytes) : (s.complete fid st r).ctxs = s.ctxs := by
  have hflush : (s.flushLog c.func).recordWaiting c [] = s.flushLog c.func := by
    refine recordWaiting_of_not_held (fun n hn => ?_) []
    rw [heldRecords, State.ctx, flushLog_ctxs]
    exact hh n hn
  unfold complete
  simp only [hf, hflush, hr, settleAdmin_ctxs, postCpl_ctxs]
  cases c.ctx <;> cases c.q <;> simp

/- Which operations leave the records that wait. -/

/-- The same records wait in every context. -/
def SameHeld (s t : State) : Prop := ∀ n, t.heldRecords n = s.heldRecords n

theorem SameHeld.refl (s : State) : s.SameHeld s := fun _ => rfl

theorem SameHeld.trans (h : s.SameHeld t) (k : t.SameHeld u) : s.SameHeld u := fun n => (k n).trans (h n)

theorem sameHeld_of (h : t.ctxs = s.ctxs) : s.SameHeld t := fun n => by
  rw [heldRecords, heldRecords, State.ctx, State.ctx, h]

theorem sameHeld_modCtx (s : State) (k : Nat) {f : Ctx → Ctx} (h : ∀ x, (f x).replay.held = x.replay.held) : s.SameHeld (s.modCtx k f) := by
  intro n
  simp only [heldRecords, State.ctx, modCtx_ctxs, AList.get?_upd]
  split
  · next hk =>
    subst hk
    cases s.ctxs.get? n <;> simp [h]
  · rfl

theorem sameHeld_nextSeal {ctx g k : Nat} (h : s.nextSeal ctx = some (g, k, t)) : s.SameHeld t := by
  unfold nextSeal at h
  split at h
  · cases h
  · split at h
    · cases h
      exact sameHeld_modCtx _ _ (by intro _; rfl)
    · split at h
      · cases h
      · cases h
        exact (sameHeld_modCtx _ _ (by intro _; rfl)).trans (sameHeld_modCtx _ _ (by intro _; rfl))

theorem sameHeld_sealUnit {ctx win k : Nat} {w : Window} {q : Option Nat} {p : Bytes} (h : s.sealUnit ctx win k w q p = some t) : s.SameHeld t := by
  unfold sealUnit at h
  split at h
  · cases h
  · next hs =>
    split at h
    · cases h
      exact sameHeld_nextSeal hs
    · cases h
      exact (sameHeld_nextSeal hs).trans (sameHeld_of (hostWrite_ctxs _ _ _ _ _))

theorem plainWrite_ctxs (s : State) (ctx win off : Nat) (d : Bytes) : (s.plainWrite ctx win off d).s.ctxs = s.ctxs := by
  unfold plainWrite
  split
  · rfl
  · dsimp only
    split
    · split <;> simp
    · rfl

theorem sameHeld_bounceWrite (s : State) (ctx win off : Nat) (q : Option Nat) (d : Bytes) : s.SameHeld (s.bounceWrite ctx win off q d).s := by
  unfold bounceWrite
  split
  · exact SameHeld.refl s
  · dsimp only
    split
    · exact SameHeld.refl s
    · split
      · exact SameHeld.refl s
      · dsimp only
        refine List.foldlRecOn _ _ (motive := fun acc : State × Bool => s.SameHeld acc.1) (SameHeld.refl s) (fun acc hacc i _ => ?_)
        split
        · exact hacc
        · split
          · next hs => exact hacc.trans (sameHeld_sealUnit hs)
          · exact hacc.trans (sameHeld_modCtx _ _ (by intro _; rfl))

theorem sameHeld_winWrite (s : State) (ctx win off : Nat) (q : Option Nat) (d : Bytes) : s.SameHeld (s.winWrite ctx win off q d).s := by
  unfold winWrite
  split
  · exact sameHeld_bounceWrite _ _ _ _ _ _
  · exact sameHeld_of (plainWrite_ctxs _ _ _ _ _)

theorem sameHeld_replayPut (s : State) (ctx : Nat) (b : Bytes) : s.SameHeld (s.replayPut ctx b) := by
  unfold replayPut
  split
  · exact SameHeld.refl s
  · exact ((sameHeld_winWrite _ _ _ _ _ _).trans (sameHeld_modCtx _ _ (by intro _; rfl))).trans (sameHeld_modCtx _ _ (by intro _; rfl))

/-- The STOP record of a capture, where it still fits (R447). -/
def stopRecorded (s : State) (n reason : Nat) (x : Ctx) : State :=
  if x.replay.len < x.replay.written + (if x.confidential then sealedUnit else 64) then s
  else s.replayPut n (replayHeader 64 0x07 0 x.replay.records (2 ^ 64 - 1) (toLe reason 1))

/-- What ends a capture that runs. -/
theorem replayEnd_of_active (hx : s.ctx n = some x) (ha : x.replay.active = true) (reason : Nat) :
    ∃ r, s.replayEnd n reason = ((s.stopRecorded n reason x).modCtx n (fun y =>
      { y with replay := { y.replay with active := false, reason := reason } })).logTo x.func r := by
  unfold replayEnd
  simp only [hx, ha, Bool.not_true, Bool.false_eq_true, if_false]
  exact ⟨_, rfl⟩

theorem posts_stopRecorded (s : State) (n reason : Nat) (x : Ctx) : s.Posts (s.stopRecorded n reason x) := by
  unfold stopRecorded
  generalize (if x.confidential = true then sealedUnit else 64) = unit
  split
  · exact Posts.refl s
  · exact posts_replayPut _ _ _

theorem sameHeld_stopRecorded (s : State) (n reason : Nat) (x : Ctx) : s.SameHeld (s.stopRecorded n reason x) := by
  unfold stopRecorded
  generalize (if x.confidential = true then sealedUnit else 64) = unit
  split
  · exact SameHeld.refl s
  · exact sameHeld_replayPut _ _ _

theorem replayEnd_of_inactive (hx : s.ctx n = some x) (ha : x.replay.active = false) (reason : Nat) : s.replayEnd n reason = s := by
  simp [replayEnd, hx, ha]

/-- A capture that has ended is inactive, and the same records wait (R443). -/
theorem exists_ctx_replayEnd (hx : s.ctx n = some x) (reason : Nat) :
    (∃ y, (s.replayEnd n reason).ctx n = some y ∧ y.replay.active = false) ∧ s.SameHeld (s.replayEnd n reason) := by
  cases ha : x.replay.active with
  | false =>
    rw [replayEnd_of_inactive hx ha]
    exact ⟨⟨x, hx, ha⟩, SameHeld.refl s⟩
  | true =>
    obtain ⟨r, hr⟩ := replayEnd_of_active hx ha reason
    obtain ⟨y, hy, -⟩ := (s.posts_stopRecorded n reason x).exists_ctx hx
    rw [hr]
    refine ⟨⟨{ y with replay := { y.replay with active := false, reason := reason } }, ?_, rfl⟩, ?_⟩
    · rw [State.ctx, logTo_ctxs]
      exact ctx_modCtx_of_some hy _
    · exact ((sameHeld_stopRecorded s n reason x).trans (sameHeld_modCtx _ _ (by intro _; rfl))).trans (sameHeld_of (logTo_ctxs _ _ _))

/- The rows. -/

/-- What sending, logging and recording change lies in the frame of the check rows. -/
theorem checkCmd_of_posts (h : s.checkCmd t = t) (k : t.Posts u) : s.checkCmd u = u := by
  rw [k.parts, ← h]
  rfl

/-- A capture begun, with its START record (R443, R445). -/
def captureStarted (s : State) (c : Cmd) (x : Ctx) : State :=
  (s.modCtx c.ctxNo (fun y => { y with replay := c.newCapture })).replayRec c.ctxNo 0x01 0 (2 ^ 64 - 1)
      (toLe (c.fld 10 1 % 2) 4 ++ toLe x.size 4 ++ toLe s.nv.serial 8 ++ toLe s.nv.svn 2) []

theorem checkCmd_captureStarted (s : State) (c : Cmd) (x : Ctx) : s.checkCmd (s.captureStarted c x) = s.captureStarted c x :=
  checkCmd_of_posts rfl (posts_replayRec _ _ _ _ _ _ _)

/-- The checks of R443, in order. -/
theorem replayStart_of_aligned (hx : s.ctx c.ctxNo = some x) (ha : c.fld 24 8 % 4096 = 0) : s.replayStart c =
    if s.param 0x0607 0 = 0 then s.answer c stRplNotAllowed
    else if x.replay.active then s.answer c stRplActive
    else if s.ctxEmpty c.ctxNo (c.fld 8 2) x = false then s.answer c stRplNotEmpty
    else if x.windows.has (c.fld 8 2) = false then s.answer c stWindowInvalid
    else (s.captureStarted c x).answer c stOk := by
  simp only [replayStart, ha, hx, ne_eq, not_true_eq_false, if_false, Bool.not_eq_true']
  rfl

theorem replayStatus_eq (hx : s.ctx c.ctxNo = some x) : s.replayStatus c = s.complete c.fid stOk (resultAt
    [(8, toLe (b2n x.replay.active + 2 * x.replay.reason) 1), (16, toLe x.replay.written 8), (24, toLe x.replay.records 8)]) := by
  rw [replayStatus, hx]

/-- The command whose capture ends completes, and its capture stays ended: nothing is recorded after the STOP record (R443). -/
theorem exists_ctx_replayStop (hf : s.cmds.find fid = some c) (hx : s.ctx c.ctxNo = some x) (hr : c.recorded = false)
    (hh : s.cmds.list.all (fun e => !x.replay.held.contains e.fid) = true) :
    ∃ y, (s.replayStop c).ctx c.ctxNo = some y ∧ y.replay.active = false := by
  obtain ⟨⟨y, hy, hoff⟩, hheld⟩ := exists_ctx_replayEnd hx 0
  have hfid : c.fid = fid := cmd_fid_of_find hf
  have hmine : x.replay.held.contains c.fid = false := by
    simpa using List.all_eq_true.mp hh c (List.mem_of_find?_eq_some hf)
  have hfind : (s.replayEnd c.ctxNo 0).cmds.find c.fid = some c := by
    rw [(posts_replayEnd s c.ctxNo 0).parts, hfid]
    exact hf
  have hwait (n : Nat) (hn : c.ctx = some n) : ((s.replayEnd c.ctxNo 0).heldRecords n).contains c.fid = false := by
    have hno : c.ctxNo = n := by rw [Cmd.ctxNo, hn, Option.getD_some]
    rw [hheld n, heldRecords, ← hno, hx]
    exact hmine
  refine ⟨y, ?_, hoff⟩
  rw [replayStop, State.ctx, complete_ctxs hfind hr hwait]
  exact hy

end State

/-- Settles O30: REPLAY_START goes through its checks in order (`State.replayStart_of_aligned`); a capture that has ended is inactive
(`State.exists_ctx_replayEnd`), and a completion that nothing records leaves it so (`State.complete_ctxs`). -/
theorem replayCommands : Obligations.ReplayCommands := by
  refine ⟨fun s fid c x hc hx ha => ?_, fun s fid c x hc hx hr hh => ?_,
    fun s fid c x hc hx => hc.row_complete s.checkCmd (State.checkCmd_complete rfl fid stOk _) (State.replayStatus_eq hx)⟩
  · have hrun := State.replayStart_of_aligned hx ha
    have hrefuse {st : Nat} (h : s.replayStart c = s.answer c st) : exec (.replayStart fid) s = .next (s.complete fid st c.refused) :=
      hc.row_complete s.checkCmd (State.checkCmd_complete rfl fid st c.refused) h
    split_ifs at hrun ⊢
    · exact hrefuse hrun
    · exact hrefuse hrun
    · exact hrefuse hrun
    · exact hrefuse hrun
    · exact hc.row_done (by decide) s.checkCmd (State.checkCmd_complete (s.checkCmd_captureStarted c x) fid stOk []) hrun
  · obtain ⟨y, hy, hoff⟩ := State.exists_ctx_replayStop hc.found hx hr hh
    refine ⟨s.checkCmd (s.replayStop c), hc.row_next s.checkCmd rfl, ?_, ⟨y, hy, hoff⟩, rfl, rfl⟩
    rw [← hc.fid_eq]
    exact State.complete_gone _ _ _ _

end Sys2Proof.Machine
